-- ==== Sys2Proof/Word.lean ====
section
/-!
DEFINITION. The words of the machine (R4, R5): bytes and 64-bit words, with no arithmetic beyond `BitVec`'s own.
-/
namespace Sys2Proof

/-- A byte. -/
abbrev Byte := BitVec 8

/-- A 64-bit word: an x register, a slot of a vector register, a CSR. -/
abbrev Word := BitVec 64

end Sys2Proof
end

