-- ==== Sys2Proof/Syntax.lean ====
section
/-!
DEFINITION. The instructions and events of the VRC4-256: one constructor for each row of the opcode table.
The constructors of the vector space carry the three six-bit fields `d`, `a`, `b` of format VV (R302), those of the
system space the fields `rd`, `rs1`, `rs2` of format XR (R303), and those of the RISC-V subset every field of their
encoding (R315), so that an instruction word can be given back whole as stval (R86, R95). The event rows carry what the
outside world, or an agent of the device that the specification leaves free, decides at that step.
-/
namespace Sys2Proof

/-- The two DRAM tiers (R149). -/
inductive Tier where
  | fast
  | capacity
  deriving DecidableEq, Repr

/-- The two levels of tile memory (R124). -/
inductive Level where
  | l0
  | l1
  deriving DecidableEq, Repr

/-- Who signals a freeze of the device (R295). -/
inductive FreezeSource where
  | titania
  | onyx
  | debugPort
  | titaniaMemory
  deriving DecidableEq, Repr

/-- What a containment reset acts on (R291). -/
inductive ResetTarget where
  | core (c : Nat)
  | region (r : Nat)
  deriving DecidableEq, Repr

/-- What a watchdog watches (R278). -/
inductive Watched where
  | strand (core k : Nat)
  | queue (core q : Nat)
  | circuit (core q : Nat)
  deriving DecidableEq, Repr

/-- Where ECC corrects a soft error (R277). -/
inductive EccPlace where
  | dramChannel (tier : Tier) (channel : Nat)
  | tileBank (level : Level) (unit bank : Nat)
  deriving DecidableEq, Repr

/-- Why an instruction fetch fails (R86, R170). -/
inductive FetchFault where
  | page
  | access
  | poison (line : Nat)
  deriving DecidableEq, Repr

/-- What a client asks of Titania through its message channel, and Titania does (R470). -/
inductive ClientService where
  | admitJob (record : BitVec 64) (region : Nat)
  | powerCap (watts : Nat)
  | attest (request : List Byte)
  | checkpoint
  deriving DecidableEq, Repr

/-- One constructor for each row of spec/opcode_table.json. -/
inductive Instr where
  -- Vector space, format VV (R302, R306)
  | vadd (d a b : BitVec 6)
  | vaddx (d a b : BitVec 6)
  | vsub (d a b : BitVec 6)
  | vsubx (d a b : BitVec 6)
  | vrsubx (d a b : BitVec 6)
  | vmul (d a b : BitVec 6)
  | vmulx (d a b : BitVec 6)
  | vmulh (d a b : BitVec 6)
  | vmulhu (d a b : BitVec 6)
  | vmulhx (d a b : BitVec 6)
  | vmac (d a b : BitVec 6)
  | vmacx (d a b : BitVec 6)
  | vdot2 (d a b : BitVec 6)
  | vdot2x (d a b : BitVec 6)
  | vdiv (d a b : BitVec 6)
  | vrem (d a b : BitVec 6)
  | vmin (d a b : BitVec 6)
  | vmax (d a b : BitVec 6)
  | vminx (d a b : BitVec 6)
  | vmaxx (d a b : BitVec 6)
  | vand (d a b : BitVec 6)
  | vor (d a b : BitVec 6)
  | vxor (d a b : BitVec 6)
  | vandx (d a b : BitVec 6)
  | vorx (d a b : BitVec 6)
  | vxorx (d a b : BitVec 6)
  | vsll (d a b : BitVec 6)
  | vsllx (d a b : BitVec 6)
  | vsrl (d a b : BitVec 6)
  | vsrlx (d a b : BitVec 6)
  | vsra (d a b : BitVec 6)
  | vsrax (d a b : BitVec 6)
  | vsrar (d a b : BitVec 6)
  | vsrarx (d a b : BitVec 6)
  | vnarrow (d a b : BitVec 6)
  | vwidenl (d a b : BitVec 6)
  | vwidenh (d a b : BitVec 6)
  | vabs (d a b : BitVec 6)
  | vneg (d a b : BitVec 6)
  | vclz (d a b : BitVec 6)
  | vpopc (d a b : BitVec 6)
  | vavg (d a b : BitVec 6)
  | vmerge (d a b : BitVec 6)
  | vsplat (d a b : BitVec 6)
  | viota (d a b : BitVec 6)
  | vcmpeq (d a b : BitVec 6)
  | vcmpne (d a b : BitVec 6)
  | vcmplt (d a b : BitVec 6)
  | vcmpltu (d a b : BitVec 6)
  | vcmple (d a b : BitVec 6)
  | vcmpeqx (d a b : BitVec 6)
  | vcmpltx (d a b : BitVec 6)
  | vcmpltux (d a b : BitVec 6)
  | vcmplex (d a b : BitVec 6)
  | vfadd (d a b : BitVec 6)
  | vfaddx (d a b : BitVec 6)
  | vfsub (d a b : BitVec 6)
  | vfsubx (d a b : BitVec 6)
  | vfmul (d a b : BitVec 6)
  | vfmulx (d a b : BitVec 6)
  | vfmac (d a b : BitVec 6)
  | vfmacx (d a b : BitVec 6)
  | vfnms (d a b : BitVec 6)
  | vfdiv (d a b : BitVec 6)
  | vfsqrt (d a b : BitVec 6)
  | vfrcp (d a b : BitVec 6)
  | vfrsq (d a b : BitVec 6)
  | vfmin (d a b : BitVec 6)
  | vfmax (d a b : BitVec 6)
  | vfabs (d a b : BitVec 6)
  | vfneg (d a b : BitVec 6)
  | vfrint (d a b : BitVec 6)
  | vfexp2f (d a b : BitVec 6)
  | vflog2f (d a b : BitVec 6)
  | vfldexp (d a b : BitVec 6)
  | vfgetexp (d a b : BitVec 6)
  | vfcmpeq (d a b : BitVec 6)
  | vfcmplt (d a b : BitVec 6)
  | vfcmple (d a b : BitVec 6)
  | vfcmpun (d a b : BitVec 6)
  | vfclass (d a b : BitVec 6)
  | vcvtif (d a b : BitVec 6)
  | vcvtfi (d a b : BitVec 6)
  | vcvtff (d a b : BitVec 6)
  | vfdot2 (d a b : BitVec 6)
  | vslideup (d a b : BitVec 6)
  | vslidedn (d a b : BitVec 6)
  | vslide1up (d a b : BitVec 6)
  | vslide1dn (d a b : BitVec 6)
  | vrgath (d a b : BitVec 6)
  | vcompress (d a b : BitVec 6)
  | vexpand (d a b : BitVec 6)
  | vrev (d a b : BitVec 6)
  | vzip (d a b : BitVec 6)
  | vunzip (d a b : BitVec 6)
  | vredsum (d a b : BitVec 6)
  | vredmax (d a b : BitVec 6)
  | vredmin (d a b : BitVec 6)
  | vredand (d a b : BitVec 6)
  | vredor (d a b : BitVec 6)
  | vfredsum (d a b : BitVec 6)
  | vfredmax (d a b : BitVec 6)
  | vfredmin (d a b : BitVec 6)
  | vmand (d a b : BitVec 6)
  | vmor (d a b : BitVec 6)
  | vmxor (d a b : BitVec 6)
  | vmnot (d a b : BitVec 6)
  | vmpopc (d a b : BitVec 6)
  | vmfirst (d a b : BitVec 6)
  | vextx (d a b : BitVec 6)
  | vinsx (d a b : BitVec 6)
  | vmov (d a b : BitVec 6)
  | vmtov (d a b : BitVec 6)
  | vvtom (d a b : BitVec 6)
  | vld (d a b : BitVec 6)
  | vlds (d a b : BitVec 6)
  | vldx (d a b : BitVec 6)
  | vldb (d a b : BitVec 6)
  | vst (d a b : BitVec 6)
  | vsts (d a b : BitVec 6)
  | vstx (d a b : BitVec 6)
  | vstu (d a b : BitVec 6)
  | vstsu (d a b : BitVec 6)
  | vstxu (d a b : BitVec 6)
  | vldt (d a b : BitVec 6)
  | vstt (d a b : BitVec 6)
  | vldtx (d a b : BitVec 6)
  | vsttx (d a b : BitVec 6)
  | vtaddx (d a b : BitVec 6)
  | vtcasx (d a b : BitVec 6)
  | vtmaxx (d a b : BitVec 6)
  | vldw (d a b : BitVec 6)
  | vstw (d a b : BitVec 6)
  | vataddx (d a b : BitVec 6)
  | vatcasx (d a b : BitVec 6)
  | vpush (d a b : BitVec 6)
  | varm (d a b : BitVec 6)
  | vpref (d a b : BitVec 6)
  | mldw (d a b : BitVec 6)
  | mrow (d a b : BitVec 6)
  | mrelw (d a b : BitVec 6)
  | mwaitw (d a b : BitVec 6)
  | mstat (d a b : BitVec 6)
  | vscacc (d a b : BitVec 6)
  | vscapply (d a b : BitVec 6)
  | vbscale (d a b : BitVec 6)
  | vmxq (d a b : BitVec 6)
  | vcbdec (d a b : BitVec 6)
  | vcbld (d a b : BitVec 6)
  | vaccrd (d a b : BitVec 6)
  | fscan (d a b : BitVec 6)
  | fscand (d a b : BitVec 6)
  | fisect (d a b : BitVec 6)
  | funion (d a b : BitVec 6)
  | frept (d a b : BitVec 6)
  | fredc (d a b : BitVec 6)
  | fval (d a b : BitVec 6)
  | fwrc (d a b : BitVec 6)
  | fwrv (d a b : BitVec 6)
  | fsteer (d a b : BitVec 6)
  | fmerge (d a b : BitVec 6)
  | floopc (d a b : BitVec 6)
  | fjoin (d a b : BitVec 6)
  | fxlate (d a b : BitVec 6)
  | fgath (d a b : BitVec 6)
  | fscat (d a b : BitVec 6)
  | fsink (d a b : BitVec 6)
  | fcrd (d a b : BitVec 6)
  | fref (d a b : BitVec 6)
  | fpack (d a b : BitVec 6)
  | fhashi (d a b : BitVec 6)
  | fdrop (d a b : BitVec 6)
  | rmatch (d a b : BitVec 6)
  | qpushx (d a b : BitVec 6)
  | qpopx (d a b : BitVec 6)
  | qstopx (d a b : BitVec 6)
  | qdone (d a b : BitVec 6)
  | qpeek (d a b : BitVec 6)
  | qdrain (d a b : BitVec 6)
  -- A word that no instruction encodes, a fetch that fails, and the events that the device's own agents bring about
  | interruptEntry (core strand : Nat)
  | breakTrapEntry (core strand : Nat)
  | waitEnd (core strand : Nat)
  | vectorAdmission (core strand : Nat)
  | vectorWalkComplete (core strand reg : Nat)
  | copyActivate (core entry : Nat)
  | copyBeat (core entry : Nat)
  | arrivalToken (core entry : Nat)
  | copyCompletionToken (core entry : Nat)
  | chainBreak (core slot : Nat)
  | slotEnterTemporal (core slot : Nat)
  | remainderWord (core slot : Nat)
  | runComplete (core slot : Nat)
  | lgNodeFire (core slot node : Nat)
  | mnNodeFire (core slot node : Nat)
  | sourcePortPush (core slot node : Nat)
  | sinkPortWrite (core slot node : Nat)
  | tokenLand (core queue : Nat)
  | advancePass (router tag : Nat)
  | watchFire (core strand index : Nat)
  | stepEntry (region leaf : Nat)
  | stepComplete (region leaf : Nat)
  | jobSelection (region : Nat)
  | dependenceMet (job : BitVec 32)
  | stipSet (core strand : Nat)
  | instructionFetchFault (why : FetchFault)
  | reservedEncoding (w : BitVec 32)
  | rowReopenGiveup (core strand index : Nat)
  | graceExpiry (region : Nat)
  | stepBoundaryStop (region : Nat)
  -- System space, format XR (R303, R307)
  | setmode (rd rs1 rs2 : BitVec 5)
  | getmode (rd rs1 rs2 : BitVec 5)
  | setvl (rd rs1 rs2 : BitVec 5)
  | setvstart (rd rs1 rs2 : BitVec 5)
  | probe (rd rs1 rs2 : BitVec 5)
  | punpin (rd rs1 rs2 : BitVec 5)
  | pstat (rd rs1 rs2 : BitVec 5)
  | talloc (rd rs1 rs2 : BitVec 5)
  | tfree (rd rs1 rs2 : BitVec 5)
  | tstate (rd rs1 rs2 : BitVec 5)
  | tsetst (rd rs1 rs2 : BitVec 5)
  | tgen (rd rs1 rs2 : BitVec 5)
  | rowopen (rd rs1 rs2 : BitVec 5)
  | rowrel (rd rs1 rs2 : BitVec 5)
  | rowstat (rd rs1 rs2 : BitVec 5)
  | acopy (rd rs1 rs2 : BitVec 5)
  | await (rd rs1 rs2 : BitVec 5)
  | acancel (rd rs1 rs2 : BitVec 5)
  | astat (rd rs1 rs2 : BitVec 5)
  | chcfg (rd rs1 rs2 : BitVec 5)
  | chrel (rd rs1 rs2 : BitVec 5)
  | run (rd rs1 rs2 : BitVec 5)
  | chwait (rd rs1 rs2 : BitVec 5)
  | chstat (rd rs1 rs2 : BitVec 5)
  | chbar (rd rs1 rs2 : BitVec 5)
  | chresp (rd rs1 rs2 : BitVec 5)
  | chbrk (rd rs1 rs2 : BitVec 5)
  | sbind (rd rs1 rs2 : BitVec 5)
  | sunbind (rd rs1 rs2 : BitVec 5)
  | fenceo (rd rs1 rs2 : BitVec 5)
  | fencee (rd rs1 rs2 : BitVec 5)
  | fencex (rd rs1 rs2 : BitVec 5)
  | hintnext (rd rs1 rs2 : BitVec 5)
  | waitvis (rd rs1 rs2 : BitVec 5)
  | enq (rd rs1 rs2 : BitVec 5)
  | deq (rd rs1 rs2 : BitVec 5)
  | enqc (rd rs1 rs2 : BitVec 5)
  | ctxsv (rd rs1 rs2 : BitVec 5)
  | ctxld (rd rs1 rs2 : BitVec 5)
  | evrd (rd rs1 rs2 : BitVec 5)
  | tsnow (rd rs1 rs2 : BitVec 5)
  | strstart (rd rs1 rs2 : BitVec 5)
  | stepend (rd rs1 rs2 : BitVec 5)
  | trapx (rd rs1 rs2 : BitVec 5)
  | rlimset (rd rs1 rs2 : BitVec 5)
  -- The RISC-V subset (R315)
  | lui (rd : BitVec 5) (imm : BitVec 20)
  | auipc (rd : BitVec 5) (imm : BitVec 20)
  | jal (rd : BitVec 5) (imm : BitVec 20)
  | jalr (rd rs1 : BitVec 5) (imm : BitVec 12)
  | beq (rs1 rs2 : BitVec 5) (imm : BitVec 12)
  | bne (rs1 rs2 : BitVec 5) (imm : BitVec 12)
  | blt (rs1 rs2 : BitVec 5) (imm : BitVec 12)
  | bge (rs1 rs2 : BitVec 5) (imm : BitVec 12)
  | bltu (rs1 rs2 : BitVec 5) (imm : BitVec 12)
  | bgeu (rs1 rs2 : BitVec 5) (imm : BitVec 12)
  | lb (rd rs1 : BitVec 5) (imm : BitVec 12)
  | lh (rd rs1 : BitVec 5) (imm : BitVec 12)
  | lw (rd rs1 : BitVec 5) (imm : BitVec 12)
  | ld (rd rs1 : BitVec 5) (imm : BitVec 12)
  | lbu (rd rs1 : BitVec 5) (imm : BitVec 12)
  | lhu (rd rs1 : BitVec 5) (imm : BitVec 12)
  | lwu (rd rs1 : BitVec 5) (imm : BitVec 12)
  | sb (rs1 rs2 : BitVec 5) (imm : BitVec 12)
  | sh (rs1 rs2 : BitVec 5) (imm : BitVec 12)
  | sw (rs1 rs2 : BitVec 5) (imm : BitVec 12)
  | sd (rs1 rs2 : BitVec 5) (imm : BitVec 12)
  | addi (rd rs1 : BitVec 5) (imm : BitVec 12)
  | slti (rd rs1 : BitVec 5) (imm : BitVec 12)
  | sltiu (rd rs1 : BitVec 5) (imm : BitVec 12)
  | xori (rd rs1 : BitVec 5) (imm : BitVec 12)
  | ori (rd rs1 : BitVec 5) (imm : BitVec 12)
  | andi (rd rs1 : BitVec 5) (imm : BitVec 12)
  | slli (rd rs1 : BitVec 5) (sh : BitVec 6)
  | srli (rd rs1 : BitVec 5) (sh : BitVec 6)
  | srai (rd rs1 : BitVec 5) (sh : BitVec 6)
  | add (rd rs1 rs2 : BitVec 5)
  | sub (rd rs1 rs2 : BitVec 5)
  | sll (rd rs1 rs2 : BitVec 5)
  | slt (rd rs1 rs2 : BitVec 5)
  | sltu (rd rs1 rs2 : BitVec 5)
  | xor (rd rs1 rs2 : BitVec 5)
  | srl (rd rs1 rs2 : BitVec 5)
  | sra (rd rs1 rs2 : BitVec 5)
  | or (rd rs1 rs2 : BitVec 5)
  | and (rd rs1 rs2 : BitVec 5)
  | addiw (rd rs1 : BitVec 5) (imm : BitVec 12)
  | slliw (rd rs1 sh : BitVec 5)
  | srliw (rd rs1 sh : BitVec 5)
  | sraiw (rd rs1 sh : BitVec 5)
  | addw (rd rs1 rs2 : BitVec 5)
  | subw (rd rs1 rs2 : BitVec 5)
  | sllw (rd rs1 rs2 : BitVec 5)
  | srlw (rd rs1 rs2 : BitVec 5)
  | sraw (rd rs1 rs2 : BitVec 5)
  | fence (rd rs1 : BitVec 5) (imm : BitVec 12)
  | fenceI (rd rs1 : BitVec 5) (imm : BitVec 12)
  | ecall
  | ebreak
  | mul (rd rs1 rs2 : BitVec 5)
  | mulh (rd rs1 rs2 : BitVec 5)
  | mulhsu (rd rs1 rs2 : BitVec 5)
  | mulhu (rd rs1 rs2 : BitVec 5)
  | div (rd rs1 rs2 : BitVec 5)
  | divu (rd rs1 rs2 : BitVec 5)
  | rem (rd rs1 rs2 : BitVec 5)
  | remu (rd rs1 rs2 : BitVec 5)
  | mulw (rd rs1 rs2 : BitVec 5)
  | divw (rd rs1 rs2 : BitVec 5)
  | divuw (rd rs1 rs2 : BitVec 5)
  | remw (rd rs1 rs2 : BitVec 5)
  | remuw (rd rs1 rs2 : BitVec 5)
  | lrW (rd rs1 : BitVec 5) (aq rl : BitVec 1)
  | lrD (rd rs1 : BitVec 5) (aq rl : BitVec 1)
  | scW (rd rs1 rs2 : BitVec 5) (aq rl : BitVec 1)
  | scD (rd rs1 rs2 : BitVec 5) (aq rl : BitVec 1)
  | amoswapW (rd rs1 rs2 : BitVec 5) (aq rl : BitVec 1)
  | amoswapD (rd rs1 rs2 : BitVec 5) (aq rl : BitVec 1)
  | amoaddW (rd rs1 rs2 : BitVec 5) (aq rl : BitVec 1)
  | amoaddD (rd rs1 rs2 : BitVec 5) (aq rl : BitVec 1)
  | amoxorW (rd rs1 rs2 : BitVec 5) (aq rl : BitVec 1)
  | amoxorD (rd rs1 rs2 : BitVec 5) (aq rl : BitVec 1)
  | amoandW (rd rs1 rs2 : BitVec 5) (aq rl : BitVec 1)
  | amoandD (rd rs1 rs2 : BitVec 5) (aq rl : BitVec 1)
  | amoorW (rd rs1 rs2 : BitVec 5) (aq rl : BitVec 1)
  | amoorD (rd rs1 rs2 : BitVec 5) (aq rl : BitVec 1)
  | amominW (rd rs1 rs2 : BitVec 5) (aq rl : BitVec 1)
  | amominD (rd rs1 rs2 : BitVec 5) (aq rl : BitVec 1)
  | amomaxW (rd rs1 rs2 : BitVec 5) (aq rl : BitVec 1)
  | amomaxD (rd rs1 rs2 : BitVec 5) (aq rl : BitVec 1)
  | amominuW (rd rs1 rs2 : BitVec 5) (aq rl : BitVec 1)
  | amominuD (rd rs1 rs2 : BitVec 5) (aq rl : BitVec 1)
  | amomaxuW (rd rs1 rs2 : BitVec 5) (aq rl : BitVec 1)
  | amomaxuD (rd rs1 rs2 : BitVec 5) (aq rl : BitVec 1)
  | csrrw (rd : BitVec 5) (csr : BitVec 12) (rs1 : BitVec 5)
  | csrrs (rd : BitVec 5) (csr : BitVec 12) (rs1 : BitVec 5)
  | csrrc (rd : BitVec 5) (csr : BitVec 12) (rs1 : BitVec 5)
  | csrrwi (rd : BitVec 5) (csr : BitVec 12) (rs1 : BitVec 5)
  | csrrsi (rd : BitVec 5) (csr : BitVec 12) (rs1 : BitVec 5)
  | csrrci (rd : BitVec 5) (csr : BitVec 12) (rs1 : BitVec 5)
  | addUw (rd rs1 rs2 : BitVec 5)
  | sh1add (rd rs1 rs2 : BitVec 5)
  | sh2add (rd rs1 rs2 : BitVec 5)
  | sh3add (rd rs1 rs2 : BitVec 5)
  | sh1addUw (rd rs1 rs2 : BitVec 5)
  | sh2addUw (rd rs1 rs2 : BitVec 5)
  | sh3addUw (rd rs1 rs2 : BitVec 5)
  | slliUw (rd rs1 : BitVec 5) (sh : BitVec 6)
  | andn (rd rs1 rs2 : BitVec 5)
  | orn (rd rs1 rs2 : BitVec 5)
  | xnor (rd rs1 rs2 : BitVec 5)
  | clz (rd rs1 : BitVec 5)
  | clzw (rd rs1 : BitVec 5)
  | ctz (rd rs1 : BitVec 5)
  | ctzw (rd rs1 : BitVec 5)
  | cpop (rd rs1 : BitVec 5)
  | cpopw (rd rs1 : BitVec 5)
  | max (rd rs1 rs2 : BitVec 5)
  | maxu (rd rs1 rs2 : BitVec 5)
  | min (rd rs1 rs2 : BitVec 5)
  | minu (rd rs1 rs2 : BitVec 5)
  | sextB (rd rs1 : BitVec 5)
  | sextH (rd rs1 : BitVec 5)
  | zextH (rd rs1 : BitVec 5)
  | rol (rd rs1 rs2 : BitVec 5)
  | rolw (rd rs1 rs2 : BitVec 5)
  | ror (rd rs1 rs2 : BitVec 5)
  | rori (rd rs1 : BitVec 5) (sh : BitVec 6)
  | roriw (rd rs1 sh : BitVec 5)
  | rorw (rd rs1 rs2 : BitVec 5)
  | orcB (rd rs1 : BitVec 5)
  | rev8 (rd rs1 : BitVec 5)
  | czeroEqz (rd rs1 rs2 : BitVec 5)
  | czeroNez (rd rs1 rs2 : BitVec 5)
  | sret
  | wfi
  | sfenceVma (rs1 : BitVec 5)
  -- Every other event (95_what_each_step_holds)
  | deviceReset
  | bootImageReceived (image config : List Byte) (secver : BitVec 32) (mldsa ecdsa : List Byte)
  | bootRetry
  | securityVersionRaise
  | spdmRequest (port : Nat) (req : List Byte)
  | keySlotLoad (slot : Nat) (key : BitVec 512)
  | keySlotZeroize (slot : Nat)
  | linkKeyUpdate (port : Nat) (tx rx : BitVec 256)
  | hostWindowWrite (port addr stream : Nat) (data : List Byte)
  | hostWindowRead (port addr stream len : Nat)
  | hostDoorbellWrite (chan tail : Nat)
  | clientRequest (chan : Nat) (svc : Option ClientService)
  | hostLinkFailure (port : Nat)
  | hostLinkReset (port : Nat)
  | deviceWindowMap (port index base page pages : Nat)
  | herezFlitReceive (port : Nat) (flit : List Byte)
  | escapeChannelMove (group cls : Nat)
  | herezPortRetrain (port : Nat)
  | herezPortDown (port : Nat)
  | herezPortUp (port : Nat)
  | remoteFabricAccess (window tag addr len : Nat) (data : Option (List Byte))
  | checkpointRequest
  | checkpointEngineDone
  | checkpointRestore (fast cap : List (Nat × Byte)) (poisonFast poisonCap : List (Nat × Bool)) (keys : List Byte)
  | powerCapSet (watts : Nat)
  | clockStep (power : Nat)
  | thermalFreeze (temp : Nat)
  | errorCounterSnapshot (clear : Bool)
  | enckeFreeze (source : FreezeSource)
  | thaw
  | regionCreate (id tenant : Nat) (cores : List Nat) (satp : BitVec 64)
  | regionDestroy (id : Nat)
  | interleaveTableWrite (index : Nat) (w0 w1 : BitVec 64)
  | routerTagTableWrite (router tag phase : Nat) (w : BitVec 64)
  | pageTableInvalidation (writes : List (Nat × Byte)) (denied : List Nat)
  | tileDemote (core slot line : Nat)
  | tileEvict (core slot : Nat)
  | tileRestore (core slot line : Nat)
  | handleRevocation (core slot : Nat)
  | jobAbort (job : BitVec 32)
  | containmentReset (target : ResetTarget)
  | quantumExpiry (region : Nat)
  | energyAccountTick (measured : List (Nat × Nat)) (outside temp : Nat)
  | rateWindowBoundary (region : Nat)
  | faultRingAdvance (die count : Nat)
  | titaniaReply (core strand : Nat) (a0 a1 : BitVec 64)
  | refreshBreak (bank : Nat)
  | channelLend (chan : Nat)
  | channelReclaim (chan : Nat)
  | watchdogEvent (subject : Watched)
  | dramUncorrectableError (tier : Tier) (line : Nat)
  | tileUncorrectableError (level : Level) (unit line : Nat)
  | eccCorrected (place : EccPlace)
  | vflagsWrite (v : BitVec 64)
  | voorvaWrite (v : BitVec 64)
  | vslipWrite (v : BitVec 64)
  | vlenWrite (v : BitVec 64)
  | vstartWrite (v : BitVec 64)
  | vmodeWrite (g : BitVec 2) (v : BitVec 64)
  | vtwinWrite (v : BitVec 64)
  | vtsafeWrite (v : BitVec 64)
  | stimecmpWrite (v : BitVec 64)
  | csrWrite (csr : BitVec 12) (v : BitVec 64)
  | hostWindowMap (window port pages : Nat)
  | fabricWindowExport (window tag page pages : Nat)
  | tdispBind (port index stream : Nat)
  | measurementExtend (reg : Nat) (data : List Byte)
  | bootFetchFailure
  deriving DecidableEq, Repr

end Sys2Proof
end

