-- ==== Sys2Proof/WellFormed.lean ====
section
/-!
DEFINITION. Well-formed instructions: each field of a device word lies in the class its entry names (R304, R305 check 2).
The words of the RISC-V subset have no class to break, and an event row is well formed as it stands: an operand that the
machine does not have makes the event do nothing.
-/
namespace Sys2Proof

/-- The operand classes of R304. -/
inductive FieldClass where
  | v | vn | q | x | m | p | w | c | s | g | k | z
  deriving DecidableEq, Repr

/-- The legal values of a field of each class (R304); `f` is the field's value. -/
def FieldClass.admits (cl : FieldClass) (f : Nat) : Bool :=
  match cl with
  | .v => f < 64
  | .vn => f < 48
  | .q => 48 ≤ f && f < 64
  | .x => f < 32
  | .m => f < 12
  | .p => f < 8
  | .w => f < 16
  | .c => f < 4
  | .s => f < 8
  | .g => f < 4
  | .k => f < 9
  | .z => f == 0

/-- The three fields of a device word with the classes its entry gives them, in the order R305 checks them:
d or rd, a or rs1, b or rs2. No fields for any other row. -/
def Instr.fields : Instr → List (Nat × FieldClass)
  | .vadd d a b => [(d.toNat, .v), (a.toNat, .v), (b.toNat, .v)]
  | .vaddx d a b => [(d.toNat, .v), (a.toNat, .v), (b.toNat, .x)]
  | .vsub d a b => [(d.toNat, .v), (a.toNat, .v), (b.toNat, .v)]
  | .vsubx d a b => [(d.toNat, .v), (a.toNat, .v), (b.toNat, .x)]
  | .vrsubx d a b => [(d.toNat, .v), (a.toNat, .v), (b.toNat, .x)]
  | .vmul d a b => [(d.toNat, .v), (a.toNat, .v), (b.toNat, .v)]
  | .vmulx d a b => [(d.toNat, .v), (a.toNat, .v), (b.toNat, .x)]
  | .vmulh d a b => [(d.toNat, .v), (a.toNat, .v), (b.toNat, .v)]
  | .vmulhu d a b => [(d.toNat, .v), (a.toNat, .v), (b.toNat, .v)]
  | .vmulhx d a b => [(d.toNat, .v), (a.toNat, .v), (b.toNat, .x)]
  | .vmac d a b => [(d.toNat, .vn), (a.toNat, .v), (b.toNat, .v)]
  | .vmacx d a b => [(d.toNat, .vn), (a.toNat, .v), (b.toNat, .x)]
  | .vdot2 d a b => [(d.toNat, .vn), (a.toNat, .vn), (b.toNat, .vn)]
  | .vdot2x d a b => [(d.toNat, .vn), (a.toNat, .vn), (b.toNat, .x)]
  | .vdiv d a b => [(d.toNat, .v), (a.toNat, .v), (b.toNat, .v)]
  | .vrem d a b => [(d.toNat, .v), (a.toNat, .v), (b.toNat, .v)]
  | .vmin d a b => [(d.toNat, .v), (a.toNat, .v), (b.toNat, .v)]
  | .vmax d a b => [(d.toNat, .v), (a.toNat, .v), (b.toNat, .v)]
  | .vminx d a b => [(d.toNat, .v), (a.toNat, .v), (b.toNat, .x)]
  | .vmaxx d a b => [(d.toNat, .v), (a.toNat, .v), (b.toNat, .x)]
  | .vand d a b => [(d.toNat, .v), (a.toNat, .v), (b.toNat, .v)]
  | .vor d a b => [(d.toNat, .v), (a.toNat, .v), (b.toNat, .v)]
  | .vxor d a b => [(d.toNat, .v), (a.toNat, .v), (b.toNat, .v)]
  | .vandx d a b => [(d.toNat, .v), (a.toNat, .v), (b.toNat, .x)]
  | .vorx d a b => [(d.toNat, .v), (a.toNat, .v), (b.toNat, .x)]
  | .vxorx d a b => [(d.toNat, .v), (a.toNat, .v), (b.toNat, .x)]
  | .vsll d a b => [(d.toNat, .v), (a.toNat, .v), (b.toNat, .v)]
  | .vsllx d a b => [(d.toNat, .v), (a.toNat, .v), (b.toNat, .x)]
  | .vsrl d a b => [(d.toNat, .v), (a.toNat, .v), (b.toNat, .v)]
  | .vsrlx d a b => [(d.toNat, .v), (a.toNat, .v), (b.toNat, .x)]
  | .vsra d a b => [(d.toNat, .v), (a.toNat, .v), (b.toNat, .v)]
  | .vsrax d a b => [(d.toNat, .v), (a.toNat, .v), (b.toNat, .x)]
  | .vsrar d a b => [(d.toNat, .v), (a.toNat, .v), (b.toNat, .v)]
  | .vsrarx d a b => [(d.toNat, .v), (a.toNat, .v), (b.toNat, .x)]
  | .vnarrow d a b => [(d.toNat, .v), (a.toNat, .v), (b.toNat, .x)]
  | .vwidenl d a b => [(d.toNat, .v), (a.toNat, .v), (b.toNat, .z)]
  | .vwidenh d a b => [(d.toNat, .v), (a.toNat, .vn), (b.toNat, .z)]
  | .vabs d a b => [(d.toNat, .v), (a.toNat, .v), (b.toNat, .z)]
  | .vneg d a b => [(d.toNat, .v), (a.toNat, .v), (b.toNat, .z)]
  | .vclz d a b => [(d.toNat, .v), (a.toNat, .v), (b.toNat, .z)]
  | .vpopc d a b => [(d.toNat, .v), (a.toNat, .v), (b.toNat, .z)]
  | .vavg d a b => [(d.toNat, .v), (a.toNat, .v), (b.toNat, .v)]
  | .vmerge d a b => [(d.toNat, .v), (a.toNat, .v), (b.toNat, .v)]
  | .vsplat d a b => [(d.toNat, .v), (a.toNat, .x), (b.toNat, .z)]
  | .viota d a b => [(d.toNat, .v), (a.toNat, .m), (b.toNat, .z)]
  | .vcmpeq d a b => [(d.toNat, .m), (a.toNat, .v), (b.toNat, .v)]
  | .vcmpne d a b => [(d.toNat, .m), (a.toNat, .v), (b.toNat, .v)]
  | .vcmplt d a b => [(d.toNat, .m), (a.toNat, .v), (b.toNat, .v)]
  | .vcmpltu d a b => [(d.toNat, .m), (a.toNat, .v), (b.toNat, .v)]
  | .vcmple d a b => [(d.toNat, .m), (a.toNat, .v), (b.toNat, .v)]
  | .vcmpeqx d a b => [(d.toNat, .m), (a.toNat, .v), (b.toNat, .x)]
  | .vcmpltx d a b => [(d.toNat, .m), (a.toNat, .v), (b.toNat, .x)]
  | .vcmpltux d a b => [(d.toNat, .m), (a.toNat, .v), (b.toNat, .x)]
  | .vcmplex d a b => [(d.toNat, .m), (a.toNat, .v), (b.toNat, .x)]
  | .vfadd d a b => [(d.toNat, .v), (a.toNat, .v), (b.toNat, .v)]
  | .vfaddx d a b => [(d.toNat, .v), (a.toNat, .v), (b.toNat, .x)]
  | .vfsub d a b => [(d.toNat, .v), (a.toNat, .v), (b.toNat, .v)]
  | .vfsubx d a b => [(d.toNat, .v), (a.toNat, .v), (b.toNat, .x)]
  | .vfmul d a b => [(d.toNat, .v), (a.toNat, .v), (b.toNat, .v)]
  | .vfmulx d a b => [(d.toNat, .v), (a.toNat, .v), (b.toNat, .x)]
  | .vfmac d a b => [(d.toNat, .vn), (a.toNat, .v), (b.toNat, .v)]
  | .vfmacx d a b => [(d.toNat, .vn), (a.toNat, .v), (b.toNat, .x)]
  | .vfnms d a b => [(d.toNat, .vn), (a.toNat, .v), (b.toNat, .v)]
  | .vfdiv d a b => [(d.toNat, .v), (a.toNat, .v), (b.toNat, .v)]
  | .vfsqrt d a b => [(d.toNat, .v), (a.toNat, .v), (b.toNat, .z)]
  | .vfrcp d a b => [(d.toNat, .v), (a.toNat, .v), (b.toNat, .z)]
  | .vfrsq d a b => [(d.toNat, .v), (a.toNat, .v), (b.toNat, .z)]
  | .vfmin d a b => [(d.toNat, .v), (a.toNat, .v), (b.toNat, .v)]
  | .vfmax d a b => [(d.toNat, .v), (a.toNat, .v), (b.toNat, .v)]
  | .vfabs d a b => [(d.toNat, .v), (a.toNat, .v), (b.toNat, .z)]
  | .vfneg d a b => [(d.toNat, .v), (a.toNat, .v), (b.toNat, .z)]
  | .vfrint d a b => [(d.toNat, .v), (a.toNat, .v), (b.toNat, .z)]
  | .vfexp2f d a b => [(d.toNat, .v), (a.toNat, .v), (b.toNat, .z)]
  | .vflog2f d a b => [(d.toNat, .v), (a.toNat, .v), (b.toNat, .z)]
  | .vfldexp d a b => [(d.toNat, .v), (a.toNat, .v), (b.toNat, .v)]
  | .vfgetexp d a b => [(d.toNat, .v), (a.toNat, .v), (b.toNat, .z)]
  | .vfcmpeq d a b => [(d.toNat, .m), (a.toNat, .v), (b.toNat, .v)]
  | .vfcmplt d a b => [(d.toNat, .m), (a.toNat, .v), (b.toNat, .v)]
  | .vfcmple d a b => [(d.toNat, .m), (a.toNat, .v), (b.toNat, .v)]
  | .vfcmpun d a b => [(d.toNat, .m), (a.toNat, .v), (b.toNat, .v)]
  | .vfclass d a b => [(d.toNat, .v), (a.toNat, .v), (b.toNat, .z)]
  | .vcvtif d a b => [(d.toNat, .v), (a.toNat, .v), (b.toNat, .z)]
  | .vcvtfi d a b => [(d.toNat, .v), (a.toNat, .v), (b.toNat, .z)]
  | .vcvtff d a b => [(d.toNat, .v), (a.toNat, .v), (b.toNat, .z)]
  | .vfdot2 d a b => [(d.toNat, .vn), (a.toNat, .vn), (b.toNat, .vn)]
  | .vslideup d a b => [(d.toNat, .vn), (a.toNat, .v), (b.toNat, .x)]
  | .vslidedn d a b => [(d.toNat, .v), (a.toNat, .v), (b.toNat, .x)]
  | .vslide1up d a b => [(d.toNat, .v), (a.toNat, .v), (b.toNat, .x)]
  | .vslide1dn d a b => [(d.toNat, .v), (a.toNat, .v), (b.toNat, .x)]
  | .vrgath d a b => [(d.toNat, .v), (a.toNat, .v), (b.toNat, .v)]
  | .vcompress d a b => [(d.toNat, .v), (a.toNat, .v), (b.toNat, .m)]
  | .vexpand d a b => [(d.toNat, .vn), (a.toNat, .vn), (b.toNat, .m)]
  | .vrev d a b => [(d.toNat, .v), (a.toNat, .v), (b.toNat, .z)]
  | .vzip d a b => [(d.toNat, .v), (a.toNat, .vn), (b.toNat, .vn)]
  | .vunzip d a b => [(d.toNat, .v), (a.toNat, .vn), (b.toNat, .x)]
  | .vredsum d a b => [(d.toNat, .v), (a.toNat, .v), (b.toNat, .vn)]
  | .vredmax d a b => [(d.toNat, .v), (a.toNat, .v), (b.toNat, .vn)]
  | .vredmin d a b => [(d.toNat, .v), (a.toNat, .v), (b.toNat, .vn)]
  | .vredand d a b => [(d.toNat, .v), (a.toNat, .v), (b.toNat, .vn)]
  | .vredor d a b => [(d.toNat, .v), (a.toNat, .v), (b.toNat, .vn)]
  | .vfredsum d a b => [(d.toNat, .v), (a.toNat, .v), (b.toNat, .vn)]
  | .vfredmax d a b => [(d.toNat, .v), (a.toNat, .v), (b.toNat, .vn)]
  | .vfredmin d a b => [(d.toNat, .v), (a.toNat, .v), (b.toNat, .vn)]
  | .vmand d a b => [(d.toNat, .m), (a.toNat, .m), (b.toNat, .m)]
  | .vmor d a b => [(d.toNat, .m), (a.toNat, .m), (b.toNat, .m)]
  | .vmxor d a b => [(d.toNat, .m), (a.toNat, .m), (b.toNat, .m)]
  | .vmnot d a b => [(d.toNat, .m), (a.toNat, .m), (b.toNat, .z)]
  | .vmpopc d a b => [(d.toNat, .x), (a.toNat, .m), (b.toNat, .z)]
  | .vmfirst d a b => [(d.toNat, .x), (a.toNat, .m), (b.toNat, .z)]
  | .vextx d a b => [(d.toNat, .x), (a.toNat, .vn), (b.toNat, .x)]
  | .vinsx d a b => [(d.toNat, .vn), (a.toNat, .x), (b.toNat, .x)]
  | .vmov d a b => [(d.toNat, .v), (a.toNat, .v), (b.toNat, .z)]
  | .vmtov d a b => [(d.toNat, .v), (a.toNat, .m), (b.toNat, .z)]
  | .vvtom d a b => [(d.toNat, .m), (a.toNat, .v), (b.toNat, .z)]
  | .vld d a b => [(d.toNat, .v), (a.toNat, .x), (b.toNat, .p)]
  | .vlds d a b => [(d.toNat, .v), (a.toNat, .x), (b.toNat, .p)]
  | .vldx d a b => [(d.toNat, .v), (a.toNat, .vn), (b.toNat, .p)]
  | .vldb d a b => [(d.toNat, .v), (a.toNat, .x), (b.toNat, .p)]
  | .vst d a b => [(d.toNat, .v), (a.toNat, .x), (b.toNat, .p)]
  | .vsts d a b => [(d.toNat, .v), (a.toNat, .x), (b.toNat, .p)]
  | .vstx d a b => [(d.toNat, .v), (a.toNat, .vn), (b.toNat, .p)]
  | .vstu d a b => [(d.toNat, .v), (a.toNat, .x), (b.toNat, .p)]
  | .vstsu d a b => [(d.toNat, .v), (a.toNat, .x), (b.toNat, .p)]
  | .vstxu d a b => [(d.toNat, .v), (a.toNat, .vn), (b.toNat, .p)]
  | .vldt d a b => [(d.toNat, .v), (a.toNat, .x), (b.toNat, .x)]
  | .vstt d a b => [(d.toNat, .v), (a.toNat, .x), (b.toNat, .x)]
  | .vldtx d a b => [(d.toNat, .v), (a.toNat, .vn), (b.toNat, .x)]
  | .vsttx d a b => [(d.toNat, .v), (a.toNat, .vn), (b.toNat, .x)]
  | .vtaddx d a b => [(d.toNat, .vn), (a.toNat, .vn), (b.toNat, .x)]
  | .vtcasx d a b => [(d.toNat, .vn), (a.toNat, .vn), (b.toNat, .x)]
  | .vtmaxx d a b => [(d.toNat, .vn), (a.toNat, .vn), (b.toNat, .x)]
  | .vldw d a b => [(d.toNat, .v), (a.toNat, .x), (b.toNat, .x)]
  | .vstw d a b => [(d.toNat, .v), (a.toNat, .x), (b.toNat, .x)]
  | .vataddx d a b => [(d.toNat, .vn), (a.toNat, .vn), (b.toNat, .p)]
  | .vatcasx d a b => [(d.toNat, .vn), (a.toNat, .vn), (b.toNat, .p)]
  | .vpush d a b => [(d.toNat, .vn), (a.toNat, .x), (b.toNat, .q)]
  | .varm d a b => [(d.toNat, .q), (a.toNat, .x), (b.toNat, .p)]
  | .vpref d a b => [(d.toNat, .z), (a.toNat, .x), (b.toNat, .p)]
  | .mldw d a b => [(d.toNat, .w), (a.toNat, .x), (b.toNat, .x)]
  | .mrow d a b => [(d.toNat, .v), (a.toNat, .v), (b.toNat, .w)]
  | .mrelw d a b => [(d.toNat, .w), (a.toNat, .z), (b.toNat, .z)]
  | .mwaitw d a b => [(d.toNat, .w), (a.toNat, .z), (b.toNat, .z)]
  | .mstat d a b => [(d.toNat, .x), (a.toNat, .w), (b.toNat, .z)]
  | .vscacc d a b => [(d.toNat, .vn), (a.toNat, .v), (b.toNat, .vn)]
  | .vscapply d a b => [(d.toNat, .v), (a.toNat, .v), (b.toNat, .vn)]
  | .vbscale d a b => [(d.toNat, .vn), (a.toNat, .x), (b.toNat, .w)]
  | .vmxq d a b => [(d.toNat, .v), (a.toNat, .v), (b.toNat, .vn)]
  | .vcbdec d a b => [(d.toNat, .v), (a.toNat, .v), (b.toNat, .c)]
  | .vcbld d a b => [(d.toNat, .c), (a.toNat, .x), (b.toNat, .x)]
  | .vaccrd d a b => [(d.toNat, .v), (a.toNat, .v), (b.toNat, .x)]
  | .fscan d a b => [(d.toNat, .q), (a.toNat, .q), (b.toNat, .z)]
  | .fscand d a b => [(d.toNat, .q), (a.toNat, .q), (b.toNat, .z)]
  | .fisect d a b => [(d.toNat, .q), (a.toNat, .q), (b.toNat, .q)]
  | .funion d a b => [(d.toNat, .q), (a.toNat, .q), (b.toNat, .q)]
  | .frept d a b => [(d.toNat, .q), (a.toNat, .q), (b.toNat, .q)]
  | .fredc d a b => [(d.toNat, .q), (a.toNat, .q), (b.toNat, .z)]
  | .fval d a b => [(d.toNat, .q), (a.toNat, .q), (b.toNat, .z)]
  | .fwrc d a b => [(d.toNat, .q), (a.toNat, .q), (b.toNat, .z)]
  | .fwrv d a b => [(d.toNat, .q), (a.toNat, .q), (b.toNat, .q)]
  | .fsteer d a b => [(d.toNat, .q), (a.toNat, .q), (b.toNat, .q)]
  | .fmerge d a b => [(d.toNat, .q), (a.toNat, .q), (b.toNat, .q)]
  | .floopc d a b => [(d.toNat, .q), (a.toNat, .q), (b.toNat, .q)]
  | .fjoin d a b => [(d.toNat, .q), (a.toNat, .q), (b.toNat, .q)]
  | .fxlate d a b => [(d.toNat, .q), (a.toNat, .q), (b.toNat, .z)]
  | .fgath d a b => [(d.toNat, .q), (a.toNat, .q), (b.toNat, .z)]
  | .fscat d a b => [(d.toNat, .q), (a.toNat, .q), (b.toNat, .q)]
  | .fsink d a b => [(d.toNat, .z), (a.toNat, .q), (b.toNat, .z)]
  | .fcrd d a b => [(d.toNat, .q), (a.toNat, .q), (b.toNat, .z)]
  | .fref d a b => [(d.toNat, .q), (a.toNat, .q), (b.toNat, .z)]
  | .fpack d a b => [(d.toNat, .q), (a.toNat, .q), (b.toNat, .q)]
  | .fhashi d a b => [(d.toNat, .q), (a.toNat, .q), (b.toNat, .z)]
  | .fdrop d a b => [(d.toNat, .q), (a.toNat, .q), (b.toNat, .z)]
  | .rmatch d a b => [(d.toNat, .q), (a.toNat, .q), (b.toNat, .q)]
  | .qpushx d a b => [(d.toNat, .q), (a.toNat, .x), (b.toNat, .z)]
  | .qpopx d a b => [(d.toNat, .x), (a.toNat, .q), (b.toNat, .z)]
  | .qstopx d a b => [(d.toNat, .q), (a.toNat, .x), (b.toNat, .z)]
  | .qdone d a b => [(d.toNat, .q), (a.toNat, .z), (b.toNat, .z)]
  | .qpeek d a b => [(d.toNat, .x), (a.toNat, .q), (b.toNat, .z)]
  | .qdrain d a b => [(d.toNat, .x), (a.toNat, .q), (b.toNat, .z)]
  | .setmode rd rs1 rs2 => [(rd.toNat, .z), (rs1.toNat, .x), (rs2.toNat, .g)]
  | .getmode rd rs1 rs2 => [(rd.toNat, .x), (rs1.toNat, .z), (rs2.toNat, .g)]
  | .setvl rd rs1 rs2 => [(rd.toNat, .x), (rs1.toNat, .x), (rs2.toNat, .g)]
  | .setvstart rd rs1 rs2 => [(rd.toNat, .z), (rs1.toNat, .x), (rs2.toNat, .z)]
  | .probe rd rs1 rs2 => [(rd.toNat, .p), (rs1.toNat, .x), (rs2.toNat, .x)]
  | .punpin rd rs1 rs2 => [(rd.toNat, .p), (rs1.toNat, .z), (rs2.toNat, .z)]
  | .pstat rd rs1 rs2 => [(rd.toNat, .x), (rs1.toNat, .p), (rs2.toNat, .z)]
  | .talloc rd rs1 rs2 => [(rd.toNat, .x), (rs1.toNat, .x), (rs2.toNat, .z)]
  | .tfree rd rs1 rs2 => [(rd.toNat, .z), (rs1.toNat, .x), (rs2.toNat, .z)]
  | .tstate rd rs1 rs2 => [(rd.toNat, .x), (rs1.toNat, .x), (rs2.toNat, .z)]
  | .tsetst rd rs1 rs2 => [(rd.toNat, .z), (rs1.toNat, .x), (rs2.toNat, .x)]
  | .tgen rd rs1 rs2 => [(rd.toNat, .x), (rs1.toNat, .x), (rs2.toNat, .z)]
  | .rowopen rd rs1 rs2 => [(rd.toNat, .x), (rs1.toNat, .x), (rs2.toNat, .p)]
  | .rowrel rd rs1 rs2 => [(rd.toNat, .z), (rs1.toNat, .x), (rs2.toNat, .z)]
  | .rowstat rd rs1 rs2 => [(rd.toNat, .x), (rs1.toNat, .x), (rs2.toNat, .z)]
  | .acopy rd rs1 rs2 => [(rd.toNat, .x), (rs1.toNat, .x), (rs2.toNat, .z)]
  | .await rd rs1 rs2 => [(rd.toNat, .x), (rs1.toNat, .x), (rs2.toNat, .z)]
  | .acancel rd rs1 rs2 => [(rd.toNat, .z), (rs1.toNat, .x), (rs2.toNat, .z)]
  | .astat rd rs1 rs2 => [(rd.toNat, .x), (rs1.toNat, .x), (rs2.toNat, .z)]
  | .chcfg rd rs1 rs2 => [(rd.toNat, .z), (rs1.toNat, .c), (rs2.toNat, .x)]
  | .chrel rd rs1 rs2 => [(rd.toNat, .z), (rs1.toNat, .c), (rs2.toNat, .z)]
  | .run rd rs1 rs2 => [(rd.toNat, .z), (rs1.toNat, .c), (rs2.toNat, .z)]
  | .chwait rd rs1 rs2 => [(rd.toNat, .x), (rs1.toNat, .c), (rs2.toNat, .z)]
  | .chstat rd rs1 rs2 => [(rd.toNat, .x), (rs1.toNat, .c), (rs2.toNat, .x)]
  | .chbar rd rs1 rs2 => [(rd.toNat, .z), (rs1.toNat, .c), (rs2.toNat, .x)]
  | .chresp rd rs1 rs2 => [(rd.toNat, .z), (rs1.toNat, .c), (rs2.toNat, .z)]
  | .chbrk rd rs1 rs2 => [(rd.toNat, .z), (rs1.toNat, .c), (rs2.toNat, .z)]
  | .sbind rd rs1 rs2 => [(rd.toNat, .z), (rs1.toNat, .s), (rs2.toNat, .x)]
  | .sunbind rd rs1 rs2 => [(rd.toNat, .z), (rs1.toNat, .s), (rs2.toNat, .z)]
  | .fenceo rd rs1 rs2 => [(rd.toNat, .k), (rs1.toNat, .z), (rs2.toNat, .z)]
  | .fencee rd rs1 rs2 => [(rd.toNat, .k), (rs1.toNat, .z), (rs2.toNat, .z)]
  | .fencex rd rs1 rs2 => [(rd.toNat, .k), (rs1.toNat, .z), (rs2.toNat, .z)]
  | .hintnext rd rs1 rs2 => [(rd.toNat, .z), (rs1.toNat, .z), (rs2.toNat, .z)]
  | .waitvis rd rs1 rs2 => [(rd.toNat, .x), (rs1.toNat, .x), (rs2.toNat, .z)]
  | .enq rd rs1 rs2 => [(rd.toNat, .x), (rs1.toNat, .x), (rs2.toNat, .x)]
  | .deq rd rs1 rs2 => [(rd.toNat, .x), (rs1.toNat, .x), (rs2.toNat, .z)]
  | .enqc rd rs1 rs2 => [(rd.toNat, .x), (rs1.toNat, .x), (rs2.toNat, .x)]
  | .ctxsv rd rs1 rs2 => [(rd.toNat, .p), (rs1.toNat, .x), (rs2.toNat, .x)]
  | .ctxld rd rs1 rs2 => [(rd.toNat, .p), (rs1.toNat, .x), (rs2.toNat, .x)]
  | .evrd rd rs1 rs2 => [(rd.toNat, .x), (rs1.toNat, .x), (rs2.toNat, .z)]
  | .tsnow rd rs1 rs2 => [(rd.toNat, .x), (rs1.toNat, .z), (rs2.toNat, .z)]
  | .strstart rd rs1 rs2 => [(rd.toNat, .x), (rs1.toNat, .x), (rs2.toNat, .x)]
  | .stepend rd rs1 rs2 => [(rd.toNat, .z), (rs1.toNat, .z), (rs2.toNat, .z)]
  | .trapx rd rs1 rs2 => [(rd.toNat, .z), (rs1.toNat, .x), (rs2.toNat, .x)]
  | .rlimset rd rs1 rs2 => [(rd.toNat, .z), (rs1.toNat, .x), (rs2.toNat, .z)]
  | .lui _ _ => []
  | .auipc _ _ => []
  | .jal _ _ => []
  | .jalr _ _ _ => []
  | .beq _ _ _ => []
  | .bne _ _ _ => []
  | .blt _ _ _ => []
  | .bge _ _ _ => []
  | .bltu _ _ _ => []
  | .bgeu _ _ _ => []
  | .lb _ _ _ => []
  | .lh _ _ _ => []
  | .lw _ _ _ => []
  | .ld _ _ _ => []
  | .lbu _ _ _ => []
  | .lhu _ _ _ => []
  | .lwu _ _ _ => []
  | .sb _ _ _ => []
  | .sh _ _ _ => []
  | .sw _ _ _ => []
  | .sd _ _ _ => []
  | .addi _ _ _ => []
  | .slti _ _ _ => []
  | .sltiu _ _ _ => []
  | .xori _ _ _ => []
  | .ori _ _ _ => []
  | .andi _ _ _ => []
  | .slli _ _ _ => []
  | .srli _ _ _ => []
  | .srai _ _ _ => []
  | .add _ _ _ => []
  | .sub _ _ _ => []
  | .sll _ _ _ => []
  | .slt _ _ _ => []
  | .sltu _ _ _ => []
  | .xor _ _ _ => []
  | .srl _ _ _ => []
  | .sra _ _ _ => []
  | .or _ _ _ => []
  | .and _ _ _ => []
  | .addiw _ _ _ => []
  | .slliw _ _ _ => []
  | .srliw _ _ _ => []
  | .sraiw _ _ _ => []
  | .addw _ _ _ => []
  | .subw _ _ _ => []
  | .sllw _ _ _ => []
  | .srlw _ _ _ => []
  | .sraw _ _ _ => []
  | .fence _ _ _ => []
  | .fenceI _ _ _ => []
  | .ecall => []
  | .ebreak => []
  | .mul _ _ _ => []
  | .mulh _ _ _ => []
  | .mulhsu _ _ _ => []
  | .mulhu _ _ _ => []
  | .div _ _ _ => []
  | .divu _ _ _ => []
  | .rem _ _ _ => []
  | .remu _ _ _ => []
  | .mulw _ _ _ => []
  | .divw _ _ _ => []
  | .divuw _ _ _ => []
  | .remw _ _ _ => []
  | .remuw _ _ _ => []
  | .lrW _ _ _ _ => []
  | .lrD _ _ _ _ => []
  | .scW _ _ _ _ _ => []
  | .scD _ _ _ _ _ => []
  | .amoswapW _ _ _ _ _ => []
  | .amoswapD _ _ _ _ _ => []
  | .amoaddW _ _ _ _ _ => []
  | .amoaddD _ _ _ _ _ => []
  | .amoxorW _ _ _ _ _ => []
  | .amoxorD _ _ _ _ _ => []
  | .amoandW _ _ _ _ _ => []
  | .amoandD _ _ _ _ _ => []
  | .amoorW _ _ _ _ _ => []
  | .amoorD _ _ _ _ _ => []
  | .amominW _ _ _ _ _ => []
  | .amominD _ _ _ _ _ => []
  | .amomaxW _ _ _ _ _ => []
  | .amomaxD _ _ _ _ _ => []
  | .amominuW _ _ _ _ _ => []
  | .amominuD _ _ _ _ _ => []
  | .amomaxuW _ _ _ _ _ => []
  | .amomaxuD _ _ _ _ _ => []
  | .csrrw _ _ _ => []
  | .csrrs _ _ _ => []
  | .csrrc _ _ _ => []
  | .csrrwi _ _ _ => []
  | .csrrsi _ _ _ => []
  | .csrrci _ _ _ => []
  | .addUw _ _ _ => []
  | .sh1add _ _ _ => []
  | .sh2add _ _ _ => []
  | .sh3add _ _ _ => []
  | .sh1addUw _ _ _ => []
  | .sh2addUw _ _ _ => []
  | .sh3addUw _ _ _ => []
  | .slliUw _ _ _ => []
  | .andn _ _ _ => []
  | .orn _ _ _ => []
  | .xnor _ _ _ => []
  | .clz _ _ => []
  | .clzw _ _ => []
  | .ctz _ _ => []
  | .ctzw _ _ => []
  | .cpop _ _ => []
  | .cpopw _ _ => []
  | .max _ _ _ => []
  | .maxu _ _ _ => []
  | .min _ _ _ => []
  | .minu _ _ _ => []
  | .sextB _ _ => []
  | .sextH _ _ => []
  | .zextH _ _ => []
  | .rol _ _ _ => []
  | .rolw _ _ _ => []
  | .ror _ _ _ => []
  | .rori _ _ _ => []
  | .roriw _ _ _ => []
  | .rorw _ _ _ => []
  | .orcB _ _ => []
  | .rev8 _ _ => []
  | .czeroEqz _ _ _ => []
  | .czeroNez _ _ _ => []
  | .sret => []
  | .wfi => []
  | .sfenceVma _ => []
  | .interruptEntry _ _ => []
  | .breakTrapEntry _ _ => []
  | .waitEnd _ _ => []
  | .vectorAdmission _ _ => []
  | .vectorWalkComplete _ _ _ => []
  | .copyActivate _ _ => []
  | .copyBeat _ _ => []
  | .arrivalToken _ _ => []
  | .copyCompletionToken _ _ => []
  | .chainBreak _ _ => []
  | .slotEnterTemporal _ _ => []
  | .remainderWord _ _ => []
  | .runComplete _ _ => []
  | .lgNodeFire _ _ _ => []
  | .mnNodeFire _ _ _ => []
  | .sourcePortPush _ _ _ => []
  | .sinkPortWrite _ _ _ => []
  | .tokenLand _ _ => []
  | .advancePass _ _ => []
  | .watchFire _ _ _ => []
  | .stepEntry _ _ => []
  | .stepComplete _ _ => []
  | .jobSelection _ => []
  | .dependenceMet _ => []
  | .stipSet _ _ => []
  | .instructionFetchFault _ => []
  | .reservedEncoding _ => []
  | .rowReopenGiveup _ _ _ => []
  | .graceExpiry _ => []
  | .stepBoundaryStop _ => []
  | .deviceReset => []
  | .bootImageReceived _ _ _ _ _ => []
  | .bootRetry => []
  | .securityVersionRaise => []
  | .spdmRequest _ _ => []
  | .keySlotLoad _ _ => []
  | .keySlotZeroize _ => []
  | .linkKeyUpdate _ _ _ => []
  | .hostWindowWrite _ _ _ _ => []
  | .hostWindowRead _ _ _ _ => []
  | .hostDoorbellWrite _ _ => []
  | .clientRequest _ _ => []
  | .hostLinkFailure _ => []
  | .hostLinkReset _ => []
  | .deviceWindowMap _ _ _ _ _ => []
  | .herezFlitReceive _ _ => []
  | .escapeChannelMove _ _ => []
  | .herezPortRetrain _ => []
  | .herezPortDown _ => []
  | .herezPortUp _ => []
  | .remoteFabricAccess _ _ _ _ _ => []
  | .checkpointRequest => []
  | .checkpointEngineDone => []
  | .checkpointRestore _ _ _ _ _ => []
  | .powerCapSet _ => []
  | .clockStep _ => []
  | .thermalFreeze _ => []
  | .errorCounterSnapshot _ => []
  | .enckeFreeze _ => []
  | .thaw => []
  | .regionCreate _ _ _ _ => []
  | .regionDestroy _ => []
  | .interleaveTableWrite _ _ _ => []
  | .routerTagTableWrite _ _ _ _ => []
  | .pageTableInvalidation _ _ => []
  | .tileDemote _ _ _ => []
  | .tileEvict _ _ => []
  | .tileRestore _ _ _ => []
  | .handleRevocation _ _ => []
  | .jobAbort _ => []
  | .containmentReset _ => []
  | .quantumExpiry _ => []
  | .energyAccountTick _ _ _ => []
  | .rateWindowBoundary _ => []
  | .faultRingAdvance _ _ => []
  | .titaniaReply _ _ _ _ => []
  | .refreshBreak _ => []
  | .channelLend _ => []
  | .channelReclaim _ => []
  | .watchdogEvent _ => []
  | .dramUncorrectableError _ _ => []
  | .tileUncorrectableError _ _ _ => []
  | .eccCorrected _ => []
  | .vflagsWrite _ => []
  | .voorvaWrite _ => []
  | .vslipWrite _ => []
  | .vlenWrite _ => []
  | .vstartWrite _ => []
  | .vmodeWrite _ _ => []
  | .vtwinWrite _ => []
  | .vtsafeWrite _ => []
  | .stimecmpWrite _ => []
  | .csrWrite _ _ => []
  | .hostWindowMap _ _ _ => []
  | .fabricWindowExport _ _ _ _ => []
  | .tdispBind _ _ _ => []
  | .measurementExtend _ _ => []
  | .bootFetchFailure => []

/-- The number of the first field outside its class, in the order of R305 check 2: 0 d or rd, 1 a or rs1, 2 b or rs2. -/
def badField : List (Nat × FieldClass) → Nat → Option Nat
  | [], _ => none
  | (f, cl) :: rest, n => if cl.admits f then badField rest (n + 1) else some n

/-- Every field of the instruction is in its class. -/
def Instr.wf (i : Instr) : Bool := badField i.fields 0 == none

/-- Every field of the instruction is in its class. -/
abbrev Instr.WellFormed (i : Instr) : Prop := i.wf = true

end Sys2Proof
end

