-- ==== Sys2Proof/Decode.lean ====
section
/-!
DEFINITION. Decoding of a 32-bit word (R301 to R303, R306, R307, R315), total: a word that no instruction encodes decodes
to `reservedEncoding`, which carries the word. After it the encoder, written from the same encodings.
`noncomputable` marks what builds an instruction at run time: Lean's code generator has no tag for so many constructors
with operands. The kernel evaluates every definition here.
The class of each field is checked at issue (R305), not here, so the fields of a device word decode as they stand.
-/
namespace Sys2Proof

/-- The operation number OPN of a vector-space word with the fields of format VV (R302, R306). -/
def decodeVV (opn : Nat) (d a b : BitVec 6) : Option Instr :=
  match opn with
  | 0x00 => some (.vadd d a b)
  | 0x01 => some (.vaddx d a b)
  | 0x02 => some (.vsub d a b)
  | 0x03 => some (.vsubx d a b)
  | 0x04 => some (.vrsubx d a b)
  | 0x05 => some (.vmul d a b)
  | 0x06 => some (.vmulx d a b)
  | 0x07 => some (.vmulh d a b)
  | 0x08 => some (.vmulhu d a b)
  | 0x09 => some (.vmulhx d a b)
  | 0x0A => some (.vmac d a b)
  | 0x0B => some (.vmacx d a b)
  | 0x0C => some (.vdot2 d a b)
  | 0x0D => some (.vdot2x d a b)
  | 0x0E => some (.vdiv d a b)
  | 0x0F => some (.vrem d a b)
  | 0x10 => some (.vmin d a b)
  | 0x11 => some (.vmax d a b)
  | 0x12 => some (.vminx d a b)
  | 0x13 => some (.vmaxx d a b)
  | 0x14 => some (.vand d a b)
  | 0x15 => some (.vor d a b)
  | 0x16 => some (.vxor d a b)
  | 0x17 => some (.vandx d a b)
  | 0x18 => some (.vorx d a b)
  | 0x19 => some (.vxorx d a b)
  | 0x1A => some (.vsll d a b)
  | 0x1B => some (.vsllx d a b)
  | 0x1C => some (.vsrl d a b)
  | 0x1D => some (.vsrlx d a b)
  | 0x1E => some (.vsra d a b)
  | 0x1F => some (.vsrax d a b)
  | 0x20 => some (.vsrar d a b)
  | 0x21 => some (.vsrarx d a b)
  | 0x22 => some (.vnarrow d a b)
  | 0x23 => some (.vwidenl d a b)
  | 0x24 => some (.vwidenh d a b)
  | 0x25 => some (.vabs d a b)
  | 0x26 => some (.vneg d a b)
  | 0x27 => some (.vclz d a b)
  | 0x28 => some (.vpopc d a b)
  | 0x29 => some (.vavg d a b)
  | 0x2A => some (.vmerge d a b)
  | 0x2B => some (.vsplat d a b)
  | 0x2C => some (.viota d a b)
  | 0x2D => some (.vcmpeq d a b)
  | 0x2E => some (.vcmpne d a b)
  | 0x2F => some (.vcmplt d a b)
  | 0x30 => some (.vcmpltu d a b)
  | 0x31 => some (.vcmple d a b)
  | 0x32 => some (.vcmpeqx d a b)
  | 0x33 => some (.vcmpltx d a b)
  | 0x34 => some (.vcmpltux d a b)
  | 0x35 => some (.vcmplex d a b)
  | 0x38 => some (.vfadd d a b)
  | 0x39 => some (.vfaddx d a b)
  | 0x3A => some (.vfsub d a b)
  | 0x3B => some (.vfsubx d a b)
  | 0x3C => some (.vfmul d a b)
  | 0x3D => some (.vfmulx d a b)
  | 0x3E => some (.vfmac d a b)
  | 0x3F => some (.vfmacx d a b)
  | 0x40 => some (.vfnms d a b)
  | 0x41 => some (.vfdiv d a b)
  | 0x42 => some (.vfsqrt d a b)
  | 0x43 => some (.vfrcp d a b)
  | 0x44 => some (.vfrsq d a b)
  | 0x45 => some (.vfmin d a b)
  | 0x46 => some (.vfmax d a b)
  | 0x47 => some (.vfabs d a b)
  | 0x48 => some (.vfneg d a b)
  | 0x49 => some (.vfrint d a b)
  | 0x4A => some (.vfexp2f d a b)
  | 0x4B => some (.vflog2f d a b)
  | 0x4C => some (.vfldexp d a b)
  | 0x4D => some (.vfgetexp d a b)
  | 0x4E => some (.vfcmpeq d a b)
  | 0x4F => some (.vfcmplt d a b)
  | 0x50 => some (.vfcmple d a b)
  | 0x51 => some (.vfcmpun d a b)
  | 0x52 => some (.vfclass d a b)
  | 0x53 => some (.vcvtif d a b)
  | 0x54 => some (.vcvtfi d a b)
  | 0x55 => some (.vcvtff d a b)
  | 0x56 => some (.vfdot2 d a b)
  | 0x58 => some (.vslideup d a b)
  | 0x59 => some (.vslidedn d a b)
  | 0x5A => some (.vslide1up d a b)
  | 0x5B => some (.vslide1dn d a b)
  | 0x5C => some (.vrgath d a b)
  | 0x5D => some (.vcompress d a b)
  | 0x5E => some (.vexpand d a b)
  | 0x5F => some (.vrev d a b)
  | 0x60 => some (.vzip d a b)
  | 0x61 => some (.vunzip d a b)
  | 0x62 => some (.vredsum d a b)
  | 0x63 => some (.vredmax d a b)
  | 0x64 => some (.vredmin d a b)
  | 0x65 => some (.vredand d a b)
  | 0x66 => some (.vredor d a b)
  | 0x67 => some (.vfredsum d a b)
  | 0x68 => some (.vfredmax d a b)
  | 0x69 => some (.vfredmin d a b)
  | 0x6A => some (.vmand d a b)
  | 0x6B => some (.vmor d a b)
  | 0x6C => some (.vmxor d a b)
  | 0x6D => some (.vmnot d a b)
  | 0x6E => some (.vmpopc d a b)
  | 0x6F => some (.vmfirst d a b)
  | 0x70 => some (.vextx d a b)
  | 0x71 => some (.vinsx d a b)
  | 0x72 => some (.vmov d a b)
  | 0x73 => some (.vmtov d a b)
  | 0x74 => some (.vvtom d a b)
  | 0x78 => some (.vld d a b)
  | 0x79 => some (.vlds d a b)
  | 0x7A => some (.vldx d a b)
  | 0x7B => some (.vldb d a b)
  | 0x7C => some (.vst d a b)
  | 0x7D => some (.vsts d a b)
  | 0x7E => some (.vstx d a b)
  | 0x7F => some (.vstu d a b)
  | 0x80 => some (.vstsu d a b)
  | 0x81 => some (.vstxu d a b)
  | 0x82 => some (.vldt d a b)
  | 0x83 => some (.vstt d a b)
  | 0x84 => some (.vldtx d a b)
  | 0x85 => some (.vsttx d a b)
  | 0x86 => some (.vtaddx d a b)
  | 0x87 => some (.vtcasx d a b)
  | 0x88 => some (.vtmaxx d a b)
  | 0x89 => some (.vldw d a b)
  | 0x8A => some (.vstw d a b)
  | 0x8B => some (.vataddx d a b)
  | 0x8C => some (.vatcasx d a b)
  | 0x8D => some (.vpush d a b)
  | 0x8E => some (.varm d a b)
  | 0x8F => some (.vpref d a b)
  | 0x98 => some (.mldw d a b)
  | 0x99 => some (.mrow d a b)
  | 0x9A => some (.mrelw d a b)
  | 0x9B => some (.mwaitw d a b)
  | 0x9C => some (.mstat d a b)
  | 0x9D => some (.vscacc d a b)
  | 0x9E => some (.vscapply d a b)
  | 0x9F => some (.vbscale d a b)
  | 0xA0 => some (.vmxq d a b)
  | 0xA1 => some (.vcbdec d a b)
  | 0xA2 => some (.vcbld d a b)
  | 0xA3 => some (.vaccrd d a b)
  | 0xB0 => some (.fscan d a b)
  | 0xB1 => some (.fscand d a b)
  | 0xB2 => some (.fisect d a b)
  | 0xB3 => some (.funion d a b)
  | 0xB4 => some (.frept d a b)
  | 0xB5 => some (.fredc d a b)
  | 0xB6 => some (.fval d a b)
  | 0xB7 => some (.fwrc d a b)
  | 0xB8 => some (.fwrv d a b)
  | 0xB9 => some (.fsteer d a b)
  | 0xBA => some (.fmerge d a b)
  | 0xBB => some (.floopc d a b)
  | 0xBC => some (.fjoin d a b)
  | 0xBD => some (.fxlate d a b)
  | 0xBE => some (.fgath d a b)
  | 0xBF => some (.fscat d a b)
  | 0xC0 => some (.fsink d a b)
  | 0xC1 => some (.fcrd d a b)
  | 0xC2 => some (.fref d a b)
  | 0xC3 => some (.fpack d a b)
  | 0xC4 => some (.fhashi d a b)
  | 0xC5 => some (.fdrop d a b)
  | 0xC6 => some (.rmatch d a b)
  | 0xC7 => some (.qpushx d a b)
  | 0xC8 => some (.qpopx d a b)
  | 0xC9 => some (.qstopx d a b)
  | 0xCA => some (.qdone d a b)
  | 0xCB => some (.qpeek d a b)
  | 0xCC => some (.qdrain d a b)
  | _ => none

/-- The operation number f7 of a system-space word with the fields of format XR (R303, R307). -/
noncomputable def decodeXR (f7 : Nat) (rd rs1 rs2 : BitVec 5) : Option Instr :=
  match f7 with
  | 0x00 => some (.setmode rd rs1 rs2)
  | 0x01 => some (.getmode rd rs1 rs2)
  | 0x02 => some (.setvl rd rs1 rs2)
  | 0x03 => some (.setvstart rd rs1 rs2)
  | 0x04 => some (.probe rd rs1 rs2)
  | 0x05 => some (.punpin rd rs1 rs2)
  | 0x06 => some (.pstat rd rs1 rs2)
  | 0x07 => some (.talloc rd rs1 rs2)
  | 0x08 => some (.tfree rd rs1 rs2)
  | 0x09 => some (.tstate rd rs1 rs2)
  | 0x0A => some (.tsetst rd rs1 rs2)
  | 0x0B => some (.tgen rd rs1 rs2)
  | 0x0C => some (.rowopen rd rs1 rs2)
  | 0x0D => some (.rowrel rd rs1 rs2)
  | 0x0E => some (.rowstat rd rs1 rs2)
  | 0x0F => some (.acopy rd rs1 rs2)
  | 0x10 => some (.await rd rs1 rs2)
  | 0x11 => some (.acancel rd rs1 rs2)
  | 0x12 => some (.astat rd rs1 rs2)
  | 0x13 => some (.chcfg rd rs1 rs2)
  | 0x14 => some (.chrel rd rs1 rs2)
  | 0x15 => some (.run rd rs1 rs2)
  | 0x16 => some (.chwait rd rs1 rs2)
  | 0x17 => some (.chstat rd rs1 rs2)
  | 0x18 => some (.chbar rd rs1 rs2)
  | 0x19 => some (.chresp rd rs1 rs2)
  | 0x1A => some (.chbrk rd rs1 rs2)
  | 0x1B => some (.sbind rd rs1 rs2)
  | 0x1C => some (.sunbind rd rs1 rs2)
  | 0x1D => some (.fenceo rd rs1 rs2)
  | 0x1E => some (.fencee rd rs1 rs2)
  | 0x1F => some (.fencex rd rs1 rs2)
  | 0x20 => some (.hintnext rd rs1 rs2)
  | 0x21 => some (.waitvis rd rs1 rs2)
  | 0x22 => some (.enq rd rs1 rs2)
  | 0x23 => some (.deq rd rs1 rs2)
  | 0x24 => some (.enqc rd rs1 rs2)
  | 0x25 => some (.ctxsv rd rs1 rs2)
  | 0x26 => some (.ctxld rd rs1 rs2)
  | 0x27 => some (.evrd rd rs1 rs2)
  | 0x28 => some (.tsnow rd rs1 rs2)
  | 0x29 => some (.strstart rd rs1 rs2)
  | 0x2A => some (.stepend rd rs1 rs2)
  | 0x2B => some (.trapx rd rs1 rs2)
  | 0x2C => some (.rlimset rd rs1 rs2)
  | _ => none

/-- LB to LWU (R315). -/
noncomputable def decodeLoad (f3 : Nat) (rd rs1 : BitVec 5) (imm : BitVec 12) : Option Instr :=
  match f3 with
  | 0 => some (.lb rd rs1 imm)
  | 1 => some (.lh rd rs1 imm)
  | 2 => some (.lw rd rs1 imm)
  | 3 => some (.ld rd rs1 imm)
  | 4 => some (.lbu rd rs1 imm)
  | 5 => some (.lhu rd rs1 imm)
  | 6 => some (.lwu rd rs1 imm)
  | _ => none

/-- SB to SD (R315). -/
noncomputable def decodeStore (f3 : Nat) (rs1 rs2 : BitVec 5) (imm : BitVec 12) : Option Instr :=
  match f3 with
  | 0 => some (.sb rs1 rs2 imm)
  | 1 => some (.sh rs1 rs2 imm)
  | 2 => some (.sw rs1 rs2 imm)
  | 3 => some (.sd rs1 rs2 imm)
  | _ => none

/-- BEQ to BGEU (R315); `imm` holds bits 12 to 1 of the offset. -/
noncomputable def decodeBranch (f3 : Nat) (rs1 rs2 : BitVec 5) (imm : BitVec 12) : Option Instr :=
  match f3 with
  | 0 => some (.beq rs1 rs2 imm)
  | 1 => some (.bne rs1 rs2 imm)
  | 4 => some (.blt rs1 rs2 imm)
  | 5 => some (.bge rs1 rs2 imm)
  | 6 => some (.bltu rs1 rs2 imm)
  | 7 => some (.bgeu rs1 rs2 imm)
  | _ => none

/-- FENCE and FENCE.I (R315). -/
noncomputable def decodeFence (f3 : Nat) (rd rs1 : BitVec 5) (imm : BitVec 12) : Option Instr :=
  match f3 with
  | 0 => some (.fence rd rs1 imm)
  | 1 => some (.fenceI rd rs1 imm)
  | _ => none

/-- ADDI and its opcode, with funct3 1: the shifts and the one-operand words (R315). -/
noncomputable def decodeOpImmShift1 (rd rs1 : BitVec 5) (imm : BitVec 12) : Option Instr :=
  match imm.toNat with
  | 0x600 => some (.clz rd rs1)
  | 0x601 => some (.ctz rd rs1)
  | 0x602 => some (.cpop rd rs1)
  | 0x604 => some (.sextB rd rs1)
  | 0x605 => some (.sextH rd rs1)
  | _ =>
    if imm.extractLsb' 6 6 = 0x00 then some (.slli rd rs1 (imm.extractLsb' 0 6))
    else none

/-- ADDI and its opcode, with funct3 5: the shifts and the one-operand words (R315). -/
noncomputable def decodeOpImmShift5 (rd rs1 : BitVec 5) (imm : BitVec 12) : Option Instr :=
  match imm.toNat with
  | 0x287 => some (.orcB rd rs1)
  | 0x6B8 => some (.rev8 rd rs1)
  | _ =>
    if imm.extractLsb' 6 6 = 0x00 then some (.srli rd rs1 (imm.extractLsb' 0 6))
    else if imm.extractLsb' 6 6 = 0x10 then some (.srai rd rs1 (imm.extractLsb' 0 6))
    else if imm.extractLsb' 6 6 = 0x18 then some (.rori rd rs1 (imm.extractLsb' 0 6))
    else none

/-- ADDI and its opcode (R315). -/
noncomputable def decodeOpImm (f3 : Nat) (rd rs1 : BitVec 5) (imm : BitVec 12) : Option Instr :=
  match f3 with
  | 0 => some (.addi rd rs1 imm)
  | 2 => some (.slti rd rs1 imm)
  | 3 => some (.sltiu rd rs1 imm)
  | 4 => some (.xori rd rs1 imm)
  | 6 => some (.ori rd rs1 imm)
  | 7 => some (.andi rd rs1 imm)
  | 1 => decodeOpImmShift1 rd rs1 imm
  | 5 => decodeOpImmShift5 rd rs1 imm
  | _ => none

/-- ADDIW and its opcode, with funct3 1: the shifts and the one-operand words (R315). -/
noncomputable def decodeOpImm32Shift1 (rd rs1 : BitVec 5) (imm : BitVec 12) : Option Instr :=
  match imm.toNat with
  | 0x600 => some (.clzw rd rs1)
  | 0x601 => some (.ctzw rd rs1)
  | 0x602 => some (.cpopw rd rs1)
  | _ =>
    if imm.extractLsb' 6 6 = 0x02 then some (.slliUw rd rs1 (imm.extractLsb' 0 6))
    else if imm.extractLsb' 5 7 = 0x00 then some (.slliw rd rs1 (imm.extractLsb' 0 5))
    else none

/-- ADDIW and its opcode, with funct3 5: the shifts and the one-operand words (R315). -/
noncomputable def decodeOpImm32Shift5 (rd rs1 : BitVec 5) (imm : BitVec 12) : Option Instr :=
  if imm.extractLsb' 5 7 = 0x00 then some (.srliw rd rs1 (imm.extractLsb' 0 5))
  else if imm.extractLsb' 5 7 = 0x20 then some (.sraiw rd rs1 (imm.extractLsb' 0 5))
  else if imm.extractLsb' 5 7 = 0x30 then some (.roriw rd rs1 (imm.extractLsb' 0 5))
  else none

/-- ADDIW and its opcode (R315). -/
noncomputable def decodeOpImm32 (f3 : Nat) (rd rs1 : BitVec 5) (imm : BitVec 12) : Option Instr :=
  match f3 with
  | 0 => some (.addiw rd rs1 imm)
  | 1 => decodeOpImm32Shift1 rd rs1 imm
  | 5 => decodeOpImm32Shift5 rd rs1 imm
  | _ => none

/-- ADD and its opcode (R315). -/
noncomputable def decodeOp (f7 f3 : Nat) (rd rs1 rs2 : BitVec 5) : Option Instr :=
  match f7, f3 with
  | 0x00, 0 => some (.add rd rs1 rs2)
  | 0x20, 0 => some (.sub rd rs1 rs2)
  | 0x00, 1 => some (.sll rd rs1 rs2)
  | 0x00, 2 => some (.slt rd rs1 rs2)
  | 0x00, 3 => some (.sltu rd rs1 rs2)
  | 0x00, 4 => some (.xor rd rs1 rs2)
  | 0x00, 5 => some (.srl rd rs1 rs2)
  | 0x20, 5 => some (.sra rd rs1 rs2)
  | 0x00, 6 => some (.or rd rs1 rs2)
  | 0x00, 7 => some (.and rd rs1 rs2)
  | 0x01, 0 => some (.mul rd rs1 rs2)
  | 0x01, 1 => some (.mulh rd rs1 rs2)
  | 0x01, 2 => some (.mulhsu rd rs1 rs2)
  | 0x01, 3 => some (.mulhu rd rs1 rs2)
  | 0x01, 4 => some (.div rd rs1 rs2)
  | 0x01, 5 => some (.divu rd rs1 rs2)
  | 0x01, 6 => some (.rem rd rs1 rs2)
  | 0x01, 7 => some (.remu rd rs1 rs2)
  | 0x10, 2 => some (.sh1add rd rs1 rs2)
  | 0x10, 4 => some (.sh2add rd rs1 rs2)
  | 0x10, 6 => some (.sh3add rd rs1 rs2)
  | 0x20, 7 => some (.andn rd rs1 rs2)
  | 0x20, 6 => some (.orn rd rs1 rs2)
  | 0x20, 4 => some (.xnor rd rs1 rs2)
  | 0x05, 6 => some (.max rd rs1 rs2)
  | 0x05, 7 => some (.maxu rd rs1 rs2)
  | 0x05, 4 => some (.min rd rs1 rs2)
  | 0x05, 5 => some (.minu rd rs1 rs2)
  | 0x30, 1 => some (.rol rd rs1 rs2)
  | 0x30, 5 => some (.ror rd rs1 rs2)
  | 0x07, 5 => some (.czeroEqz rd rs1 rs2)
  | 0x07, 7 => some (.czeroNez rd rs1 rs2)
  | _, _ => none

/-- ADDW and its opcode (R315). -/
noncomputable def decodeOp32 (f7 f3 : Nat) (rd rs1 rs2 : BitVec 5) : Option Instr :=
  match f7, f3 with
  | 0x00, 0 => some (.addw rd rs1 rs2)
  | 0x20, 0 => some (.subw rd rs1 rs2)
  | 0x00, 1 => some (.sllw rd rs1 rs2)
  | 0x00, 5 => some (.srlw rd rs1 rs2)
  | 0x20, 5 => some (.sraw rd rs1 rs2)
  | 0x01, 0 => some (.mulw rd rs1 rs2)
  | 0x01, 4 => some (.divw rd rs1 rs2)
  | 0x01, 5 => some (.divuw rd rs1 rs2)
  | 0x01, 6 => some (.remw rd rs1 rs2)
  | 0x01, 7 => some (.remuw rd rs1 rs2)
  | 0x04, 0 => some (.addUw rd rs1 rs2)
  | 0x10, 2 => some (.sh1addUw rd rs1 rs2)
  | 0x10, 4 => some (.sh2addUw rd rs1 rs2)
  | 0x10, 6 => some (.sh3addUw rd rs1 rs2)
  | 0x30, 1 => some (.rolw rd rs1 rs2)
  | 0x30, 5 => some (.rorw rd rs1 rs2)
  | 0x04, 4 => if rs2 = 0 then some (.zextH rd rs1) else none
  | _, _ => none

/-- LR, SC and the AMO words (R315, R318). -/
noncomputable def decodeAmo (f5 f3 : Nat) (rd rs1 rs2 : BitVec 5) (aq rl : BitVec 1) : Option Instr :=
  match f5, f3 with
  | 0x02, 2 => if rs2 = 0 then some (.lrW rd rs1 aq rl) else none
  | 0x02, 3 => if rs2 = 0 then some (.lrD rd rs1 aq rl) else none
  | 0x03, 2 => some (.scW rd rs1 rs2 aq rl)
  | 0x03, 3 => some (.scD rd rs1 rs2 aq rl)
  | 0x01, 2 => some (.amoswapW rd rs1 rs2 aq rl)
  | 0x01, 3 => some (.amoswapD rd rs1 rs2 aq rl)
  | 0x00, 2 => some (.amoaddW rd rs1 rs2 aq rl)
  | 0x00, 3 => some (.amoaddD rd rs1 rs2 aq rl)
  | 0x04, 2 => some (.amoxorW rd rs1 rs2 aq rl)
  | 0x04, 3 => some (.amoxorD rd rs1 rs2 aq rl)
  | 0x0C, 2 => some (.amoandW rd rs1 rs2 aq rl)
  | 0x0C, 3 => some (.amoandD rd rs1 rs2 aq rl)
  | 0x08, 2 => some (.amoorW rd rs1 rs2 aq rl)
  | 0x08, 3 => some (.amoorD rd rs1 rs2 aq rl)
  | 0x10, 2 => some (.amominW rd rs1 rs2 aq rl)
  | 0x10, 3 => some (.amominD rd rs1 rs2 aq rl)
  | 0x14, 2 => some (.amomaxW rd rs1 rs2 aq rl)
  | 0x14, 3 => some (.amomaxD rd rs1 rs2 aq rl)
  | 0x18, 2 => some (.amominuW rd rs1 rs2 aq rl)
  | 0x18, 3 => some (.amominuD rd rs1 rs2 aq rl)
  | 0x1C, 2 => some (.amomaxuW rd rs1 rs2 aq rl)
  | 0x1C, 3 => some (.amomaxuD rd rs1 rs2 aq rl)
  | _, _ => none

/-- ECALL, EBREAK, SRET, WFI, SFENCE.VMA and the Zicsr words (R85, R315, R319). -/
noncomputable def decodeSystem (w : BitVec 32) (f3 : Nat) (rd rs1 : BitVec 5) (csr : BitVec 12) : Option Instr :=
  match f3 with
  | 0 =>
    match w.toNat with
    | 0x00000073 => some .ecall
    | 0x00100073 => some .ebreak
    | 0x10200073 => some .sret
    | 0x10500073 => some .wfi
    | _ => if csr.extractLsb' 5 7 = 0x09 ∧ csr.extractLsb' 0 5 = 0 ∧ rd = 0 then some (.sfenceVma rs1) else none
  | 1 => some (.csrrw rd csr rs1)
  | 2 => some (.csrrs rd csr rs1)
  | 3 => some (.csrrc rd csr rs1)
  | 5 => some (.csrrwi rd csr rs1)
  | 6 => some (.csrrsi rd csr rs1)
  | 7 => some (.csrrci rd csr rs1)
  | _ => none

/-- The standard major opcodes (R301, R315). -/
noncomputable def decodeStandard (w : BitVec 32) : Option Instr :=
  let rd := w.extractLsb' 7 5
  let f3 := (w.extractLsb' 12 3).toNat
  let rs1 := w.extractLsb' 15 5
  let rs2 := w.extractLsb' 20 5
  let f7 := (w.extractLsb' 25 7).toNat
  let imm := w.extractLsb' 20 12
  match (w.extractLsb' 0 7).toNat with
  | 0x37 => some (.lui rd (w.extractLsb' 12 20))
  | 0x17 => some (.auipc rd (w.extractLsb' 12 20))
  | 0x6F => some (.jal rd (w.extractLsb' 31 1 ++ w.extractLsb' 12 8 ++ w.extractLsb' 20 1 ++ w.extractLsb' 21 10))
  | 0x67 => if f3 = 0 then some (.jalr rd rs1 imm) else none
  | 0x63 => decodeBranch f3 rs1 rs2 (w.extractLsb' 31 1 ++ w.extractLsb' 7 1 ++ w.extractLsb' 25 6 ++ w.extractLsb' 8 4)
  | 0x03 => decodeLoad f3 rd rs1 imm
  | 0x23 => decodeStore f3 rs1 rs2 (w.extractLsb' 25 7 ++ rd)
  | 0x13 => decodeOpImm f3 rd rs1 imm
  | 0x1B => decodeOpImm32 f3 rd rs1 imm
  | 0x33 => decodeOp f7 f3 rd rs1 rs2
  | 0x3B => decodeOp32 f7 f3 rd rs1 rs2
  | 0x0F => decodeFence f3 rd rs1 imm
  | 0x2F => decodeAmo (w.extractLsb' 27 5).toNat f3 rd rs1 rs2 (w.extractLsb' 26 1) (w.extractLsb' 25 1)
  | 0x73 => decodeSystem w f3 rd rs1 imm
  | _ => none

/-- The instruction of a word, or none where no instruction encodes it (R301). -/
noncomputable def decode? (w : BitVec 32) : Option Instr :=
  match (w.extractLsb' 0 7).toNat with
  | 0x0B => decodeVV (w.extractLsb' 25 7).toNat (w.extractLsb' 7 6) (w.extractLsb' 13 6) (w.extractLsb' 19 6)
  | 0x2B => decodeVV ((w.extractLsb' 25 7).toNat + 128) (w.extractLsb' 7 6) (w.extractLsb' 13 6) (w.extractLsb' 19 6)
  | 0x7B =>
    if w.extractLsb' 12 3 = 0 then
      decodeXR (w.extractLsb' 25 7).toNat (w.extractLsb' 7 5) (w.extractLsb' 15 5) (w.extractLsb' 20 5)
    else none
  | _ => decodeStandard w

/-- Decoding, total: a word that no instruction encodes is `reservedEncoding`, with the word (R301, R305, R308). -/
noncomputable def decode (w : BitVec 32) : Instr := (decode? w).getD (.reservedEncoding w)

/-- The first word of a list of bytes, little-endian (R5), with the rest; none when fewer than four bytes stand there. -/
noncomputable def decodeBytes : List Byte → Option (Instr × List Byte)
  | b0 :: b1 :: b2 :: b3 :: rest => some (decode (b3 ++ b2 ++ b1 ++ b0), rest)
  | _ => none

/-- The instruction whose bits are `w` in the numbering of the opcode table: every word of this hardware has 32 bits (R16). -/
noncomputable def decodeTableWord (nbits w : Nat) : Option Instr :=
  if nbits ≤ 32 ∧ w < 2 ^ nbits then some (decode (BitVec.ofNat 32 w)) else none

/-- A word of format VV (R302). -/
def encodeVV (opn : BitVec 8) (d a b : BitVec 6) : BitVec 32 :=
  opn.extractLsb' 0 7 ++ b ++ a ++ d ++ (if opn.getLsbD 7 then 0x2B#7 else 0x0B#7)

/-- A word of format XR (R303). -/
def encodeXR (f7 : BitVec 7) (rd rs1 rs2 : BitVec 5) : BitVec 32 := f7 ++ rs2 ++ rs1 ++ 0#3 ++ rd ++ 0x7B#7

/-- The RISC-V format R, with the AMO words' aq and rl inside funct7. -/
def encodeR (op f7 : BitVec 7) (f3 : BitVec 3) (rd rs1 rs2 : BitVec 5) : BitVec 32 := f7 ++ rs2 ++ rs1 ++ f3 ++ rd ++ op

/-- The RISC-V format I. -/
def encodeI (op : BitVec 7) (f3 : BitVec 3) (rd rs1 : BitVec 5) (imm : BitVec 12) : BitVec 32 := imm ++ rs1 ++ f3 ++ rd ++ op

/-- The RISC-V format S. -/
def encodeS (op : BitVec 7) (f3 : BitVec 3) (rs1 rs2 : BitVec 5) (imm : BitVec 12) : BitVec 32 :=
  imm.extractLsb' 5 7 ++ rs2 ++ rs1 ++ f3 ++ imm.extractLsb' 0 5 ++ op

/-- The RISC-V format B; `imm` holds bits 12 to 1 of the offset. -/
def encodeB (op : BitVec 7) (f3 : BitVec 3) (rs1 rs2 : BitVec 5) (imm : BitVec 12) : BitVec 32 :=
  imm.extractLsb' 11 1 ++ imm.extractLsb' 4 6 ++ rs2 ++ rs1 ++ f3 ++ imm.extractLsb' 0 4 ++ imm.extractLsb' 10 1 ++ op

/-- The RISC-V format U. -/
def encodeU (op : BitVec 7) (rd : BitVec 5) (imm : BitVec 20) : BitVec 32 := imm ++ rd ++ op

/-- The RISC-V format J; `imm` holds bits 20 to 1 of the offset. -/
def encodeJ (op : BitVec 7) (rd : BitVec 5) (imm : BitVec 20) : BitVec 32 :=
  imm.extractLsb' 19 1 ++ imm.extractLsb' 0 10 ++ imm.extractLsb' 10 1 ++ imm.extractLsb' 11 8 ++ rd ++ op

/-- The word of an instruction, and none for an event (R302, R303, R306, R307, R315). -/
def encode? : Instr → Option (BitVec 32)
  | .vadd d a b => some (encodeVV 0x00 d a b)
  | .vaddx d a b => some (encodeVV 0x01 d a b)
  | .vsub d a b => some (encodeVV 0x02 d a b)
  | .vsubx d a b => some (encodeVV 0x03 d a b)
  | .vrsubx d a b => some (encodeVV 0x04 d a b)
  | .vmul d a b => some (encodeVV 0x05 d a b)
  | .vmulx d a b => some (encodeVV 0x06 d a b)
  | .vmulh d a b => some (encodeVV 0x07 d a b)
  | .vmulhu d a b => some (encodeVV 0x08 d a b)
  | .vmulhx d a b => some (encodeVV 0x09 d a b)
  | .vmac d a b => some (encodeVV 0x0A d a b)
  | .vmacx d a b => some (encodeVV 0x0B d a b)
  | .vdot2 d a b => some (encodeVV 0x0C d a b)
  | .vdot2x d a b => some (encodeVV 0x0D d a b)
  | .vdiv d a b => some (encodeVV 0x0E d a b)
  | .vrem d a b => some (encodeVV 0x0F d a b)
  | .vmin d a b => some (encodeVV 0x10 d a b)
  | .vmax d a b => some (encodeVV 0x11 d a b)
  | .vminx d a b => some (encodeVV 0x12 d a b)
  | .vmaxx d a b => some (encodeVV 0x13 d a b)
  | .vand d a b => some (encodeVV 0x14 d a b)
  | .vor d a b => some (encodeVV 0x15 d a b)
  | .vxor d a b => some (encodeVV 0x16 d a b)
  | .vandx d a b => some (encodeVV 0x17 d a b)
  | .vorx d a b => some (encodeVV 0x18 d a b)
  | .vxorx d a b => some (encodeVV 0x19 d a b)
  | .vsll d a b => some (encodeVV 0x1A d a b)
  | .vsllx d a b => some (encodeVV 0x1B d a b)
  | .vsrl d a b => some (encodeVV 0x1C d a b)
  | .vsrlx d a b => some (encodeVV 0x1D d a b)
  | .vsra d a b => some (encodeVV 0x1E d a b)
  | .vsrax d a b => some (encodeVV 0x1F d a b)
  | .vsrar d a b => some (encodeVV 0x20 d a b)
  | .vsrarx d a b => some (encodeVV 0x21 d a b)
  | .vnarrow d a b => some (encodeVV 0x22 d a b)
  | .vwidenl d a b => some (encodeVV 0x23 d a b)
  | .vwidenh d a b => some (encodeVV 0x24 d a b)
  | .vabs d a b => some (encodeVV 0x25 d a b)
  | .vneg d a b => some (encodeVV 0x26 d a b)
  | .vclz d a b => some (encodeVV 0x27 d a b)
  | .vpopc d a b => some (encodeVV 0x28 d a b)
  | .vavg d a b => some (encodeVV 0x29 d a b)
  | .vmerge d a b => some (encodeVV 0x2A d a b)
  | .vsplat d a b => some (encodeVV 0x2B d a b)
  | .viota d a b => some (encodeVV 0x2C d a b)
  | .vcmpeq d a b => some (encodeVV 0x2D d a b)
  | .vcmpne d a b => some (encodeVV 0x2E d a b)
  | .vcmplt d a b => some (encodeVV 0x2F d a b)
  | .vcmpltu d a b => some (encodeVV 0x30 d a b)
  | .vcmple d a b => some (encodeVV 0x31 d a b)
  | .vcmpeqx d a b => some (encodeVV 0x32 d a b)
  | .vcmpltx d a b => some (encodeVV 0x33 d a b)
  | .vcmpltux d a b => some (encodeVV 0x34 d a b)
  | .vcmplex d a b => some (encodeVV 0x35 d a b)
  | .vfadd d a b => some (encodeVV 0x38 d a b)
  | .vfaddx d a b => some (encodeVV 0x39 d a b)
  | .vfsub d a b => some (encodeVV 0x3A d a b)
  | .vfsubx d a b => some (encodeVV 0x3B d a b)
  | .vfmul d a b => some (encodeVV 0x3C d a b)
  | .vfmulx d a b => some (encodeVV 0x3D d a b)
  | .vfmac d a b => some (encodeVV 0x3E d a b)
  | .vfmacx d a b => some (encodeVV 0x3F d a b)
  | .vfnms d a b => some (encodeVV 0x40 d a b)
  | .vfdiv d a b => some (encodeVV 0x41 d a b)
  | .vfsqrt d a b => some (encodeVV 0x42 d a b)
  | .vfrcp d a b => some (encodeVV 0x43 d a b)
  | .vfrsq d a b => some (encodeVV 0x44 d a b)
  | .vfmin d a b => some (encodeVV 0x45 d a b)
  | .vfmax d a b => some (encodeVV 0x46 d a b)
  | .vfabs d a b => some (encodeVV 0x47 d a b)
  | .vfneg d a b => some (encodeVV 0x48 d a b)
  | .vfrint d a b => some (encodeVV 0x49 d a b)
  | .vfexp2f d a b => some (encodeVV 0x4A d a b)
  | .vflog2f d a b => some (encodeVV 0x4B d a b)
  | .vfldexp d a b => some (encodeVV 0x4C d a b)
  | .vfgetexp d a b => some (encodeVV 0x4D d a b)
  | .vfcmpeq d a b => some (encodeVV 0x4E d a b)
  | .vfcmplt d a b => some (encodeVV 0x4F d a b)
  | .vfcmple d a b => some (encodeVV 0x50 d a b)
  | .vfcmpun d a b => some (encodeVV 0x51 d a b)
  | .vfclass d a b => some (encodeVV 0x52 d a b)
  | .vcvtif d a b => some (encodeVV 0x53 d a b)
  | .vcvtfi d a b => some (encodeVV 0x54 d a b)
  | .vcvtff d a b => some (encodeVV 0x55 d a b)
  | .vfdot2 d a b => some (encodeVV 0x56 d a b)
  | .vslideup d a b => some (encodeVV 0x58 d a b)
  | .vslidedn d a b => some (encodeVV 0x59 d a b)
  | .vslide1up d a b => some (encodeVV 0x5A d a b)
  | .vslide1dn d a b => some (encodeVV 0x5B d a b)
  | .vrgath d a b => some (encodeVV 0x5C d a b)
  | .vcompress d a b => some (encodeVV 0x5D d a b)
  | .vexpand d a b => some (encodeVV 0x5E d a b)
  | .vrev d a b => some (encodeVV 0x5F d a b)
  | .vzip d a b => some (encodeVV 0x60 d a b)
  | .vunzip d a b => some (encodeVV 0x61 d a b)
  | .vredsum d a b => some (encodeVV 0x62 d a b)
  | .vredmax d a b => some (encodeVV 0x63 d a b)
  | .vredmin d a b => some (encodeVV 0x64 d a b)
  | .vredand d a b => some (encodeVV 0x65 d a b)
  | .vredor d a b => some (encodeVV 0x66 d a b)
  | .vfredsum d a b => some (encodeVV 0x67 d a b)
  | .vfredmax d a b => some (encodeVV 0x68 d a b)
  | .vfredmin d a b => some (encodeVV 0x69 d a b)
  | .vmand d a b => some (encodeVV 0x6A d a b)
  | .vmor d a b => some (encodeVV 0x6B d a b)
  | .vmxor d a b => some (encodeVV 0x6C d a b)
  | .vmnot d a b => some (encodeVV 0x6D d a b)
  | .vmpopc d a b => some (encodeVV 0x6E d a b)
  | .vmfirst d a b => some (encodeVV 0x6F d a b)
  | .vextx d a b => some (encodeVV 0x70 d a b)
  | .vinsx d a b => some (encodeVV 0x71 d a b)
  | .vmov d a b => some (encodeVV 0x72 d a b)
  | .vmtov d a b => some (encodeVV 0x73 d a b)
  | .vvtom d a b => some (encodeVV 0x74 d a b)
  | .vld d a b => some (encodeVV 0x78 d a b)
  | .vlds d a b => some (encodeVV 0x79 d a b)
  | .vldx d a b => some (encodeVV 0x7A d a b)
  | .vldb d a b => some (encodeVV 0x7B d a b)
  | .vst d a b => some (encodeVV 0x7C d a b)
  | .vsts d a b => some (encodeVV 0x7D d a b)
  | .vstx d a b => some (encodeVV 0x7E d a b)
  | .vstu d a b => some (encodeVV 0x7F d a b)
  | .vstsu d a b => some (encodeVV 0x80 d a b)
  | .vstxu d a b => some (encodeVV 0x81 d a b)
  | .vldt d a b => some (encodeVV 0x82 d a b)
  | .vstt d a b => some (encodeVV 0x83 d a b)
  | .vldtx d a b => some (encodeVV 0x84 d a b)
  | .vsttx d a b => some (encodeVV 0x85 d a b)
  | .vtaddx d a b => some (encodeVV 0x86 d a b)
  | .vtcasx d a b => some (encodeVV 0x87 d a b)
  | .vtmaxx d a b => some (encodeVV 0x88 d a b)
  | .vldw d a b => some (encodeVV 0x89 d a b)
  | .vstw d a b => some (encodeVV 0x8A d a b)
  | .vataddx d a b => some (encodeVV 0x8B d a b)
  | .vatcasx d a b => some (encodeVV 0x8C d a b)
  | .vpush d a b => some (encodeVV 0x8D d a b)
  | .varm d a b => some (encodeVV 0x8E d a b)
  | .vpref d a b => some (encodeVV 0x8F d a b)
  | .mldw d a b => some (encodeVV 0x98 d a b)
  | .mrow d a b => some (encodeVV 0x99 d a b)
  | .mrelw d a b => some (encodeVV 0x9A d a b)
  | .mwaitw d a b => some (encodeVV 0x9B d a b)
  | .mstat d a b => some (encodeVV 0x9C d a b)
  | .vscacc d a b => some (encodeVV 0x9D d a b)
  | .vscapply d a b => some (encodeVV 0x9E d a b)
  | .vbscale d a b => some (encodeVV 0x9F d a b)
  | .vmxq d a b => some (encodeVV 0xA0 d a b)
  | .vcbdec d a b => some (encodeVV 0xA1 d a b)
  | .vcbld d a b => some (encodeVV 0xA2 d a b)
  | .vaccrd d a b => some (encodeVV 0xA3 d a b)
  | .fscan d a b => some (encodeVV 0xB0 d a b)
  | .fscand d a b => some (encodeVV 0xB1 d a b)
  | .fisect d a b => some (encodeVV 0xB2 d a b)
  | .funion d a b => some (encodeVV 0xB3 d a b)
  | .frept d a b => some (encodeVV 0xB4 d a b)
  | .fredc d a b => some (encodeVV 0xB5 d a b)
  | .fval d a b => some (encodeVV 0xB6 d a b)
  | .fwrc d a b => some (encodeVV 0xB7 d a b)
  | .fwrv d a b => some (encodeVV 0xB8 d a b)
  | .fsteer d a b => some (encodeVV 0xB9 d a b)
  | .fmerge d a b => some (encodeVV 0xBA d a b)
  | .floopc d a b => some (encodeVV 0xBB d a b)
  | .fjoin d a b => some (encodeVV 0xBC d a b)
  | .fxlate d a b => some (encodeVV 0xBD d a b)
  | .fgath d a b => some (encodeVV 0xBE d a b)
  | .fscat d a b => some (encodeVV 0xBF d a b)
  | .fsink d a b => some (encodeVV 0xC0 d a b)
  | .fcrd d a b => some (encodeVV 0xC1 d a b)
  | .fref d a b => some (encodeVV 0xC2 d a b)
  | .fpack d a b => some (encodeVV 0xC3 d a b)
  | .fhashi d a b => some (encodeVV 0xC4 d a b)
  | .fdrop d a b => some (encodeVV 0xC5 d a b)
  | .rmatch d a b => some (encodeVV 0xC6 d a b)
  | .qpushx d a b => some (encodeVV 0xC7 d a b)
  | .qpopx d a b => some (encodeVV 0xC8 d a b)
  | .qstopx d a b => some (encodeVV 0xC9 d a b)
  | .qdone d a b => some (encodeVV 0xCA d a b)
  | .qpeek d a b => some (encodeVV 0xCB d a b)
  | .qdrain d a b => some (encodeVV 0xCC d a b)
  | .setmode rd rs1 rs2 => some (encodeXR 0x00 rd rs1 rs2)
  | .getmode rd rs1 rs2 => some (encodeXR 0x01 rd rs1 rs2)
  | .setvl rd rs1 rs2 => some (encodeXR 0x02 rd rs1 rs2)
  | .setvstart rd rs1 rs2 => some (encodeXR 0x03 rd rs1 rs2)
  | .probe rd rs1 rs2 => some (encodeXR 0x04 rd rs1 rs2)
  | .punpin rd rs1 rs2 => some (encodeXR 0x05 rd rs1 rs2)
  | .pstat rd rs1 rs2 => some (encodeXR 0x06 rd rs1 rs2)
  | .talloc rd rs1 rs2 => some (encodeXR 0x07 rd rs1 rs2)
  | .tfree rd rs1 rs2 => some (encodeXR 0x08 rd rs1 rs2)
  | .tstate rd rs1 rs2 => some (encodeXR 0x09 rd rs1 rs2)
  | .tsetst rd rs1 rs2 => some (encodeXR 0x0A rd rs1 rs2)
  | .tgen rd rs1 rs2 => some (encodeXR 0x0B rd rs1 rs2)
  | .rowopen rd rs1 rs2 => some (encodeXR 0x0C rd rs1 rs2)
  | .rowrel rd rs1 rs2 => some (encodeXR 0x0D rd rs1 rs2)
  | .rowstat rd rs1 rs2 => some (encodeXR 0x0E rd rs1 rs2)
  | .acopy rd rs1 rs2 => some (encodeXR 0x0F rd rs1 rs2)
  | .await rd rs1 rs2 => some (encodeXR 0x10 rd rs1 rs2)
  | .acancel rd rs1 rs2 => some (encodeXR 0x11 rd rs1 rs2)
  | .astat rd rs1 rs2 => some (encodeXR 0x12 rd rs1 rs2)
  | .chcfg rd rs1 rs2 => some (encodeXR 0x13 rd rs1 rs2)
  | .chrel rd rs1 rs2 => some (encodeXR 0x14 rd rs1 rs2)
  | .run rd rs1 rs2 => some (encodeXR 0x15 rd rs1 rs2)
  | .chwait rd rs1 rs2 => some (encodeXR 0x16 rd rs1 rs2)
  | .chstat rd rs1 rs2 => some (encodeXR 0x17 rd rs1 rs2)
  | .chbar rd rs1 rs2 => some (encodeXR 0x18 rd rs1 rs2)
  | .chresp rd rs1 rs2 => some (encodeXR 0x19 rd rs1 rs2)
  | .chbrk rd rs1 rs2 => some (encodeXR 0x1A rd rs1 rs2)
  | .sbind rd rs1 rs2 => some (encodeXR 0x1B rd rs1 rs2)
  | .sunbind rd rs1 rs2 => some (encodeXR 0x1C rd rs1 rs2)
  | .fenceo rd rs1 rs2 => some (encodeXR 0x1D rd rs1 rs2)
  | .fencee rd rs1 rs2 => some (encodeXR 0x1E rd rs1 rs2)
  | .fencex rd rs1 rs2 => some (encodeXR 0x1F rd rs1 rs2)
  | .hintnext rd rs1 rs2 => some (encodeXR 0x20 rd rs1 rs2)
  | .waitvis rd rs1 rs2 => some (encodeXR 0x21 rd rs1 rs2)
  | .enq rd rs1 rs2 => some (encodeXR 0x22 rd rs1 rs2)
  | .deq rd rs1 rs2 => some (encodeXR 0x23 rd rs1 rs2)
  | .enqc rd rs1 rs2 => some (encodeXR 0x24 rd rs1 rs2)
  | .ctxsv rd rs1 rs2 => some (encodeXR 0x25 rd rs1 rs2)
  | .ctxld rd rs1 rs2 => some (encodeXR 0x26 rd rs1 rs2)
  | .evrd rd rs1 rs2 => some (encodeXR 0x27 rd rs1 rs2)
  | .tsnow rd rs1 rs2 => some (encodeXR 0x28 rd rs1 rs2)
  | .strstart rd rs1 rs2 => some (encodeXR 0x29 rd rs1 rs2)
  | .stepend rd rs1 rs2 => some (encodeXR 0x2A rd rs1 rs2)
  | .trapx rd rs1 rs2 => some (encodeXR 0x2B rd rs1 rs2)
  | .rlimset rd rs1 rs2 => some (encodeXR 0x2C rd rs1 rs2)
  | .lui rd imm => some (encodeU 0x37 rd imm)
  | .auipc rd imm => some (encodeU 0x17 rd imm)
  | .jal rd imm => some (encodeJ 0x6F rd imm)
  | .jalr rd rs1 imm => some (encodeI 0x67 0 rd rs1 imm)
  | .beq rs1 rs2 imm => some (encodeB 0x63 0 rs1 rs2 imm)
  | .bne rs1 rs2 imm => some (encodeB 0x63 1 rs1 rs2 imm)
  | .blt rs1 rs2 imm => some (encodeB 0x63 4 rs1 rs2 imm)
  | .bge rs1 rs2 imm => some (encodeB 0x63 5 rs1 rs2 imm)
  | .bltu rs1 rs2 imm => some (encodeB 0x63 6 rs1 rs2 imm)
  | .bgeu rs1 rs2 imm => some (encodeB 0x63 7 rs1 rs2 imm)
  | .lb rd rs1 imm => some (encodeI 0x03 0 rd rs1 imm)
  | .lh rd rs1 imm => some (encodeI 0x03 1 rd rs1 imm)
  | .lw rd rs1 imm => some (encodeI 0x03 2 rd rs1 imm)
  | .ld rd rs1 imm => some (encodeI 0x03 3 rd rs1 imm)
  | .lbu rd rs1 imm => some (encodeI 0x03 4 rd rs1 imm)
  | .lhu rd rs1 imm => some (encodeI 0x03 5 rd rs1 imm)
  | .lwu rd rs1 imm => some (encodeI 0x03 6 rd rs1 imm)
  | .sb rs1 rs2 imm => some (encodeS 0x23 0 rs1 rs2 imm)
  | .sh rs1 rs2 imm => some (encodeS 0x23 1 rs1 rs2 imm)
  | .sw rs1 rs2 imm => some (encodeS 0x23 2 rs1 rs2 imm)
  | .sd rs1 rs2 imm => some (encodeS 0x23 3 rs1 rs2 imm)
  | .addi rd rs1 imm => some (encodeI 0x13 0 rd rs1 imm)
  | .slti rd rs1 imm => some (encodeI 0x13 2 rd rs1 imm)
  | .sltiu rd rs1 imm => some (encodeI 0x13 3 rd rs1 imm)
  | .xori rd rs1 imm => some (encodeI 0x13 4 rd rs1 imm)
  | .ori rd rs1 imm => some (encodeI 0x13 6 rd rs1 imm)
  | .andi rd rs1 imm => some (encodeI 0x13 7 rd rs1 imm)
  | .slli rd rs1 sh => some (encodeI 0x13 1 rd rs1 (0x00#6 ++ sh))
  | .srli rd rs1 sh => some (encodeI 0x13 5 rd rs1 (0x00#6 ++ sh))
  | .srai rd rs1 sh => some (encodeI 0x13 5 rd rs1 (0x10#6 ++ sh))
  | .add rd rs1 rs2 => some (encodeR 0x33 0x00 0 rd rs1 rs2)
  | .sub rd rs1 rs2 => some (encodeR 0x33 0x20 0 rd rs1 rs2)
  | .sll rd rs1 rs2 => some (encodeR 0x33 0x00 1 rd rs1 rs2)
  | .slt rd rs1 rs2 => some (encodeR 0x33 0x00 2 rd rs1 rs2)
  | .sltu rd rs1 rs2 => some (encodeR 0x33 0x00 3 rd rs1 rs2)
  | .xor rd rs1 rs2 => some (encodeR 0x33 0x00 4 rd rs1 rs2)
  | .srl rd rs1 rs2 => some (encodeR 0x33 0x00 5 rd rs1 rs2)
  | .sra rd rs1 rs2 => some (encodeR 0x33 0x20 5 rd rs1 rs2)
  | .or rd rs1 rs2 => some (encodeR 0x33 0x00 6 rd rs1 rs2)
  | .and rd rs1 rs2 => some (encodeR 0x33 0x00 7 rd rs1 rs2)
  | .addiw rd rs1 imm => some (encodeI 0x1B 0 rd rs1 imm)
  | .slliw rd rs1 sh => some (encodeI 0x1B 1 rd rs1 (0x00#7 ++ sh))
  | .srliw rd rs1 sh => some (encodeI 0x1B 5 rd rs1 (0x00#7 ++ sh))
  | .sraiw rd rs1 sh => some (encodeI 0x1B 5 rd rs1 (0x20#7 ++ sh))
  | .addw rd rs1 rs2 => some (encodeR 0x3B 0x00 0 rd rs1 rs2)
  | .subw rd rs1 rs2 => some (encodeR 0x3B 0x20 0 rd rs1 rs2)
  | .sllw rd rs1 rs2 => some (encodeR 0x3B 0x00 1 rd rs1 rs2)
  | .srlw rd rs1 rs2 => some (encodeR 0x3B 0x00 5 rd rs1 rs2)
  | .sraw rd rs1 rs2 => some (encodeR 0x3B 0x20 5 rd rs1 rs2)
  | .fence rd rs1 imm => some (encodeI 0x0F 0 rd rs1 imm)
  | .fenceI rd rs1 imm => some (encodeI 0x0F 1 rd rs1 imm)
  | .ecall => some (0x00000073#32)
  | .ebreak => some (0x00100073#32)
  | .mul rd rs1 rs2 => some (encodeR 0x33 0x01 0 rd rs1 rs2)
  | .mulh rd rs1 rs2 => some (encodeR 0x33 0x01 1 rd rs1 rs2)
  | .mulhsu rd rs1 rs2 => some (encodeR 0x33 0x01 2 rd rs1 rs2)
  | .mulhu rd rs1 rs2 => some (encodeR 0x33 0x01 3 rd rs1 rs2)
  | .div rd rs1 rs2 => some (encodeR 0x33 0x01 4 rd rs1 rs2)
  | .divu rd rs1 rs2 => some (encodeR 0x33 0x01 5 rd rs1 rs2)
  | .rem rd rs1 rs2 => some (encodeR 0x33 0x01 6 rd rs1 rs2)
  | .remu rd rs1 rs2 => some (encodeR 0x33 0x01 7 rd rs1 rs2)
  | .mulw rd rs1 rs2 => some (encodeR 0x3B 0x01 0 rd rs1 rs2)
  | .divw rd rs1 rs2 => some (encodeR 0x3B 0x01 4 rd rs1 rs2)
  | .divuw rd rs1 rs2 => some (encodeR 0x3B 0x01 5 rd rs1 rs2)
  | .remw rd rs1 rs2 => some (encodeR 0x3B 0x01 6 rd rs1 rs2)
  | .remuw rd rs1 rs2 => some (encodeR 0x3B 0x01 7 rd rs1 rs2)
  | .lrW rd rs1 aq rl => some (encodeR 0x2F (0x02#5 ++ aq ++ rl) 2 rd rs1 0)
  | .lrD rd rs1 aq rl => some (encodeR 0x2F (0x02#5 ++ aq ++ rl) 3 rd rs1 0)
  | .scW rd rs1 rs2 aq rl => some (encodeR 0x2F (0x03#5 ++ aq ++ rl) 2 rd rs1 rs2)
  | .scD rd rs1 rs2 aq rl => some (encodeR 0x2F (0x03#5 ++ aq ++ rl) 3 rd rs1 rs2)
  | .amoswapW rd rs1 rs2 aq rl => some (encodeR 0x2F (0x01#5 ++ aq ++ rl) 2 rd rs1 rs2)
  | .amoswapD rd rs1 rs2 aq rl => some (encodeR 0x2F (0x01#5 ++ aq ++ rl) 3 rd rs1 rs2)
  | .amoaddW rd rs1 rs2 aq rl => some (encodeR 0x2F (0x00#5 ++ aq ++ rl) 2 rd rs1 rs2)
  | .amoaddD rd rs1 rs2 aq rl => some (encodeR 0x2F (0x00#5 ++ aq ++ rl) 3 rd rs1 rs2)
  | .amoxorW rd rs1 rs2 aq rl => some (encodeR 0x2F (0x04#5 ++ aq ++ rl) 2 rd rs1 rs2)
  | .amoxorD rd rs1 rs2 aq rl => some (encodeR 0x2F (0x04#5 ++ aq ++ rl) 3 rd rs1 rs2)
  | .amoandW rd rs1 rs2 aq rl => some (encodeR 0x2F (0x0C#5 ++ aq ++ rl) 2 rd rs1 rs2)
  | .amoandD rd rs1 rs2 aq rl => some (encodeR 0x2F (0x0C#5 ++ aq ++ rl) 3 rd rs1 rs2)
  | .amoorW rd rs1 rs2 aq rl => some (encodeR 0x2F (0x08#5 ++ aq ++ rl) 2 rd rs1 rs2)
  | .amoorD rd rs1 rs2 aq rl => some (encodeR 0x2F (0x08#5 ++ aq ++ rl) 3 rd rs1 rs2)
  | .amominW rd rs1 rs2 aq rl => some (encodeR 0x2F (0x10#5 ++ aq ++ rl) 2 rd rs1 rs2)
  | .amominD rd rs1 rs2 aq rl => some (encodeR 0x2F (0x10#5 ++ aq ++ rl) 3 rd rs1 rs2)
  | .amomaxW rd rs1 rs2 aq rl => some (encodeR 0x2F (0x14#5 ++ aq ++ rl) 2 rd rs1 rs2)
  | .amomaxD rd rs1 rs2 aq rl => some (encodeR 0x2F (0x14#5 ++ aq ++ rl) 3 rd rs1 rs2)
  | .amominuW rd rs1 rs2 aq rl => some (encodeR 0x2F (0x18#5 ++ aq ++ rl) 2 rd rs1 rs2)
  | .amominuD rd rs1 rs2 aq rl => some (encodeR 0x2F (0x18#5 ++ aq ++ rl) 3 rd rs1 rs2)
  | .amomaxuW rd rs1 rs2 aq rl => some (encodeR 0x2F (0x1C#5 ++ aq ++ rl) 2 rd rs1 rs2)
  | .amomaxuD rd rs1 rs2 aq rl => some (encodeR 0x2F (0x1C#5 ++ aq ++ rl) 3 rd rs1 rs2)
  | .csrrw rd csr rs1 => some (encodeI 0x73 1 rd rs1 csr)
  | .csrrs rd csr rs1 => some (encodeI 0x73 2 rd rs1 csr)
  | .csrrc rd csr rs1 => some (encodeI 0x73 3 rd rs1 csr)
  | .csrrwi rd csr rs1 => some (encodeI 0x73 5 rd rs1 csr)
  | .csrrsi rd csr rs1 => some (encodeI 0x73 6 rd rs1 csr)
  | .csrrci rd csr rs1 => some (encodeI 0x73 7 rd rs1 csr)
  | .addUw rd rs1 rs2 => some (encodeR 0x3B 0x04 0 rd rs1 rs2)
  | .sh1add rd rs1 rs2 => some (encodeR 0x33 0x10 2 rd rs1 rs2)
  | .sh2add rd rs1 rs2 => some (encodeR 0x33 0x10 4 rd rs1 rs2)
  | .sh3add rd rs1 rs2 => some (encodeR 0x33 0x10 6 rd rs1 rs2)
  | .sh1addUw rd rs1 rs2 => some (encodeR 0x3B 0x10 2 rd rs1 rs2)
  | .sh2addUw rd rs1 rs2 => some (encodeR 0x3B 0x10 4 rd rs1 rs2)
  | .sh3addUw rd rs1 rs2 => some (encodeR 0x3B 0x10 6 rd rs1 rs2)
  | .slliUw rd rs1 sh => some (encodeI 0x1B 1 rd rs1 (0x02#6 ++ sh))
  | .andn rd rs1 rs2 => some (encodeR 0x33 0x20 7 rd rs1 rs2)
  | .orn rd rs1 rs2 => some (encodeR 0x33 0x20 6 rd rs1 rs2)
  | .xnor rd rs1 rs2 => some (encodeR 0x33 0x20 4 rd rs1 rs2)
  | .clz rd rs1 => some (encodeI 0x13 1 rd rs1 0x600)
  | .clzw rd rs1 => some (encodeI 0x1B 1 rd rs1 0x600)
  | .ctz rd rs1 => some (encodeI 0x13 1 rd rs1 0x601)
  | .ctzw rd rs1 => some (encodeI 0x1B 1 rd rs1 0x601)
  | .cpop rd rs1 => some (encodeI 0x13 1 rd rs1 0x602)
  | .cpopw rd rs1 => some (encodeI 0x1B 1 rd rs1 0x602)
  | .max rd rs1 rs2 => some (encodeR 0x33 0x05 6 rd rs1 rs2)
  | .maxu rd rs1 rs2 => some (encodeR 0x33 0x05 7 rd rs1 rs2)
  | .min rd rs1 rs2 => some (encodeR 0x33 0x05 4 rd rs1 rs2)
  | .minu rd rs1 rs2 => some (encodeR 0x33 0x05 5 rd rs1 rs2)
  | .sextB rd rs1 => some (encodeI 0x13 1 rd rs1 0x604)
  | .sextH rd rs1 => some (encodeI 0x13 1 rd rs1 0x605)
  | .zextH rd rs1 => some (encodeI 0x3B 4 rd rs1 0x080)
  | .rol rd rs1 rs2 => some (encodeR 0x33 0x30 1 rd rs1 rs2)
  | .rolw rd rs1 rs2 => some (encodeR 0x3B 0x30 1 rd rs1 rs2)
  | .ror rd rs1 rs2 => some (encodeR 0x33 0x30 5 rd rs1 rs2)
  | .rori rd rs1 sh => some (encodeI 0x13 5 rd rs1 (0x18#6 ++ sh))
  | .roriw rd rs1 sh => some (encodeI 0x1B 5 rd rs1 (0x30#7 ++ sh))
  | .rorw rd rs1 rs2 => some (encodeR 0x3B 0x30 5 rd rs1 rs2)
  | .orcB rd rs1 => some (encodeI 0x13 5 rd rs1 0x287)
  | .rev8 rd rs1 => some (encodeI 0x13 5 rd rs1 0x6B8)
  | .czeroEqz rd rs1 rs2 => some (encodeR 0x33 0x07 5 rd rs1 rs2)
  | .czeroNez rd rs1 rs2 => some (encodeR 0x33 0x07 7 rd rs1 rs2)
  | .sret => some (0x10200073#32)
  | .wfi => some (0x10500073#32)
  | .sfenceVma rs1 => some (encodeR 0x73 0x09 0 0 rs1 0)
  | .interruptEntry _ _ => none
  | .breakTrapEntry _ _ => none
  | .waitEnd _ _ => none
  | .vectorAdmission _ _ => none
  | .vectorWalkComplete _ _ _ => none
  | .copyActivate _ _ => none
  | .copyBeat _ _ => none
  | .arrivalToken _ _ => none
  | .copyCompletionToken _ _ => none
  | .chainBreak _ _ => none
  | .slotEnterTemporal _ _ => none
  | .remainderWord _ _ => none
  | .runComplete _ _ => none
  | .lgNodeFire _ _ _ => none
  | .mnNodeFire _ _ _ => none
  | .sourcePortPush _ _ _ => none
  | .sinkPortWrite _ _ _ => none
  | .tokenLand _ _ => none
  | .advancePass _ _ => none
  | .watchFire _ _ _ => none
  | .stepEntry _ _ => none
  | .stepComplete _ _ => none
  | .jobSelection _ => none
  | .dependenceMet _ => none
  | .stipSet _ _ => none
  | .instructionFetchFault _ => none
  | .reservedEncoding w => some w
  | .rowReopenGiveup _ _ _ => none
  | .graceExpiry _ => none
  | .stepBoundaryStop _ => none
  | .deviceReset => none
  | .bootImageReceived _ _ _ _ _ => none
  | .bootRetry => none
  | .securityVersionRaise => none
  | .spdmRequest _ _ => none
  | .keySlotLoad _ _ => none
  | .keySlotZeroize _ => none
  | .linkKeyUpdate _ _ _ => none
  | .hostWindowWrite _ _ _ _ => none
  | .hostWindowRead _ _ _ _ => none
  | .hostDoorbellWrite _ _ => none
  | .clientRequest _ _ => none
  | .hostLinkFailure _ => none
  | .hostLinkReset _ => none
  | .deviceWindowMap _ _ _ _ _ => none
  | .herezFlitReceive _ _ => none
  | .escapeChannelMove _ _ => none
  | .herezPortRetrain _ => none
  | .herezPortDown _ => none
  | .herezPortUp _ => none
  | .remoteFabricAccess _ _ _ _ _ => none
  | .checkpointRequest => none
  | .checkpointEngineDone => none
  | .checkpointRestore _ _ _ _ _ => none
  | .powerCapSet _ => none
  | .clockStep _ => none
  | .thermalFreeze _ => none
  | .errorCounterSnapshot _ => none
  | .enckeFreeze _ => none
  | .thaw => none
  | .regionCreate _ _ _ _ => none
  | .regionDestroy _ => none
  | .interleaveTableWrite _ _ _ => none
  | .routerTagTableWrite _ _ _ _ => none
  | .pageTableInvalidation _ _ => none
  | .tileDemote _ _ _ => none
  | .tileEvict _ _ => none
  | .tileRestore _ _ _ => none
  | .handleRevocation _ _ => none
  | .jobAbort _ => none
  | .containmentReset _ => none
  | .quantumExpiry _ => none
  | .energyAccountTick _ _ _ => none
  | .rateWindowBoundary _ => none
  | .faultRingAdvance _ _ => none
  | .titaniaReply _ _ _ _ => none
  | .refreshBreak _ => none
  | .channelLend _ => none
  | .channelReclaim _ => none
  | .watchdogEvent _ => none
  | .dramUncorrectableError _ _ => none
  | .tileUncorrectableError _ _ _ => none
  | .eccCorrected _ => none
  | .vflagsWrite _ => none
  | .voorvaWrite _ => none
  | .vslipWrite _ => none
  | .vlenWrite _ => none
  | .vstartWrite _ => none
  | .vmodeWrite _ _ => none
  | .vtwinWrite _ => none
  | .vtsafeWrite _ => none
  | .stimecmpWrite _ => none
  | .csrWrite _ _ => none
  | .hostWindowMap _ _ _ => none
  | .fabricWindowExport _ _ _ _ => none
  | .tdispBind _ _ _ => none
  | .measurementExtend _ _ => none
  | .bootFetchFailure => none

/-- The word of an instruction; an event has none and gives 0. -/
def encode (i : Instr) : BitVec 32 := (encode? i).getD 0

end Sys2Proof
end

