-- ==== Sys2Proof/Config.lean ====
section
/-!
DEFINITION. What the specification leaves open, as constants that nothing in Lean can evaluate: the free values, each taken
at the step counter `tick` or at the operands it depends on, and the functions of the trust hardware whose definition stands
in other standards. A claim about the machine holds whatever they are.
-/
namespace Sys2Proof

/-- Undefined data (R10): a slot above a high-water mark, a codebook row before the first VCBLD, a location that a program
has written against R34. -/
opaque Config.undef : Nat → Word

/-- How many encodings the result of VFRSQ, VFEXP2F or VFLOG2F lies from the correctly rounded one, before it is held to the
bound of R78; by OPN and operand. -/
opaque Config.approx : Nat → Nat → Int

/-- Time that passes with one step, in core clock cycles and in timebase ticks (R14, R83, R274). -/
opaque Config.cycles : Nat → Nat
opaque Config.ticks : Nat → Nat

/-- How far the timebase copy of a die stands from the reference at a read, held to ±4 ticks (R274). -/
opaque Config.skew : Nat → Nat → Int

/-- Whether a cached line or translation has been dropped before this step looks for it (R163, R185). -/
opaque Config.evicted : Nat → Bool

/-- Which of two elements of a VSTXU on one unit wins (R191), and which bytes an access that races with an engine sees. -/
opaque Config.choice : Nat → Nat

/-- A byte that a read through a host window returns (R469). -/
opaque Config.hostByte : Nat → Nat → Byte

/-- First byte of each die's fault record ring, a fast-tier address in memory that Titania owns (R242). -/
opaque Config.ringBase : Nat → Nat

/-- The .slip directive of the kernel whose entry is given, 0 where it has none (R43): the image carries it, and no record of
the specification does. -/
opaque Config.kernelSlip : Nat → Nat

/-- What the loader takes from the image of the kernel whose entry is given (R312): its strands; the bytes of .data and of the
argument block, by virtual address; the number of its file and the bytes of a .data section outside every .kernel bracket, which the
file's kernels share (R452); base and length less 1 of the labels that it probes; and of each .tile and .chain record the handle that
names it, the shape word of TALLOC, and whether it has initial contents. -/
opaque Config.kernelStrands : Nat → Nat
opaque Config.kernelData : Nat → List (Word × Byte)
opaque Config.kernelFile : Nat → Nat
opaque Config.fileData : Nat → List (Word × Byte)
opaque Config.kernelLabels : Nat → List (Word × BitVec 32)
opaque Config.kernelTiles : Nat → List (Word × Word × Bool)

/-- The initial elements of tile `i` of a kernel: entry, `i` (R312). -/
opaque Config.kernelInit : Nat → Nat → List Nat

/-- What the loader fills into those elements on each core: an element, a bit position in it, and the tile of the kernel whose handle
goes there, or none for `self`, the core's own number (R313, R461). -/
opaque Config.kernelFills : Nat → Nat → List (Nat × Nat × Option Nat)

/-- The virtual address of a core's step record (R43, R44). -/
opaque Config.stepRecord : Nat → Word

/-- Whether the routers on the path of a circuit with a tag have dedicated buffers for a further circuit in every phase (R256):
by tag and time. -/
opaque Config.circuitRoom : Nat → Nat → Bool

/-- Credits that the peer device of a circuit has returned (R206). -/
opaque Config.remoteCredit : Nat → Nat

/-- Whether the device operating system defines a service for a value of a7 (R241). -/
opaque Config.osService : Word → Bool

/-- A byte of DRAM as it is stored, encrypted, by tier (0 fast, 1 capacity) and tier address (R295). -/
opaque Config.stored : Nat → Nat → Byte → Byte

/-- SHA-384 (R477). -/
opaque Config.sha384 : List Byte → BitVec 384

/-- ML-DSA-87 and ECDSA P-384 verification against the fused key hashes (R477). -/
opaque Config.mldsaOk : List Byte → List Byte → Bool
opaque Config.ecdsaOk : List Byte → List Byte → Bool

/-- Onyx's own firmware, measured first (R477). -/
opaque Config.onyxFirmware : List Byte

/-- A key that Onyx generates (R477, R480). -/
opaque Config.newKey : Nat → BitVec 512

/-- Onyx's SPDM answer to a request, given its measurements (R479). -/
opaque Config.spdmAnswer : List Byte → List (BitVec 384) → List Byte

/-- The configuration section and the security version that a boot image carries (R477). -/
opaque Config.imageConfig : List Byte → List Byte
opaque Config.imageVersion : List Byte → BitVec 32

/-- The key slots as Onyx wraps them for a checkpoint image, and as it unwraps them, where it can (R482). -/
opaque Config.wrapKeys : List (Nat × BitVec 512) → List Byte
opaque Config.unwrapKeys : List Byte → Option (List (Nat × BitVec 512))

/-- Whether Onyx releases a key slot to Encke (R295). -/
opaque Config.keysReleased : Nat → Bool

/-- Device physical pages of Titania's and Onyx's own: job queues, save areas and what else they keep (R468). -/
opaque Config.titaniaPage : Nat → Bool

/-- Whether a route tag is granted to this device and to a peer (R476). -/
opaque Config.tagGranted : Nat → Bool

/-- Whether the host link cannot complete an access to a page of a host window, for want of an answer in time or for a poisoned one, by time,
window and page (R469); and whether a link that retrains has come up again, by time and port. -/
opaque Config.hostFails : Nat → Nat → Nat → Bool
opaque Config.linkTrained : Nat → Nat → Bool

/-- A client channel (R470): its host's port; the first byte of its request ring, a device physical address; window, page and offset of entry n
of its completion ring; what Titania takes an entry for, none where it rejects it; and the reply to an entry with a status. -/
opaque Config.channelPort : Nat → Nat
opaque Config.ringPlace : Nat → Nat
opaque Config.replyPlace : Nat → Nat → Nat × Nat × Nat
opaque Config.clientService : List Byte → Option ClientService
opaque Config.replyEntry : List Byte → Word → List Byte

/-- The link code and ciphers of Herez flits (R473, R481): the 16 parity bytes of 240; the 240 bytes that the decoder corrects a flit to;
224 bytes of ciphertext and tag for a key, a header and a payload; and the payload of a flit of 240 bytes whose tag verifies under a
key. -/
opaque Config.fecParity : List Byte → List Byte
opaque Config.fecDecode : List Byte → List Byte
opaque Config.sealFlit : BitVec 256 → List Byte → List Byte → List Byte
opaque Config.openFlit : BitVec 256 → List Byte → Option (List Byte)

/-- What the payload of a flit carries (R473, R248): of a TOKEN flit the tokens, by core and queue, kind 3 standing for an ADVANCE; of a CTL
flit the sequence number up to which its sender has received, and whether it asks for a replay. -/
opaque Config.flitTokens : List Byte → List (Nat × Nat × BitVec 2 × Word)
opaque Config.flitControl : List Byte → Nat × Bool

/-- The wiring of the I/O dies (R256, R472, R473): the port group through which a route tag leaves the device, the virtual channel of a class
and tag, how MREQ and MRSP flits are spread by address, and the tag of the checkpoint engine. -/
opaque Config.portGroup : Nat → Nat
opaque Config.channelOf : Nat → Nat → Nat
opaque Config.spread : Nat → Nat
opaque Config.checkpointTag : Nat

end Sys2Proof
end

