-- ==== Sys2Proof/Machine/SMap.lean ====
section
/-!
DEFINITION. Maps from numbers to values, held as lists of pairs: memory bytes by address, registers by number, table
entries by slot. What an unlisted key reads as is a parameter of the operations.
A list is canonical when its keys rise strictly and it lists no default value; `set` keeps that form, so that equal maps
are equal data.
-/
namespace Sys2Proof.Machine

/-- A map from numbers to values. -/
abbrev SMap (α : Type) := List (Nat × α)

/-- The value at `n`; `dflt` where nothing is listed. -/
def SMap.get {α : Type} (dflt : α) : SMap α → Nat → α
  | [], _ => dflt
  | (k, v) :: m, n => if k = n then v else SMap.get dflt m n

/-- Lists `v` at `n`, in the place its key has. -/
def SMap.put {α : Type} : SMap α → Nat → α → SMap α
  | [], n, v => [(n, v)]
  | (k, w) :: m, n, v =>
    if n < k then (n, v) :: (k, w) :: m
    else if n = k then (n, v) :: m
    else (k, w) :: SMap.put m n v

/-- Removes what is listed at `n`. -/
def SMap.del {α : Type} (m : SMap α) (n : Nat) : SMap α := m.filter fun e => e.1 != n

/-- Stores `v` at `n`: the default value removes the entry. -/
def SMap.set {α : Type} [DecidableEq α] (dflt : α) (m : SMap α) (n : Nat) (v : α) : SMap α :=
  if v = dflt then m.del n else m.put n v

/-- The canonical form: strictly rising keys above `lo`, and no default value. -/
def SMap.wfFrom {α : Type} [DecidableEq α] (dflt : α) : Nat → SMap α → Bool
  | _, [] => true
  | lo, (k, v) :: m => lo ≤ k && v != dflt && SMap.wfFrom dflt (k + 1) m

/-- The canonical form of a map. -/
def SMap.wf {α : Type} [DecidableEq α] (dflt : α) (m : SMap α) : Bool := SMap.wfFrom dflt 0 m

/-- The keys listed. -/
def SMap.keys {α : Type} (m : SMap α) : List Nat := m.map (·.1)

end Sys2Proof.Machine
end

