-- ==== Sys2Proof/Machine/State.lean ====
section
/-!
DEFINITION. The state of the VRC4-256, every piece that the specification gives the machine, as plain data; the reasons
for which a step can stop; and the machine right after device reset (R9). Each field names the rule that gives it.
-/
namespace Sys2Proof.Machine

/-! ## Strand state -/

/-- Privilege mode of a strand (R17). -/
inductive Priv where
  | u
  | s
  deriving DecidableEq, Repr

/-- State of a strand (R18). -/
inductive Status where
  | idle
  | active
  | waiting
  | halted
  deriving DecidableEq, Repr

/-- What a WAITING strand awaits (R18). -/
inductive Wait where
  | copy (entry : Nat)
  | completion (addr : Word)
  | chain (slot : Nat)
  | buffer (w : Nat)
  | barrier (slot : Nat) (word : Word)
  | queue (q : Nat)
  | titania
  | interrupt
  deriving DecidableEq, Repr

/-- The four mode registers, 32 bits each (R101, R117). -/
structure Modes where
  i : BitVec 32
  f : BitVec 32
  m : BitVec 32
  x : BitVec 32
  deriving DecidableEq, Repr

/-- The mode registers at reset and at step entry (R43, R117). -/
def Modes.reset : Modes := { i := 0xF000, f := 0xF000, m := 0xF000, x := 0xF000 }

/-- Where a byte lies outside the tiles: a device physical address (R151), or a byte of a host window's page (R259). -/
inductive Phys where
  | dev (a : Nat)
  | host (window page offset : Nat)
  deriving DecidableEq, Repr

/-- A byte of memory or of a tile memory: byte `b` of the L0 of core `u` below 256, and of the L1 of die `u - 256` from there on. -/
inductive Spot where
  | mem (p : Phys)
  | tile (u b : Nat)
  deriving DecidableEq, Repr

/-- A byte that an ordinary store has changed: what stood there before, what was stored, the bits that the store gave, and the step
in which it was performed (R172, R184). -/
structure Unordered where
  spot : Spot
  old : Byte
  new : Byte
  mask : Byte
  tick : Nat
  deriving DecidableEq, Repr

/-- A page that a leaf of the page tables names (R259). -/
inductive PPage where
  | dev (n : Nat)
  | host (window page : Nat)
  deriving DecidableEq, Repr

/-- A leaf as a walk gives it: table root, virtual 4 KiB page, the page it maps to, and the leaf's permissions and dirty
bit (R163, R259). -/
structure Leaf where
  root : Word
  vpn : Nat
  page : PPage
  r : Bool
  w : Bool
  x : Bool
  u : Bool
  d : Bool
  deriving DecidableEq, Repr

/-- A probe register: PB and PS (R120), and the pages its live range pins, in ascending order (R121, R164). -/
structure Probe where
  base : Word
  live : Bool
  w : Bool
  r : Bool
  lenm1 : BitVec 32
  pages : List PPage
  deriving DecidableEq, Repr

/-- A probe register at reset (R120). -/
def Probe.reset : Probe := { base := 0, live := false, w := false, r := false, lenm1 := 0, pages := [] }

/-- A held-row entry (R158): `phys` is the device physical address of the row's first byte (R155), `vaddr` the first virtual
address of the last row held, `w` the write permission of the ROWOPEN's probe (R373), and `known` that the entry has held a
row in this job. -/
structure HeldRow where
  held : Bool
  epoch : BitVec 56
  retired : Bool
  vaddr : Word
  w : Bool
  phys : Nat
  known : Bool
  deriving DecidableEq, Repr

/-- A held-row entry at job start (R158). -/
def HeldRow.reset : HeldRow :=
  { held := false, epoch := 0, retired := false, vaddr := 0, w := false, phys := 0, known := false }

/-- A notice to the core monitor (R241). -/
structure Notice where
  kind : Nat
  arg : Word
  deriving DecidableEq, Repr

/-- An armed VARM watch (R375): the unit, the queue, and the value read when it was armed. -/
structure Watch where
  unit : Phys
  q : Nat
  v0 : Word
  deriving DecidableEq, Repr

/-- An exception to be taken: scause, stval, vcause, and the pages that a PAGE_FAULT lists (R86, R95, R243). -/
structure Exc where
  cause : Word
  stval : Word
  vcause : Word
  pages : List Word
  deriving DecidableEq, Repr

/-- A fault that waits for room in the fault record ring (R242): the instruction it was raised at, the timebase tick at which it
was raised (R243), and the tick from which it has waited. -/
structure HeldFault where
  pc : Word
  exc : Exc
  time : Nat
  since : Nat
  deriving DecidableEq, Repr

/-- What an ENQ, ENQC or ACOPY that waits for a free entry has read and checked, so that it reads nothing again (R260, R325, R383):
the instruction it stands at, the words it read, and where a job's completion word lies. A CTXSV or CTXLD that waits has read no
words (R328). -/
structure Request where
  pc : Word
  words : List Word
  place : Phys
  deriving DecidableEq, Repr

/-- The CSRs that a CSR instruction may write ahead of vector words still queued (R83, R84, R94, R98). -/
structure Csrs where
  sstatus : Word
  sie : Word
  stvec : Word
  scounteren : Word
  sscratch : Word
  sepc : Word
  scause : Word
  stval : Word
  ssip : Bool
  stimecmp : Word
  satp : Word
  vcause : Word
  tw : Bool
  deriving DecidableEq, Repr

/-- What program order carries through the front end: the values a vector word reads at its place in the program
(R24, R116), and what a precise trap at a word still queued gives back (R87); `scalars` is event 0x01, and `fenceE` counts the
FENCEE words before it (R181). -/
structure Front where
  x : SMap Word
  vl : BitVec 12
  vstart : BitVec 11
  modes : Modes
  instret : Word
  scalars : Word
  fenceE : Nat
  csrs : Csrs
  deriving DecidableEq, Repr

/-- A FENCE, FENCEO or FENCEX that the front end has passed and that still waits (R180, R182, R322): its pc and its place in the
program; the program position below which the strand's vector words are older than it; whether it waits for engine operations too,
those of issue order below `order`; whether it invalidates the scalar data cache once it is met; and `clean`, that every younger
instruction that has issued is undone by going back to that place, so that an interrupt can still be taken at the fence (R320). -/
structure Fence where
  pc : Word
  front : Front
  pos : Nat
  engine : Bool
  order : Nat
  inval : Bool
  clean : Bool
  deriving DecidableEq, Repr

/-- A vector word in LQ, AQ or SQ (R20, R224), with its program position (R23) and its place in the program. -/
structure Queued where
  word : Instr
  pos : Nat
  pc : Word
  front : Front
  deriving DecidableEq, Repr

/-- A strand (R81, R101, R148, R223). -/
structure Strand where
  /-- x1 to x31 (R82). -/
  x : SMap Word
  /-- Address of the next instruction (R82). -/
  pc : Word
  /-- Privilege mode (R17). -/
  priv : Priv
  /-- Strand state (R18). -/
  status : Status
  /-- What a WAITING strand awaits (R18). -/
  wait : Option Wait
  sstatus : Word
  sie : Word
  stvec : Word
  scounteren : Word
  sscratch : Word
  sepc : Word
  scause : Word
  stval : Word
  /-- SSIP, the writable bit of sip (R83). -/
  ssip : Bool
  stimecmp : Word
  satp : Word
  instret : Word
  /-- Eight flags (R89). -/
  vflags : BitVec 8
  voorva : Word
  vslip : BitVec 6
  vcause : Word
  vfrec : Word
  vshcause : Word
  vshaddr : Word
  vtsafe : Word
  /-- Pages that a registered trap-safe range pins (R99, R164). -/
  vtsafePages : List PPage
  /-- vtwin.TW (R98). -/
  tw : Bool
  /-- Slot `s` of v`r` at key 128·r + s (R102). -/
  v : SMap Word
  /-- High-water marks, 0 to 128 (R104, R105). -/
  hwm : SMap Nat
  /-- Registers whose full/empty bit is clear (R108, R109). -/
  feClear : SMap Bool
  /-- m0 to m11 (R111). -/
  m : SMap (BitVec 2048)
  vl : BitVec 12
  vstart : BitVec 11
  modes : Modes
  probes : SMap Probe
  /-- LQ, AQ and SQ, oldest first (R20, R224). -/
  lq : List Queued
  aq : List Queued
  sq : List Queued
  /-- Program position of the next vector word (R23). -/
  vpos : Nat
  /-- Registers that a variable-latency word still walks (R25). -/
  walks : List Nat
  /-- Held-row entries 0 to 7 (R158). -/
  rows : SMap HeldRow
  /-- The line an LR reserved (R172, R197, R318). -/
  resv : Option Phys
  watches : List Watch
  notices : List Notice
  /-- Translations the scalar front end holds (R85, R163). -/
  tlb : List Leaf
  /-- Event counters 0x00 to 0x0B (R279). -/
  events : SMap Word
  /-- Watchdog run and event counts (R278). -/
  wdRun : Nat
  wdEvents : Nat
  /-- At its last turn the strand was kept from issuing by a full queue, by a word that waits on a handle, or by a job queue or copy
  table without a free entry (R20, R135, R227, R237, R278). -/
  kept : Bool
  /-- The last timebase value read, which later reads never fall below (R274). -/
  lastTime : Nat
  /-- A fault of the strand that waits for room in the fault record ring (R242). -/
  fault : Option HeldFault
  /-- The FENCE, FENCEO and FENCEX words that still wait, the oldest first (R180, R182, R322). -/
  fences : List Fence
  /-- Bytes of ordinary stores that no FENCEX or RUN has yet ordered before the strand's engine operations, the latest first (R172,
  R184). -/
  stores : List Unordered
  /-- What a waiting ENQ, ENQC or ACOPY has read (R325, R383). -/
  request : Option Request
  /-- Words that strands of the running job have written, among which an undefined value lies (R10, log 9). -/
  written : List Word
  /-- The strand was started in the running step (R45). -/
  inStep : Bool
  /-- FENCEE words that the strand has executed: a copy starts only after every copy that was issued under a lower count (R181). -/
  fenceE : Nat
  /-- State of the strand stays reserved by a CTXSV (R286). -/
  ctxSaved : Bool
  /-- The strand whose CTXSV or CTXLD acts on this one (R328), and the saved rows that the CTXLD has given up (R162). -/
  heldBy : Option Nat
  giveUp : List Nat
  deriving DecidableEq, Repr

/-- A strand at device reset (R9, R83, R84, R101). -/
def Strand.reset : Strand :=
  { x := [], pc := 0, priv := .u, status := .idle, wait := none,
    sstatus := 0x200000000, sie := 0, stvec := 0, scounteren := 0, sscratch := 0, sepc := 0, scause := 0, stval := 0,
    ssip := false, stimecmp := 0xFFFFFFFFFFFFFFFF, satp := 0, instret := 0,
    vflags := 0, voorva := 0, vslip := 32, vcause := 0, vfrec := 0, vshcause := 0, vshaddr := 0,
    vtsafe := 0, vtsafePages := [], tw := false,
    v := [], hwm := [], feClear := [], m := [], vl := 0, vstart := 0, modes := .reset, probes := [],
    lq := [], aq := [], sq := [], vpos := 0, walks := [], rows := [], resv := none, watches := [], notices := [],
    tlb := [], events := [], wdRun := 0, wdEvents := 0, kept := false, lastTime := 0, fault := none, fences := [],
    stores := [], request := none, written := [], inStep := false, fenceE := 0, ctxSaved := false,
    heldBy := none, giveUp := [] }

/-! ## Tiles, buffers and queues -/

/-- State of a handle (R134). -/
inductive HState where
  | empty
  | filling
  | full
  | draining
  deriving DecidableEq, Repr

/-- A tile table entry (R258). `job` of an entry that is not allocated and whose generation is 0xFF is the job that retired
it (R132). -/
structure Tile where
  allocated : Bool
  state : HState
  gen : BitVec 8
  wc : BitVec 3
  res : BitVec 2
  rowsm1 : BitVec 16
  colsm1 : BitVec 16
  job : BitVec 32
  region : BitVec 6
  drains : BitVec 6
  base : Nat
  deriving DecidableEq, Repr

/-- A tile table entry at reset (R258). -/
def Tile.reset : Tile :=
  { allocated := false, state := .empty, gen := 0, wc := 0, res := 0, rowsm1 := 0, colsm1 := 0, job := 0, region := 0,
    drains := 0, base := 0 }

/-- State of a w buffer or of a codebook table's load (R143, R399). -/
inductive BState where
  | empty
  | filling
  | full
  deriving DecidableEq, Repr

/-- A w buffer (R142, R143): element (k, n) at key 128·k + n; the load status kept with it (R391, R392). -/
structure WBuf where
  state : BState
  elems : SMap (BitVec 16)
  scales : SMap Byte
  type : BitVec 4
  load : BitVec 2
  entry : Nat
  addr : Word
  ev : Bool
  strand : Nat
  deriving DecidableEq, Repr

/-- A w buffer at job start (R143). -/
def WBuf.reset : WBuf :=
  { state := .empty, elems := [], scales := [], type := 0, load := 0, entry := 0, addr := 0, ev := false, strand := 0 }

/-- A codebook table (R146, R399): its rows, and the load status kept with it. -/
structure Codebook where
  loaded : Bool
  filling : Bool
  rows : SMap (BitVec 32)
  load : BitVec 2
  entry : Nat
  addr : Word
  deriving DecidableEq, Repr

/-- A codebook table that no VCBLD has loaded (R146). -/
def Codebook.reset : Codebook := { loaded := false, filling := false, rows := [], load := 0, entry := 0, addr := 0 }

/-- A token: kind and payload (R202). -/
structure Token where
  kind : BitVec 2
  data : Word
  deriving DecidableEq, Repr

/-- What a queue holds, in order: element, stop and DONE tokens, and the scale tokens of the side band (R208). -/
inductive QItem where
  | tok (t : Token)
  | scale (s : BitVec 16)
  deriving DecidableEq, Repr

/-- Where the consumer of a queue stands in the fibre grammar (R217, R218) and in the pairing of scales (R209): the level
that the last token leaves (`none` at the start, `some 0` after a VAL, `some (j+1)` after a STOP of level j), whether a
STOP of level n−1 has been popped, the last coordinate and the number of VAL tokens of the innermost fibre, and the
elements left of the current block with its scale. -/
structure Grammar where
  last : Option Nat
  closed : Bool
  coord : Option Nat
  count : Nat
  left : Nat
  scale : Byte
  deriving DecidableEq, Repr

/-- The start of a stream. -/
def Grammar.reset : Grammar := { last := none, closed := false, coord := none, count := 0, left := 0, scale := 0 }

/-- A queue (R201, R204): contents from the head, DONE latch, attributes, and when
claimed the owning slot, slot n of core c as 4·c + n. -/
structure Queue where
  items : List QItem
  doneLatch : Bool
  owner : Option Nat
  d : Nat
  n : Nat
  sorted : Bool
  bound : Nat
  gram : Grammar
  /-- Watchdog run and event counts (R278). -/
  wdRun : Nat
  wdEvents : Nat
  deriving DecidableEq, Repr

/-- A free, empty queue (R204). -/
def Queue.reset : Queue :=
  { items := [], doneLatch := false, owner := none, d := 64, n := 0, sorted := false, bound := 0, gram := .reset,
    wdRun := 0, wdEvents := 0 }

/-- A token on its way over a lane link or circuit to queue `q` of the core that holds the list (R206); `slot`, in the
form of `Queue.owner`, and `node` name its producer when it is a chain node (R218), and `via` the router tag of its circuit. -/
structure Flight where
  q : Nat
  item : QItem
  slot : Option Nat
  node : Nat
  via : Option Nat
  /-- Tokens of the same run of a VPUSH that come after it (R374). -/
  rest : Nat := 0
  /-- ADVANCE words of its circuit that go ahead of it (R257). -/
  adv : Nat := 0
  /-- The core whose egress sends it, 256 for another device (R291). -/
  src : Nat := 256
  deriving DecidableEq, Repr

/-! ## Chains and stream ports -/

/-- State of a chain slot (R27). -/
inductive SlotState where
  | free
  | idle
  | spatial
  | broken
  | temporal
  deriving DecidableEq, Repr

/-- A break record (R283). -/
structure BreakRecord where
  w0 : Word
  w1 : Word
  w2 : Word
  w3 : Word
  deriving DecidableEq, Repr

/-- A cleared break record (R280). -/
def BreakRecord.reset : BreakRecord := { w0 := 0, w1 := 0, w2 := 0, w3 := 0 }

/-- A break that has begun and whose record is not yet written (R35, R284). -/
structure Breaking where
  cause : BitVec 4
  node : Nat
  queue : Nat
  vcause : Word
  stval : Word
  pages : List Word
  time : Nat
  /-- Tick since which the break's fault record waits for room in the ring (R242). -/
  since : Option Nat := none
  deriving DecidableEq, Repr

/-- What a node keeps between firings: its carried tokens and its state words (R416), and whether it has forwarded DONE to
all its outputs (R32). -/
structure NodeState where
  finished : Bool
  toks : List Token
  regs : SMap Word
  deriving DecidableEq, Repr

/-- A node at RUN. -/
def NodeState.reset : NodeState := { finished := false, toks := [], regs := [] }

/-- A chain slot (R27, R201, R245, R265, R280). -/
structure Slot where
  state : SlotState
  owner : Nat
  /-- The validated record (R246). -/
  record : List Word
  /-- Modes, VL and x values captured at CHCFG, the value of x register f for node n at key 32·n + f (R29, R250). -/
  modes : Modes
  vl : Nat
  xval : SMap Word
  brec : BreakRecord
  p : Bool
  sv : Bool
  strips : BitVec 32
  /-- Progress counters: output of queue entry e at key 2·e, input at key 2·e + 1 (R266, R288). -/
  prog : SMap Nat
  nodes : SMap NodeState
  breaking : Option Breaking
  /-- The slot enters TEMPORAL in the next cycle (R27). -/
  resume : Bool
  /-- Position of the remainder inside its pass, and whether a node has fired in it (R37, R268). -/
  passAt : Nat
  passFired : Bool
  /-- A CHRESP taken that has not yet taken effect (R38). -/
  respond : Bool
  /-- A remainder word has faulted, and the strand has not yet returned from the trap (R37). -/
  away : Bool
  /-- What the inputs, handles, buffers and tables of the chain stood at after a pass in which no node fired (R268). -/
  idleMark : List Nat
  /-- The strand ran in U mode when it configured the slot: what FXLATE translates under (R259). -/
  user : Bool
  /-- No CHWAIT has yet waited for the slot's last run (R34), and the registers and masks named by its chain, v`r` as r and m`n` as
  64 + n, that words of the strand have written since. -/
  unwaited : Bool := false
  wrote : List Nat := []
  deriving DecidableEq, Repr

/-- A free chain slot (R27). -/
def Slot.reset : Slot :=
  { state := .free, owner := 0, record := [], modes := .reset, vl := 0, xval := [], brec := .reset, p := false, sv := false,
    strips := 0, prog := [], nodes := [], breaking := none, resume := false, passAt := 0, passFired := false,
    respond := false, away := false, idleMark := [], user := true }

/-- State of a stream port (R216). -/
inductive PortState where
  | unbound
  | bound
  | active
  | ended
  deriving DecidableEq, Repr

/-- A stream port (R214, R216): descriptor, strand that bound it, and position; `stop` is a STOP due after the last
element, `elems` counts the elements moved, `gather` holds a sink's elements of the line it is gathering (R169): for each byte the bits
given and their mask, so that a 4-bit element gives its own nibble alone (R174). -/
structure Port where
  state : PortState
  desc : List Word
  strand : Nat
  i0 : Nat
  i1 : Nat
  i2 : Nat
  stop : Option Nat
  past : Bool
  gather : List (Phys × Byte × Byte)
  /-- The same for a tile: element offsets and values. -/
  gatherT : List (Nat × Nat)
  deriving DecidableEq, Repr

/-- An unbound stream port (R216). -/
def Port.reset : Port :=
  { state := .unbound, desc := [], strand := 0, i0 := 0, i1 := 0, i2 := 0, stop := none, past := false,
    gather := [], gatherT := [] }

/-! ## Copies -/

/-- State of a copy table entry (R237). -/
inductive CopyState where
  | free
  | waiting
  | active
  | suspended
  | done
  deriving DecidableEq, Repr

/-- What issued a copy (R237). -/
inductive CopyKind where
  | acopy
  | mldw (w : Nat)
  | vcbld (cb : Nat)
  deriving DecidableEq, Repr

/-- A copy table entry (R237 to R240): the command's words and the probe pages that its addresses go through; bytes already
moved, poisoned lines written, status 0 OK, 1 CANCELLED, 2 ERROR, address of the failing beat, issue order. `after` counts
the FENCEE words before it (R181), `srcHeld` and `idxHeld` say that the copy drains its source and its index
tile (R136), and `arrived` that the arrival token of its target has been emitted (R138). The command is followed by PB and PS of
its source and of its destination probe. -/
structure Copy where
  state : CopyState
  kind : CopyKind
  cmd : List Word
  strand : Nat
  order : Nat
  offset : Nat
  moved : Nat
  poisoned : Nat
  status : BitVec 2
  addr : Word
  beatsDone : Bool
  arrived : Bool
  srcHeld : Bool
  idxHeld : Bool
  after : Nat
  srcPages : List PPage
  dstPages : List PPage
  lines : SMap Bool
  /-- The index of the record under way, which its first beat has read (R384). -/
  index : Option Nat
  deriving DecidableEq, Repr

/-- A free copy table entry (R237). -/
def Copy.reset : Copy :=
  { state := .free, kind := .acopy, cmd := [], strand := 0, order := 0, offset := 0, moved := 0, poisoned := 0, status := 0,
    addr := 0, beatsDone := false, arrived := false, srcHeld := false, idxHeld := false, after := 0, srcPages := [],
    dstPages := [], lines := [], index := none }

/-! ## Cores and dies -/

/-- A core (R81, R124, R201, R223, R265). Its strands stand in `State.strands`. -/
structure Core where
  /-- The region the core belongs to (R39). -/
  region : Option Nat
  jobid : BitVec 32
  seq : BitVec 32
  /-- Instruction cache: the line at each device physical line number, as fetched (R85, R185). -/
  icache : SMap (BitVec 512)
  /-- Scalar data cache, in the same form (R172, R185). -/
  dcache : SMap (BitVec 512)
  /-- L0 tile memory by line, and its poisoned lines (R124, R125, R129). -/
  l0 : SMap (BitVec 512)
  l0poison : SMap Bool
  /-- L0 tile table, slots 0 to 0x7FF (R130, R258). -/
  tiles : SMap Tile
  wbufs : SMap WBuf
  cbs : SMap Codebook
  queues : SMap Queue
  slots : SMap Slot
  ports : SMap Port
  copies : SMap Copy
  copyOrder : Nat
  flights : List Flight
  /-- Core event counters 0x10 to 0x15 (R279). -/
  events : SMap Word
  /-- Watchdog counts of circuit endpoints, run count at 2·q and event count at 2·q + 1 (R278). -/
  circuits : SMap Nat
  /-- Step-entry values a0 to a3 of the running step, and at 4 its kernel entry (R43, R330). -/
  args : SMap Word
  /-- Core clock cycles since reset (R83). -/
  cycle : Nat
  /-- The address of the running step's record (R43, R44). -/
  record : Option Phys
  /-- The strand the sequencer admitted last (R23). -/
  lastAdmit : Nat
  /-- The limiter in force at the core's input ports, T and W, their window count, which is the same for each of them, and the VAL
  tokens that each has admitted in this window (R236, R273). -/
  limit : Option (Nat × Nat)
  window : Nat
  admitted : SMap Nat
  deriving DecidableEq, Repr

/-- A core at device reset. -/
def Core.reset : Core :=
  { region := none, jobid := 0, seq := 0, icache := [], dcache := [], l0 := [], l0poison := [], tiles := [],
    wbufs := [], cbs := [], queues := [], slots := [], ports := [], copies := [], copyOrder := 0, flights := [], events := [],
    circuits := [], args := [], cycle := 0, record := none, lastAdmit := 0, limit := none, window := 0, admitted := [] }

/-- A compute die (R124, R242, R163, R466). -/
structure Die where
  l1 : SMap (BitVec 512)
  l1poison : SMap Bool
  /-- L1 tile table, slot number less 0x800 (R130). -/
  tiles : SMap Tile
  /-- Write and read index of the fault record ring, counted without wrap (R242). -/
  ringW : Nat
  ringR : Nat
  /-- Leaves the die's translation walker holds (R163). -/
  walker : List Leaf
  /-- Core clock in MHz (R466, R484). -/
  clock : Nat
  deriving DecidableEq, Repr

/-- A die at device reset. -/
def Die.reset : Die := { l1 := [], l1poison := [], tiles := [], ringW := 0, ringR := 0, walker := [], clock := 1600 }

/-! ## Regions and jobs -/

/-- Kind of a controller tree node (R41, R262). -/
inductive TreeKind where
  | seq
  | pipe
  | stream
  | leaf
  deriving DecidableEq, Repr

/-- A nest block (R264). -/
structure Nest where
  depth : Nat
  bounds : List Nat
  steps : List Nat
  deriving DecidableEq, Repr

/-- A tree node of a job record (R262). -/
structure TreeNode where
  kind : TreeKind
  nchild : Nat
  first : Nat
  entry : Word
  coreFirst : Nat
  coreCount : Nat
  nest : Nest
  deriving DecidableEq, Repr

/-- The loop-nest walker of one leaf: level counters and step counter (R269); whether a step runs, and whether the leaf has
completed. -/
structure Walker where
  c : List Nat
  s : Nat
  running : Bool
  complete : Bool
  deriving DecidableEq, Repr

/-- A walker before its leaf starts. -/
def Walker.reset : Walker := { c := [], s := 0, running := false, complete := false }

/-- State of a job (R226). -/
inductive JobState where
  | queued
  | ready
  | running
  | stopping
  | done
  deriving DecidableEq, Repr

/-- How a selected job goes on (R234, R271). -/
inductive Resume where
  | fresh
  | boundary
  | frozen
  deriving DecidableEq, Repr

/-- A job (R40, R226, R260): its record, its place in the queue and its run state. -/
structure Job where
  region : Nat
  state : JobState
  prio : Nat
  eclass : Nat
  drop : Bool
  poisonTrap : Bool
  /-- Predecessor i admits this job as a successor (R260). -/
  sa : List Bool
  quota : Nat
  quantum : Nat
  done : Word
  donePlace : Phys
  args : Word
  stack : Word
  ssize : Nat
  limT : Nat
  limW : Nat
  /-- Virtual addresses of the predecessors' completion words, under the tables of `root`; 0 for none. -/
  preds : List Word
  root : Word
  tagBase : Nat
  tagCount : Nat
  hostScope : Bool
  tree : List TreeNode
  walkers : SMap Walker
  passes : Nat
  admitted : Nat
  reserve : Nat
  timer : Nat
  hint : Bool
  issuer : BitVec 32
  /-- Rows that a step-boundary stop released under SAVE and that are not yet open again, row i of strand k of core c at key
  8·(4·c + k) + i (R161, R234). -/
  reopen : SMap HeldRow
  /-- The job holds a reserved entry of its queue (R223, R227). -/
  reservedEntry : Bool
  resume : Resume
  /-- Tick at which the grace of a STOPPING job ends (R234). -/
  grace : Nat
  /-- State saved by a step-boundary stop or a freeze-scan (R234, R292). -/
  savedCores : SMap Core
  savedStrands : SMap Strand
  deriving DecidableEq, Repr

/-- The line that strand `strand` of a stopped or frozen job has reserved (R197). -/
structure SavedResv where
  job : Nat
  strand : Nat
  line : Phys
  deriving DecidableEq, Repr

/-- A region (R39) with its contexts on the region controllers: cores in order, tenant, page table root, running job, the limiter that
its job record or the last RLIMSET asks for, which each input port takes at its next window boundary (R236, R273, R333), freeze
(R292). -/
structure Region where
  cores : List Nat
  tenant : Nat
  satp : Word
  running : Option (BitVec 32)
  limit : Option (Nat × Nat)
  frozen : Bool
  /-- Containment resets that take effect when a checkpoint restores the region (R486). -/
  resets : List ResetTarget
  deriving DecidableEq, Repr

/-! ## The device and its surroundings -/

/-- A row slot of a bank (R155): the block it holds and its refresh-break count (R276). -/
structure RowSlot where
  block : Option Nat
  breaks : BitVec 16
  deriving DecidableEq, Repr

/-- A free row slot. -/
def RowSlot.reset : RowSlot := { block := none, breaks := 0 }

/-- The keys at which two maps differ, with what each lists there. -/
abbrev Diff (α : Type) := List (Nat × Option α × Option α)

/-- What a word of strand `key` at program position `pos` has changed ahead of older vector words of the strand that are still queued, so
that a precise trap at one of them can undo it (R87): slots, marks, full/empty bits, masks, flags, probes and held rows of the strand and
the watches that it has armed; tables, L0, queues, slots and ports of its core; the L1 tables and lines of its die; memory by tier address;
row slots, pins, jobs, and the other strands. -/
structure Undo where
  key : Nat
  pos : Nat
  v : Diff Word
  hwm : Diff Nat
  feClear : Diff Bool
  m : Diff (BitVec 2048)
  flags : BitVec 8
  probes : Diff Probe
  rows : Diff HeldRow
  watches : List Watch
  tiles : Diff Tile
  wbufs : Diff WBuf
  cbs : Diff Codebook
  queues : Diff Queue
  slots : Diff Slot
  ports : Diff Port
  copies : Diff Copy
  l0 : Diff (BitVec 512)
  l1tiles : Diff Tile
  l1 : Diff (BitVec 512)
  fast : Diff Byte
  cap : Diff Byte
  rowSlots : Diff RowSlot
  pins : Diff Nat
  jobs : Diff (Option Job)
  strands : Diff Strand
  deriving DecidableEq, Repr

/-- A device window of a host port (R468, R481). -/
structure DevWindow where
  base : Nat
  page : Nat
  pages : Nat
  /-- The IDE stream of a TDISP binding. -/
  stream : Option Nat
  deriving DecidableEq, Repr

/-- A host window (R469): the host port it is bound to and its size in pages. -/
structure HostWindow where
  port : Nat
  pages : Nat
  deriving DecidableEq, Repr

/-- A fabric window (R476). -/
structure FabricWindow where
  tag : Nat
  page : Nat
  pages : Nat
  deriving DecidableEq, Repr

/-- A client message channel (R470): the tail its doorbell holds and the entries Titania has read. -/
structure Channel where
  tail : Nat
  head : Nat
  deriving DecidableEq, Repr

/-- State of a Herez port (R466, R475). -/
inductive PortLink where
  | up
  | retrain
  | down
  deriving DecidableEq, Repr

/-- A flit in a link retry buffer: link sequence number, class, route tag, the phase it left under, and its payload (R473). -/
structure SentFlit where
  seq : Nat
  cls : Nat
  tag : Nat
  phase : Nat
  data : List Byte
  deriving DecidableEq, Repr

/-- A Herez port: state, flits dropped since it last trained, the link sequence numbers next received and next sent, and the link retry
buffer, the oldest flit first (R473, R475). -/
structure Herez where
  link : PortLink
  drops : Nat
  nextSeq : Nat
  sendSeq : Nat := 0
  retry : List SentFlit := []
  deriving DecidableEq, Repr

/-- A Herez port at reset: its link has not trained yet. -/
def Herez.reset : Herez := { link := .retrain, drops := 0, nextSeq := 0, sendSeq := 0, retry := [] }

/-- Where Onyx stands in the boot (R477, R478): `last` is the interval in seconds before this fetch, 0 before the first. -/
inductive Boot where
  | fetching (last : Nat)
  | backoff (seconds : Nat)
  | running (imageVersion : BitVec 32)
  deriving DecidableEq, Repr

/-- How far a checkpoint has got (R482). -/
inductive Checkpoint where
  | none
  | copying
  | restoring
  deriving DecidableEq, Repr

/-- What the cores, the regions and the tables of the device hold besides DRAM: what freeze-scans read out into the save areas (R292), and
what Titania keeps of its tables. -/
structure Saved where
  strands : SMap Strand
  cores : SMap Core
  dies : SMap Die
  interleave : SMap (Word × Word)
  lend : SMap (BitVec 16)
  rowSlots : SMap RowSlot
  pins : SMap Nat
  denied : List Nat
  tags : SMap Word
  phases : SMap Nat
  advSent : SMap Nat
  advPassed : SMap Nat
  phaseLost : SMap Nat
  bound : SMap Nat
  regions : SMap (Option Region)
  jobs : SMap (Option Job)
  savedResv : List SavedResv
  draws : List Nat
  placed : List (Nat × Nat)
  backing : SMap (List (BitVec 512 × Bool))
  deriving DecidableEq, Repr

/-- A checkpoint image in the safe tier (R482): both tiers with the markers of their poisoned lines, the wrapped key slots, and the save
areas. -/
structure Image where
  tick : Nat
  fast : SMap Byte
  cap : SMap Byte
  poisonFast : SMap Bool
  poisonCap : SMap Bool
  keys : List Byte
  saved : Saved
  deriving DecidableEq, Repr

/-- What Encke reads out of a frozen device (R295): the tiers as stored and their poisoned lines, all that the cores, the regions and the
tables hold, the error counters (R277), and the state at the device's boundary that is not Onyx's own. -/
structure ReadOut where
  time : Nat
  fast : SMap Byte
  cap : SMap Byte
  poisonFast : SMap Bool
  poisonCap : SMap Bool
  saved : Saved
  undos : List Undo
  errs : SMap Nat
  account : Int
  powerCap : Nat
  temp : Nat
  derate : Nat
  powerLimited : Bool
  devWindows : SMap (Option DevWindow)
  hostWindows : SMap (Option HostWindow)
  hostMaps : List (Nat × Option HostWindow)
  fabricWindows : SMap (Option FabricWindow)
  channels : SMap Channel
  hostDown : SMap Bool
  herez : SMap Herez
  checkpoint : Checkpoint
  deriving DecidableEq, Repr

/-- What leaves the device, in the order it was sent. -/
inductive Output where
  | hostCompletion (port : Nat) (data : List Byte)
  | unsupportedRequest (port : Nat)
  | requestRetry (port : Nat)
  | spdm (port : Nat) (data : List Byte)
  | telemetry (kind unit tick : Nat) (args : List Nat)
  | flit (port : Nat) (data : List Byte)
  | checkpoint (ports : List Nat) (image : Image)
  | hostWrite (window page offset : Nat) (data : List Byte)
  | monitorCall (core strand : Nat)
  | linkRetrain (port : Nat)
  | readOut (r : ReadOut)
  deriving DecidableEq, Repr

/-- Who acts in a step: a strand, or the node of a chain slot whose word fires. -/
inductive Agent where
  | strand (core k : Nat)
  | node (core slot n : Nat)
  deriving DecidableEq, Repr

/-- Which agent acts in one step: a strand, a fibre node, or an event. -/
inductive Turn where
  | strand (core k : Nat)
  | node (core slot n : Nat)
  | event (e : Instr)
  deriving DecidableEq, Repr

/-- Why the model stops. -/
inductive Fault where
  /-- Raised by an access whose device physical address lies in no valid interleave entry. R152 says that Titania's page
  tables never map such an address, so no conforming run reaches it: the stop is safe. -/
  | unplacedAddress (a : Nat)
  deriving DecidableEq, Repr

/-- Why the model gives an instruction no meaning. -/
inductive Refusal where
  /-- Raised by an arm of `exec` whose instruction has no meaning in the model yet: the stop is safe. -/
  | notModelled (mnemonic : String)
  deriving DecidableEq, Repr

/-- The device. -/
structure State where
  /-- The order in which agents act from here on; empty lets the model's own schedule choose. -/
  turns : List Turn
  /-- Who acts now. -/
  agent : Agent
  /-- Counter that the free values are taken at. -/
  tick : Nat
  /-- What words that went ahead of older vector words have changed, the latest first (R87). -/
  undos : List Undo
  /-- Set when an access met an address that does not exist; the step then stops. -/
  stop : Option Fault
  /-- Global timebase, in ticks (R274). -/
  time : Nat
  /-- Strand k of core c at key 4·c + k (R16). -/
  strands : SMap Strand
  cores : SMap Core
  dies : SMap Die
  /-- The fast and the capacity tier by tier address (R149), and their poisoned lines (R168). -/
  fast : SMap Byte
  cap : SMap Byte
  poisonFast : SMap Bool
  poisonCap : SMap Bool
  /-- Interleave entries 0 to 31 (R151). -/
  interleave : SMap (Word × Word)
  /-- Channel lending table (R154). -/
  lend : SMap (BitVec 16)
  /-- Row slot i of bank b at key 4·b + i (R155). -/
  rowSlots : SMap RowSlot
  /-- Page pins: device page n at key 2·n, page p of host window w at key 2·(2^32·w + p) + 1 (R164). -/
  pins : SMap Nat
  /-- Device physical pages that Titania's physical protection denies to the cores (R86, R163). -/
  denied : List Nat
  /-- Router tag tables: phase f of tag t of router r at key 2048·r + 8·t + f (R256); phase pointers at 256·r + t. -/
  tags : SMap Word
  phases : SMap Nat
  /-- ADVANCE words that the sending end of tag t has emitted, and those that have left router r, at 256·r + t (R257); the tick
  since which the pointers of a tag are undefined, plus one. -/
  advSent : SMap Nat
  advPassed : SMap Nat
  phaseLost : SMap Nat
  /-- The port of its group on which flits of tag t leave the device under phase f, at 8·t + f: CHCFG binds a circuit to one (R256,
  R475). -/
  bound : SMap Nat
  regions : SMap (Option Region)
  jobs : SMap (Option Job)
  /-- Reservations of strands that a stopped or frozen job keeps, which a write to their line ends (R172, R197, R234, R292). -/
  savedResv : List SavedResv
  /-- Energy account in µJ (R233), power cap, hottest temperature in °C and DERATE (R483). -/
  account : Int
  powerCap : Nat
  temp : Nat
  derate : Nat
  powerLimited : Bool
  /-- Regions whose selection waits for the energy account, in the order of their requests (R233). -/
  draws : List Nat
  /-- Files whose shared .data stands in memory, each with the tenant that has loaded it (R452). -/
  placed : List (Nat × Nat)
  /-- Device windows of port p at key 256·p + i, host windows, fabric windows, client channels (R466). -/
  devWindows : SMap (Option DevWindow)
  hostWindows : SMap (Option HostWindow)
  /-- Changes of host windows that wait for a pinned page, none standing for an unmap (R469). -/
  hostMaps : List (Nat × Option HostWindow)
  fabricWindows : SMap (Option FabricWindow)
  channels : SMap Channel
  /-- Host ports whose link is down: for good, or, false, while it trains after a reset (R469, R486). -/
  hostDown : SMap Bool
  herez : SMap Herez
  /-- Onyx's key slots, link keys, measurement registers and fused security version (R466). -/
  keySlots : SMap (BitVec 512)
  linkKeys : SMap (BitVec 256 × BitVec 256)
  measurements : SMap (BitVec 384)
  securityVersion : BitVec 32
  boot : Boot
  /-- Encke freeze state, with the source of the freeze (R295). -/
  frozen : Option FreezeSource
  checkpoint : Checkpoint
  /-- The checkpoint images that the safe tier holds, which lies outside the device (R482). -/
  images : List Image
  /-- Error counters (R277), by counter kind and unit. -/
  errs : SMap Nat
  /-- Contents of evicted tiles, which Titania keeps in its DRAM backing (R140). -/
  backing : SMap (List (BitVec 512 × Bool))
  out : List Output
  deriving DecidableEq, Repr

/-- The machine right after device reset. -/
def State.reset : State :=
  { turns := [], agent := .strand 0 0, tick := 0, undos := [], stop := none, time := 0, strands := [], cores := [],
    dies := (List.range 4).map fun d => (d, Die.reset),
    fast := [], cap := [], poisonFast := [], poisonCap := [], interleave := [], lend := [], rowSlots := [], pins := [],
    denied := [], tags := [], phases := [], advSent := [], advPassed := [], phaseLost := [], bound := [], regions := [], jobs := [], savedResv := [], account := 2400000, powerCap := 2400,
    temp := 25, derate := 0, powerLimited := false, draws := [], placed := [], devWindows := [], hostWindows := [], hostMaps := [],
    fabricWindows := [], channels := [], hostDown := [], herez := [], keySlots := [], linkKeys := [], measurements := [],
    securityVersion := 0, boot := .fetching 0, frozen := none, checkpoint := .none, images := [], errs := [], backing := [], out := [] }

end Sys2Proof.Machine
end

