-- ==== Sys2Proof/Machine/Numbers.lean ====
section
/-!
DEFINITION. Element types, number formats, exact values and the one rounding of a result (R51 to R60, R64 to R66).
An element is held as the natural number of its bits. An exact finite value is a sign, a magnitude and a binary exponent.
-/
namespace Sys2Proof.Machine

/-! ## Element types -/

/-- WIDTH(t): width in bits of type code `t`; 64 for ACC40 (R51, R54, R58, R300). -/
def width (t : BitVec 4) : Nat :=
  match t.toNat with
  | 0 | 4 | 8 | 9 => 8
  | 1 | 5 | 11 | 12 => 16
  | 2 | 6 | 13 => 32
  | 10 => 4
  | _ => 64

/-- LW(t): 40 for ACC40 and WIDTH(t) otherwise (R335). -/
def lwidth (t : BitVec 4) : Nat := if t = 0xF then 40 else width t

/-- VLMAX(t) (R102). -/
def vlmax (t : BitVec 4) : Nat := 8192 / width t

/-- Integer types are signed below 0x4, and ACC40 read as INT40 is (R51). -/
def isSigned (t : BitVec 4) : Bool := t.toNat < 4 || t = 0xF

/-- INT8 to UINT64. -/
def isInt8to64 (t : BitVec 4) : Bool := t.toNat < 8

/-- The set I of R335: the integer types, and ACC40 read as INT40. -/
def isI (t : BitVec 4) : Bool := t.toNat < 8 || t = 0xF

/-- The set F of R335: BF16, FP16, FP32, FP64, and ACC40 read as FP40. -/
def isF (t : BitVec 4) : Bool := 11 ≤ t.toNat

/-- The set FA of R335: F with FP8E4M3, FP8E5M2 and FP4E2M1. -/
def isFA (t : BitVec 4) : Bool := 8 ≤ t.toNat

/-- The value of the bits `r` of an element of integer type `t` (R51). -/
def intVal (t : BitVec 4) (r : Nat) : Int :=
  let w := lwidth t
  let u := r % 2 ^ w
  if isSigned t && 2 ^ (w - 1) ≤ u then (u : Int) - (2 ^ w : Nat) else u

/-- The bits of an integer in `w` bits (R51). -/
def intBits (w : Nat) (x : Int) : Nat := (x % (2 ^ w : Nat)).toNat

/-- Least value of integer type `t`. -/
def intMin (t : BitVec 4) : Int := if isSigned t then -(2 ^ (lwidth t - 1) : Nat) else 0

/-- Greatest value of integer type `t`. -/
def intMax (t : BitVec 4) : Int :=
  if isSigned t then (2 ^ (lwidth t - 1) : Nat) - 1 else (2 ^ lwidth t : Nat) - 1

/-! ## The flags of vflags (R89) -/

/-- Eight sticky flags. -/
abbrev FlagSet := BitVec 8

def flagNX : FlagSet := 0x01
def flagUF : FlagSet := 0x02
def flagOF : FlagSet := 0x04
def flagDZ : FlagSet := 0x08
def flagNV : FlagSet := 0x10
def flagSAT : FlagSet := 0x20
def flagOOR : FlagSet := 0x40
def flagPSN : FlagSet := 0x80

/-- `f` when `c` holds, no flag otherwise. -/
def flagIf (c : Bool) (f : FlagSet) : FlagSet := if c then f else 0

/-! ## Floating-point formats (R54, R57) -/

/-- How a format uses its greatest exponent field. -/
inductive FKind where
  | ieee
  | e4m3
  | e2m1
  deriving DecidableEq, Repr

/-- A floating-point format: width, exponent bits, fraction bits, bias. -/
structure Fmt where
  w : Nat
  eb : Nat
  fb : Nat
  bias : Int
  kind : FKind
  deriving DecidableEq, Repr

/-- The format of a floating type code; FP40 for ACC40 (R54). -/
def fmt (t : BitVec 4) : Fmt :=
  match t.toNat with
  | 8 => { w := 8, eb := 4, fb := 3, bias := 7, kind := .e4m3 }
  | 9 => { w := 8, eb := 5, fb := 2, bias := 15, kind := .ieee }
  | 10 => { w := 4, eb := 2, fb := 1, bias := 1, kind := .e2m1 }
  | 11 => { w := 16, eb := 8, fb := 7, bias := 127, kind := .ieee }
  | 12 => { w := 16, eb := 5, fb := 10, bias := 15, kind := .ieee }
  | 13 => { w := 32, eb := 8, fb := 23, bias := 127, kind := .ieee }
  | 14 => { w := 64, eb := 11, fb := 52, bias := 1023, kind := .ieee }
  | _ => { w := 40, eb := 8, fb := 31, bias := 127, kind := .ieee }

/-- FP40, the format of the matrix sums (R58, R72). -/
def fp40 : Fmt := { w := 40, eb := 8, fb := 31, bias := 127, kind := .ieee }

/-- What the bits of an element stand for: `num neg m e` is (−1)^neg · m · 2^e (R55). -/
inductive FVal where
  | nan (signalling : Bool)
  | inf (neg : Bool)
  | num (neg : Bool) (m : Nat) (e : Int)
  deriving DecidableEq, Repr

/-- Sign, exponent field and fraction field of an encoding. -/
def fields (f : Fmt) (r : Nat) : Bool × Nat × Nat :=
  (r / 2 ^ (f.w - 1) % 2 == 1, r / 2 ^ f.fb % 2 ^ f.eb, r % 2 ^ f.fb)

/-- The value of an encoding (R55 to R57). -/
def fdecode (f : Fmt) (r : Nat) : FVal :=
  let (s, e, m) := fields f r
  let top := 2 ^ f.eb - 1
  if f.kind = .ieee ∧ e = top then
    if m = 0 then .inf s else .nan (m / 2 ^ (f.fb - 1) % 2 == 0)
  else if f.kind = .e4m3 ∧ e = top ∧ m = 7 then .nan false
  else if e = 0 then .num s m (1 - f.bias - f.fb)
  else .num s (m + 2 ^ f.fb) ((e : Int) - f.bias - f.fb)

/-- The sign bit of a format. -/
def signBit (f : Fmt) (neg : Bool) : Nat := if neg then 2 ^ (f.w - 1) else 0

/-- The default NaN (R59); FP4E2M1 has none and takes +0 (R66). -/
def defaultNaN (f : Fmt) : Nat :=
  match f.kind with
  | .ieee => (2 ^ f.eb - 1) * 2 ^ f.fb + 2 ^ (f.fb - 1)
  | .e4m3 => 0x7F
  | .e2m1 => 0

/-- The encoding of the greatest finite magnitude (R54). -/
def greatest (f : Fmt) : Nat :=
  match f.kind with
  | .ieee => (2 ^ f.eb - 1) * 2 ^ f.fb - 1
  | .e4m3 => 0x7E
  | .e2m1 => 0x7

/-- The encoding of an infinity, in a format that has one. -/
def infBits (f : Fmt) (neg : Bool) : Nat := signBit f neg + (2 ^ f.eb - 1) * 2 ^ f.fb

/-- A result: the bits of an element and the flags it sets. -/
abbrev Res := Nat × FlagSet

/-! ## Rounding (R64, R65, R69) -/

/-- Rounds m / 2^s to a natural number under rounding code `rnd`, for a value of sign `neg`; second, whether it is inexact. -/
def roundShift (rnd : BitVec 3) (neg : Bool) (m s : Nat) : Nat × Bool :=
  let hi := m / 2 ^ s
  let rem := m % 2 ^ s
  let up : Bool :=
    match rnd.toNat with
    | 0 => 2 ^ s < 2 * rem || (2 ^ s == 2 * rem && hi % 2 == 1)
    | 1 => false
    | 2 => neg && rem != 0
    | 3 => !neg && rem != 0
    | _ => rem != 0 && 2 ^ s ≤ 2 * rem
  (if up then hi + 1 else hi, rem != 0)

/-- Rounds m · 2^e to a multiple of 2^q: the multiple, and whether it is inexact. -/
def roundAt (rnd : BitVec 3) (neg : Bool) (m : Nat) (e q : Int) : Nat × Bool :=
  if q ≤ e then (m * 2 ^ (e - q).toNat, false) else roundShift rnd neg m (q - e).toNat

/-- Delivery of an overflowed result (R65). -/
def overflow (f : Fmt) (rnd : BitVec 3) (sat neg : Bool) : Res :=
  let s := signBit f neg
  match f.kind with
  | .e2m1 => (s + greatest f, flagOF ||| flagNX ||| flagSAT)
  | .e4m3 =>
    if sat then (s + greatest f, flagOF ||| flagNX ||| flagSAT) else (defaultNaN f, flagOF ||| flagNX)
  | .ieee =>
    if sat then (s + greatest f, flagOF ||| flagNX ||| flagSAT)
    else
      let toInf : Bool :=
        match rnd.toNat with
        | 1 => false
        | 2 => neg
        | 3 => !neg
        | _ => true
      (if toInf then infBits f neg else s + greatest f, flagOF ||| flagNX)

/-- ROUND: the exact nonzero value (−1)^neg · m · 2^e rounded once to format `f`, with its flags; a zero keeps its sign.
The quantum of the value with unbounded exponent decides overflow and tininess (R65, R69); the delivered quantum is never
below that of the subnormals. -/
def fround (f : Fmt) (rnd : BitVec 3) (sat neg : Bool) (m : Nat) (e : Int) : Res :=
  if m = 0 then (signBit f neg, 0)
  else
    let emin : Int := 1 - f.bias
    let ex : Int := e + Nat.log2 m
    let q := ex - f.fb
    let (n, _) := roundAt rnd neg m e q
    let g := greatest f
    let gm := g % 2 ^ f.fb + 2 ^ f.fb
    let gq : Int := (g / 2 ^ f.fb : Nat) - f.bias - f.fb
    -- the rounded value n · 2^q against the greatest finite gm · 2^gq, and against the least normal 2^emin
    let tooBig : Bool := if gq ≤ q then gm < n * 2 ^ (q - gq).toNat else gm * 2 ^ (gq - q).toNat < n
    if tooBig then overflow f rnd sat neg
    else
      let tiny : Bool := if emin ≤ q then n == 0 else n < 2 ^ (emin - q).toNat
      let qd := max q (emin - f.fb)
      let (d, inexact) := roundAt rnd neg m e qd
      -- d counts quanta 2^qd: below 2^fb a subnormal, and from 2^fb on the exponent field counts on from it
      let bits := d + (qd - (emin - f.fb)).toNat * 2 ^ f.fb
      (signBit f neg + bits, flagIf inexact flagNX ||| flagIf (tiny && inexact) flagUF)

/-- The sum of two exact values as sign, magnitude and exponent; the sign of an exact zero sum is the caller's. -/
def exactAdd (n1 : Bool) (m1 : Nat) (e1 : Int) (n2 : Bool) (m2 : Nat) (e2 : Int) : Bool × Nat × Int :=
  let e := min e1 e2
  let a : Int := (m1 * 2 ^ (e1 - e).toNat : Nat)
  let b : Int := (m2 * 2 ^ (e2 - e).toNat : Nat)
  let s := (if n1 then -a else a) + (if n2 then -b else b)
  (decide (s < 0), s.natAbs, e)

/-- The greatest natural number whose square is at most `n`, bit by bit from 2^k. -/
def isqrtFrom (n : Nat) : Nat → Nat → Nat
  | 0, r => r
  | k + 1, r =>
    let r' := r + 2 ^ k
    isqrtFrom n k (if r' * r' ≤ n then r' else r)

/-- Integer square root. -/
def isqrt (n : Nat) : Nat := isqrtFrom n (Nat.log2 n / 2 + 1) 0

/-- SAT: an exact integer fitted once to integer type `t` (R52). -/
def fitInt (t : BitVec 4) (sat : Bool) (x : Int) : Res :=
  if sat then
    if x < intMin t then (intBits (lwidth t) (intMin t), flagSAT)
    else if intMax t < x then (intBits (lwidth t) (intMax t), flagSAT)
    else (intBits (lwidth t) x, 0)
  else (intBits (lwidth t) x, 0)

/-- RNDINT: the exact value x / 2^n rounded to an integer (R64, R68). -/
def rndInt (rnd : BitVec 3) (x : Int) (n : Nat) : Int :=
  let r := (roundShift rnd (decide (x < 0)) x.natAbs n).1
  if x < 0 then -(r : Int) else r

end Sys2Proof.Machine
end

