-- ==== Sys2Proof/Machine/Flags.lean ====
section
/-!
DEFINITION. Every arithmetic result with the flags it sets in vflags (R52, R53, R59, R60, R65 to R69, R71 to R80).
Each function takes the bits of its operands and gives the bits of its result with a flag set (`Res`).
-/
namespace Sys2Proof.Machine

/-! ## Integer division (R53) -/

/-- VDIV of elements `a`, `b` of integer type `t`: toward zero; by zero all ones with DZ; minimum by −1 fitted (R53). -/
def intDiv (t : BitVec 4) (sat : Bool) (a b : Nat) : Res :=
  let x := intVal t a
  let y := intVal t b
  if y = 0 then (2 ^ lwidth t - 1, flagDZ) else fitInt t sat (Int.tdiv x y)

/-- VREM: the dividend with DZ for a zero divisor; otherwise the remainder, with the sign of the dividend (R53, R342). -/
def intRem (t : BitVec 4) (a b : Nat) : Res :=
  let x := intVal t a
  let y := intVal t b
  if y = 0 then (intBits (lwidth t) x, flagDZ) else (intBits (lwidth t) (Int.tmod x y), 0)

/-! ## Floating values -/

/-- The value with its sign inverted. -/
def FVal.negate : FVal → FVal
  | .nan s => .nan s
  | .inf n => .inf !n
  | .num n m e => .num (!n) m e

/-- A signalling NaN: an operand that sets NV (R60). -/
def FVal.isSnan : FVal → Bool
  | .nan s => s
  | _ => false

/-- Any NaN. -/
def FVal.isNan : FVal → Bool
  | .nan _ => true
  | _ => false

/-- The exact product; `nan true` stands for 0 · ∞, which sets NV as a signalling NaN does (R69). -/
def FVal.mul : FVal → FVal → FVal
  | .nan s, .nan s' => .nan (s || s')
  | .nan s, _ => .nan s
  | _, .nan s => .nan s
  | .inf n, .inf n' => .inf (n != n')
  | .inf n, .num n' m _ => if m = 0 then .nan true else .inf (n != n')
  | .num n m _, .inf n' => if m = 0 then .nan true else .inf (n != n')
  | .num n m e, .num n' m' e' => .num (n != n') (m * m') (e + e')

/-- The exact sum of two values; ∞ − ∞ is `nan true`. An exact zero sum of opposite signs is +0, and −0 under RDN (R71). -/
def FVal.add (rnd : BitVec 3) : FVal → FVal → FVal
  | .nan s, .nan s' => .nan (s || s')
  | .nan s, _ => .nan s
  | _, .nan s => .nan s
  | .inf n, .inf n' => if n = n' then .inf n else .nan true
  | .inf n, .num .. => .inf n
  | .num .., .inf n => .inf n
  | .num n m e, .num n' m' e' =>
    let (neg, s, e'') := exactAdd n m e n' m' e'
    if s = 0 then .num (if n = n' then n else rnd == 2) 0 e'' else .num neg s e''

/-- Delivers an exact value in format `f`, rounded once (R59, R60, R65). -/
def fdeliver (f : Fmt) (rnd : BitVec 3) (sat : Bool) : FVal → Res
  | .nan s => (defaultNaN f, flagIf s flagNV)
  | .inf n => (infBits f n, 0)
  | .num n m e => fround f rnd sat n m e

/-- VFADD (R349). -/
def fadd (f : Fmt) (rnd : BitVec 3) (sat : Bool) (a b : Nat) : Res :=
  fdeliver f rnd sat ((fdecode f a).add rnd (fdecode f b))

/-- VFSUB (R349). -/
def fsub (f : Fmt) (rnd : BitVec 3) (sat : Bool) (a b : Nat) : Res :=
  fdeliver f rnd sat ((fdecode f a).add rnd (fdecode f b).negate)

/-- VFMUL (R349). -/
def fmul (f : Fmt) (rnd : BitVec 3) (sat : Bool) (a b : Nat) : Res :=
  fdeliver f rnd sat ((fdecode f a).mul (fdecode f b))

/-- VFMAC: D + A·B with one rounding (R350). -/
def fmac (f : Fmt) (rnd : BitVec 3) (sat : Bool) (d a b : Nat) : Res :=
  fdeliver f rnd sat ((fdecode f d).add rnd ((fdecode f a).mul (fdecode f b)))

/-- VFNMS: D − A·B with one rounding (R350). -/
def fnms (f : Fmt) (rnd : BitVec 3) (sat : Bool) (d a b : Nat) : Res :=
  fdeliver f rnd sat ((fdecode f d).add rnd ((fdecode f a).mul (fdecode f b)).negate)

/-- VFDOT2: D + a0·b0 + a1·b1 exactly, rounded once to `f`; the pairs are read in `g` (R356). -/
def fdot2 (f g : Fmt) (rnd : BitVec 3) (sat : Bool) (d a0 b0 a1 b1 : Nat) : Res :=
  let p := ((fdecode g a0).mul (fdecode g b0)).add rnd ((fdecode g a1).mul (fdecode g b1))
  fdeliver f rnd sat ((fdecode f d).add rnd p)

/-- An exact quotient or root, held to `bits` more bits than its operands need, with a sticky last bit: rounding it once is
rounding the exact value once. -/
def withSticky (q : Nat) (exact : Bool) : Nat := 2 * q + (if exact then 0 else 1)

/-- VFDIV, correctly rounded (R78). -/
def fdiv (f : Fmt) (rnd : BitVec 3) (sat : Bool) (a b : Nat) : Res :=
  match fdecode f a, fdecode f b with
  | .nan s, .nan s' => (defaultNaN f, flagIf (s || s') flagNV)
  | .nan s, _ => (defaultNaN f, flagIf s flagNV)
  | _, .nan s => (defaultNaN f, flagIf s flagNV)
  | .inf _, .inf _ => (defaultNaN f, flagNV)
  | .inf n, .num n' _ _ => (infBits f (n != n'), 0)
  | .num n _ _, .inf n' => (signBit f (n != n'), 0)
  | .num n m e, .num n' m' e' =>
    if m' = 0 then
      if m = 0 then (defaultNaN f, flagNV) else (infBits f (n != n'), flagDZ)
    else
      let k := f.fb + 4 + Nat.log2 m' + 1
      let num := m * 2 ^ k
      fround f rnd sat (n != n') (withSticky (num / m') (num % m' == 0)) (e - e' - k - 1)

/-- VFRCP, correctly rounded; ±0 give ±∞ with DZ, ±∞ give ±0 (R78). -/
def frcp (f : Fmt) (rnd : BitVec 3) (sat : Bool) (a : Nat) : Res :=
  match fdecode f a with
  | .nan s => (defaultNaN f, flagIf s flagNV)
  | .inf n => (signBit f n, 0)
  | .num n m e =>
    if m = 0 then (infBits f n, flagDZ)
    else
      let k := f.fb + 4 + Nat.log2 m + 1
      fround f rnd sat n (withSticky (2 ^ k / m) (2 ^ k % m == 0)) (-e - k - 1)

/-- VFSQRT, correctly rounded (R78). -/
def fsqrt (f : Fmt) (rnd : BitVec 3) (sat : Bool) (a : Nat) : Res :=
  match fdecode f a with
  | .nan s => (defaultNaN f, flagIf s flagNV)
  | .inf n => if n then (defaultNaN f, flagNV) else (infBits f false, 0)
  | .num n m e =>
    if m = 0 then (signBit f n, 0)
    else if n then (defaultNaN f, flagNV)
    else
      let k := f.fb + 4
      let odd := e % 2 == 1
      let m' := if odd then 2 * m else m
      let e' := if odd then e - 1 else e
      let x := m' * 2 ^ (2 * k)
      let r := isqrt x
      fround f rnd sat false (withSticky r (r * r == x)) (e' / 2 - k - 1)

/-! ## Functions with an error bound (R77, R78) -/

/-- ulp(y) as a power of two, for a value of exponent `ex` (R77). -/
def ulpExp (f : Fmt) (ex : Int) : Int := max ex (1 - f.bias) - f.fb

/-- The magnitude |x − y| of two exact values is at most k · 2^u. -/
def within (n1 : Bool) (m1 : Nat) (e1 : Int) (n2 : Bool) (m2 : Nat) (e2 : Int) (k : Nat) (u : Int) : Bool :=
  let (_, d, e) := exactAdd n1 m1 e1 (!n2) m2 e2
  let lo := min e u
  d * 2 ^ (e - lo).toNat ≤ k * 2 ^ (u - lo).toNat

/-- The result of a function whose exact value is irrational: the value m · 2^e stands for it to far more bits than the
format holds, and any encoding within `k` ulp of it may be returned (R78). `pick` says how many encodings away from the
nearest one it lies; an offset outside the bound gives the nearest one. -/
def fbounded (f : Fmt) (k : Nat) (pick : Int) (neg : Bool) (m : Nat) (e : Int) : Res :=
  let (z, fl) := fround f 0 false neg m e
  let s := signBit f neg
  let c : Int := ((z - s : Nat) : Int) + max (-(4 : Int)) (min 4 pick)
  let cand := s + c.toNat
  if c < 0 then (z, fl ||| flagNX)
  else
    match fdecode f cand with
    | .num n zm ze =>
      if within n zm ze neg m e k (ulpExp f (e + Nat.log2 m)) then (cand, fl ||| flagNX) else (z, fl ||| flagNX)
    | _ => (z, fl ||| flagNX)

/-- Guard bits of the values handed to `fbounded`. -/
def guardBits : Nat := 64

/-- VFRSQ: within 1 ulp, exact where the exact result is representable (R77, R78). -/
def frsq (f : Fmt) (rnd : BitVec 3) (a : Nat) : Res :=
  match fdecode f a with
  | .nan s => (defaultNaN f, flagIf s flagNV)
  | .inf n => if n then (defaultNaN f, flagNV) else (0, 0)
  | .num n m e =>
    if m = 0 then (infBits f n, flagDZ)
    else if n then (defaultNaN f, flagNV)
    else
      let odd := e % 2 == 1
      let m' := if odd then 2 * m else m
      let e' := if odd then e - 1 else e
      let k := f.fb + guardBits + Nat.log2 m' + 1
      let r := isqrt (2 ^ (2 * k) / m')
      let exact := r * r * m' == 2 ^ (2 * k)
      let v := withSticky r exact
      let ve := -(e' / 2) - k - 1
      let (z, fl) := fround f rnd false false v ve
      if exact && (fl &&& flagNX) == 0 then (z, fl)
      else fbounded f 1 (Config.approx 0x44 a) false v ve

/-- Fixed-point scale of the series below. -/
def seriesBits : Nat := 192

/-- ln 2 scaled by 2^192: the sum of 2·(1/3)^(2k+1)/(2k+1), each term rounded down. -/
def ln2Series : Nat → Nat → Nat → Nat
  | 0, _, _ => 0
  | n + 1, k, p => 2 * p / (2 * k + 1) + ln2Series n (k + 1) (p / 9)

/-- ln 2 scaled by 2^192. -/
def ln2 : Nat := ln2Series 64 0 (2 ^ seriesBits / 3)

/-- exp(x) for x scaled by 2^192, by its series from term `k` with current term `p`. -/
def expSeries (x : Nat) : Nat → Nat → Nat → Nat
  | 0, _, _ => 0
  | n + 1, k, p => p + expSeries x n (k + 1) (p * x / 2 ^ seriesBits / (k + 1))

/-- 1 + z²/3 + z⁴/5 + …, scaled by 2^192, for z² = num/den. -/
def atanhSeries (num den : Nat) : Nat → Nat → Nat → Nat
  | 0, _, _ => 0
  | n + 1, k, p => p / (2 * k + 1) + atanhSeries num den n (k + 1) (p * num / den)

/-- VFEXP2F: 2^A for −1 ≤ A ≤ 1, within 2 ulp; NV and the default NaN outside (R78). -/
def fexp2 (f : Fmt) (rnd : BitVec 3) (a : Nat) : Res :=
  match fdecode f a with
  | .nan s => (defaultNaN f, flagIf s flagNV)
  | .inf _ => (defaultNaN f, flagNV)
  | .num n m e =>
    if m = 0 then fround f rnd false false 1 0
    else if !within false m e false 0 0 1 0 then (defaultNaN f, flagNV)
    else if within false m e false 1 0 0 0 then fround f rnd false false 1 (if n then -1 else 1)
    else
      -- |A| < 1: A is n/2 + y … take 2^A = exp(A ln 2), or 2^(1+A)/2 for a negative A
      let mag : Nat := m * 2 ^ (e + seriesBits).toNat / 2 ^ (-(e + seriesBits)).toNat
      let x := if n then 2 ^ seriesBits - mag else mag
      let y := expSeries (x * ln2 / 2 ^ seriesBits) 60 0 (2 ^ seriesBits)
      fbounded f 2 (Config.approx 0x4A a) false (withSticky y false) (-(seriesBits : Int) - 1 - (if n then 1 else 0))

/-- VFLOG2F: log2 A for 0.5 ≤ A ≤ 2, within 2 ulp; 1 gives +0; NV and the default NaN outside (R78). -/
def flog2 (f : Fmt) (rnd : BitVec 3) (a : Nat) : Res :=
  match fdecode f a with
  | .nan s => (defaultNaN f, flagIf s flagNV)
  | .inf _ => (defaultNaN f, flagNV)
  | .num n m e =>
    -- A = p / q exactly
    let p := m * 2 ^ e.toNat
    let q := 2 ^ (-e).toNat
    if n || m = 0 || 2 * p < q || 2 * q < p then (defaultNaN f, flagNV)
    else if p = q then (0, 0)
    else if 2 * p = q then fround f rnd false true 1 0
    else if p = 2 * q then fround f rnd false false 1 0
    else
      let neg := decide (p < q)
      let num := if neg then q - p else p - q
      let den := p + q
      let s := atanhSeries (num * num) (den * den) 70 0 (2 ^ seriesBits)
      -- log2 A = 2 (num/den) s / ln 2, held to 2^192 beyond the magnitude of num/den
      let k := seriesBits + Nat.log2 den + 1
      let y := 2 * num * s * 2 ^ k / (den * ln2)
      fbounded f 2 (Config.approx 0x4B a) neg (withSticky y false) (-(k : Int) - 1)

/-! ## Other one-operand words -/

/-- VFRINT (R80). -/
def frint (f : Fmt) (rnd : BitVec 3) (a : Nat) : Res :=
  match fdecode f a with
  | .nan s => (defaultNaN f, flagIf s flagNV)
  | .inf _ => (a, 0)
  | .num n m e =>
    if 0 ≤ e ∨ m = 0 then (a, 0)
    else
      let (v, inexact) := roundShift rnd n m (-e).toNat
      ((fround f 0 false n v 0).1, flagIf inexact flagNX)

/-- VFGETEXP: floor(log2 |A|) as a value of the type (R351). -/
def fgetexp (f : Fmt) (a : Nat) : Res :=
  match fdecode f a with
  | .nan s => (defaultNaN f, flagIf s flagNV)
  | .inf _ => (infBits f false, 0)
  | .num _ m e =>
    if m = 0 then (infBits f true, flagDZ)
    else
      let x : Int := e + Nat.log2 m
      ((fround f 0 false (decide (x < 0)) x.natAbs 0).1, 0)

/-- VFLDEXP: A · 2^n rounded once (R79). Beyond ±10,000 every format has overflowed or come below its least subnormal, so
`n` is taken at that bound. -/
def fldexp (f : Fmt) (rnd : BitVec 3) (sat : Bool) (a : Nat) (n : Int) : Res :=
  match fdecode f a with
  | .nan s => (defaultNaN f, flagIf s flagNV)
  | .inf _ => (a, 0)
  | .num neg m e => if m = 0 then (a, 0) else fround f rnd sat neg m (e + max (-10000) (min 10000 n))

/-! ## Comparisons (R60, R353) -/

/-- How two numbers compare; none when a NaN stands among them. -/
def FVal.cmp : FVal → FVal → Option Ordering
  | .nan _, _ => none
  | _, .nan _ => none
  | .inf n, .inf n' => some (if n = n' then .eq else if n then .lt else .gt)
  | .inf n, .num .. => some (if n then .lt else .gt)
  | .num .., .inf n => some (if n then .gt else .lt)
  | .num n m e, .num n' m' e' =>
    let (neg, d, _) := exactAdd n m e (!n') m' e'
    some (if d = 0 then .eq else if neg then .lt else .gt)

/-- The sign bit of an encoding. -/
def isNeg (f : Fmt) (r : Nat) : Bool := r / 2 ^ (f.w - 1) % 2 == 1

/-- A is below B, with −0 below +0 (R60). -/
def totalLt (f : Fmt) (a b : Nat) : Bool :=
  match (fdecode f a).cmp (fdecode f b) with
  | some .lt => true
  | some .eq => isNeg f a && !isNeg f b
  | _ => false

/-- VFMIN and VFMAX (R60): the operand itself, not rounded. -/
def fminmax (f : Fmt) (isMax : Bool) (a b : Nat) : Res :=
  let x := fdecode f a
  let y := fdecode f b
  let fl := flagIf (x.isSnan || y.isSnan) flagNV
  if x.isNan then (if y.isNan then defaultNaN f else b % 2 ^ f.w, fl)
  else if y.isNan then (a % 2 ^ f.w, fl)
  else
    let pickB := if isMax then totalLt f a b else totalLt f b a
    ((if pickB then b else a) % 2 ^ f.w, fl)

/-- The truth of a comparison and its flag: `ordered` words set NV for any NaN (R60, R353). -/
def fcompare (f : Fmt) (ordered : Bool) (rel : Option Ordering → Bool) (a b : Nat) : Bool × FlagSet :=
  let x := fdecode f a
  let y := fdecode f b
  let nv := if ordered then x.isNan || y.isNan else x.isSnan || y.isSnan
  (rel (x.cmp y), flagIf nv flagNV)

/-- VFCLASS (R354). -/
def fclass (f : Fmt) (a : Nat) : Nat :=
  match fdecode f a with
  | .nan s => if s then 8 else 9
  | .inf n => if n then 0 else 7
  | .num n m _ =>
    if m = 0 then (if n then 3 else 4)
    else if (fields f a).2.1 = 0 then (if n then 2 else 5)
    else if n then 1 else 6

/-! ## Conversions (R66, R67) -/

/-- VCVTIF: an exact integer to a floating format. -/
def cvtIF (f : Fmt) (rnd : BitVec 3) (sat : Bool) (x : Int) : Res := fround f rnd sat (decide (x < 0)) x.natAbs 0

/-- VCVTFI: to integer type `t` (R67). -/
def cvtFI (f : Fmt) (t : BitVec 4) (rnd : BitVec 3) (sat : Bool) (a : Nat) : Res :=
  let w := lwidth t
  let bad (bound : Int) : Res :=
    if sat then (intBits w bound, flagNV ||| flagSAT)
    else (intBits w (if isSigned t then intMin t else intMax t), flagNV)
  match fdecode f a with
  | .nan _ => bad 0
  | .inf n => bad (if n then intMin t else intMax t)
  | .num n m e =>
    let (v, inexact) := roundAt rnd n m e 0
    let x : Int := if n then -(v : Int) else v
    if x < intMin t then bad (intMin t)
    else if intMax t < x then bad (intMax t)
    else (intBits w x, flagIf inexact flagNX)

/-- VCVTFF: from format `g` to format `f` (R65 to R67). -/
def cvtFF (g f : Fmt) (rnd : BitVec 3) (sat : Bool) (a : Nat) : Res :=
  match fdecode g a with
  | .nan s =>
    match f.kind with
    | .e2m1 => (0, flagNV)
    | _ => (defaultNaN f, flagIf s flagNV)
  | .inf n =>
    match f.kind with
    | .ieee => (infBits f n, 0)
    | .e4m3 => if sat then (signBit f n + greatest f, flagNV ||| flagSAT) else (defaultNaN f, flagNV)
    | .e2m1 => (signBit f n + greatest f, flagNV ||| flagSAT)
  | .num n m e => fround f rnd sat n m e

/-! ## Matrix sums (R72 to R75) -/

/-- A product as it enters a block sum: a zero product enters as +0 (R72, R73), and every NaN, a quiet one too, sets NV (R74). -/
def blockTerm (p : FVal) : FVal :=
  match p with
  | .num _ 0 e => .num false 0 e
  | .nan _ => .nan true
  | q => q

/-- The exact sum of a list of terms, from +0 (R72, R74). -/
def exactSum : List FVal → FVal
  | [] => .num false 0 0
  | p :: ps => (blockTerm p).add 0 (exactSum ps)

/-- One partial of 8-bit or narrower floating inputs: exact, rounded once to FP40 with RNE (R72, R74). -/
def blockSumExact (terms : List FVal) : Res := fdeliver fp40 0 false (exactSum terms)

/-- One level of the tree of R73: pairs combined in FP40 with RNE. -/
def treeLevel : List FVal → List FVal × FlagSet
  | a :: b :: rest =>
    let (bits, fl) := fdeliver fp40 0 false (a.add 0 b)
    let (r, fl') := treeLevel rest
    (fdecode fp40 bits :: r, fl ||| fl')
  | rest => (rest, 0)

/-- The fixed tree of R73, level by level. -/
def treeSum : Nat → List FVal → List FVal × FlagSet
  | 0, l => (l, 0)
  | n + 1, l =>
    let (l', fl) := treeLevel l
    let (l'', fl') := treeSum n l'
    (l'', fl ||| fl')

/-- One partial of BF16 or FP16 inputs (R73, R74). -/
def blockSumTree (terms : List FVal) : Res :=
  let (l, fl) := treeSum 5 (terms.map blockTerm)
  let (bits, fl') := fdeliver fp40 0 false (l.headD (.num false 0 0))
  (bits, fl ||| fl')

/-- The exponent of a pair of block scales (R75). -/
def scaleExp (a b : Nat) : Int := ((a : Int) - 127) + ((b : Int) - 127)

/-- A value times a power of two, exactly. -/
def FVal.scale (e : Int) : FVal → FVal
  | .num n m x => .num n m (x + e)
  | v => v

/-- VSCACC's sum acc + p · 2^e, rounded once to FP40 (R75). -/
def scaleAccumulate (rnd : BitVec 3) (sat : Bool) (acc p a b : Nat) : Res :=
  if a = 0xFF ∨ b = 0xFF then (defaultNaN fp40, flagNV)
  else fdeliver fp40 rnd sat ((fdecode fp40 acc).add rnd ((fdecode fp40 p).scale (scaleExp a b)))

/-! ## Codebook weights (R63) -/

/-- The number of bits set among the low `n` bits. -/
def popBits : Nat → Nat → Nat
  | 0, _ => 0
  | n + 1, x => x % 2 + popBits n (x / 2)

/-- Weight `i` of index `x` decoded through codebook row `row`, as FP8E4M3 (R63). -/
def codebookWeight (row x i : Nat) : Nat :=
  let s := x % 256
  let s := if popBits 8 s % 2 = 1 then s ^^^ 0x80 else s
  let m := row / 2 ^ (4 * i) % 8
  let twice : Int := (if s / 2 ^ i % 2 = 1 then -((2 * m : Nat) : Int) else (2 * m : Nat)) + (if x / 2 ^ 15 % 2 = 1 then 1 else 0)
  (fround (fmt 8) 0 false (decide (twice < 0)) twice.natAbs (-1)).1

end Sys2Proof.Machine
end

