-- ==== Sys2Proof/Machine/Ops.lean ====
section
/-!
DEFINITION. The named operations over state: reading and writing registers, memory, the walk of the page tables, scalar
accesses, notices, fault records, taking an exception and returning from one.
-/
namespace Sys2Proof.Machine

/-! ## Reaching the parts of the state -/

/-- Strand `k` of core `c`. -/
def State.strand (s : State) (c k : Nat) : Strand := SMap.get Strand.reset s.strands (4 * c + k)

/-- Replaces strand `k` of core `c`. -/
def State.setStrand (s : State) (c k : Nat) (t : Strand) : State := { s with strands := s.strands.put (4 * c + k) t }

/-- Core `c`. -/
def State.core (s : State) (c : Nat) : Core := SMap.get Core.reset s.cores c

/-- Replaces core `c`. -/
def State.setCore (s : State) (c : Nat) (x : Core) : State := { s with cores := s.cores.put c x }

/-- Die `d`. -/
def State.die (s : State) (d : Nat) : Die := SMap.get Die.reset s.dies d

/-- Replaces die `d`. -/
def State.setDie (s : State) (d : Nat) (x : Die) : State := { s with dies := s.dies.put d x }

/-- The die of a core (R93). -/
def dieOf (c : Nat) : Nat := c / 64

/-- Applies `f` to strand `k` of core `c`. -/
def State.onStrand (s : State) (c k : Nat) (f : Strand → Strand) : State := s.setStrand c k (f (s.strand c k))

/-- Applies `f` to core `c`. -/
def State.onCore (s : State) (c : Nat) (f : Core → Core) : State := s.setCore c (f (s.core c))

/-- Slot `n` of core `c`. -/
def State.slot (s : State) (c n : Nat) : Slot := SMap.get Slot.reset (s.core c).slots n

/-- Replaces slot `n` of core `c`. -/
def State.setSlot (s : State) (c n : Nat) (x : Slot) : State := s.onCore c fun r => { r with slots := r.slots.put n x }

/-- Queue `q` of core `c`. -/
def State.queue (s : State) (c q : Nat) : Queue := SMap.get Queue.reset (s.core c).queues q

/-- Replaces queue `q` of core `c`. -/
def State.setQueue (s : State) (c q : Nat) (x : Queue) : State := s.onCore c fun r => { r with queues := r.queues.put q x }

/-- The core and strand that act, a node acting for the strand that owns its slot. -/
def State.who (s : State) : Nat × Nat :=
  match s.agent with
  | .strand c k => (c, k)
  | .node c n _ => (c, (s.slot c n).owner)

/-- The cycles that die `d` runs in a step. -/
def cyclesOf (s : State) (d : Nat) : Nat := Config.cycles (4 * s.tick + d)

/-- The strand that acts. -/
def State.cur (s : State) : Strand := s.strand s.who.1 s.who.2

/-- Applies `f` to the strand that acts. -/
def State.onCur (s : State) (f : Strand → Strand) : State := s.onStrand s.who.1 s.who.2 f

/-- The job that runs on core `c`, if any. -/
def State.jobOf (s : State) (c : Nat) : Option Job := SMap.get none s.jobs (s.core c).jobid.toNat

/-- Replaces job `j`. -/
def State.setJob (s : State) (j : Nat) (x : Job) : State := { s with jobs := s.jobs.put j (some x) }

/-- Sends one output. -/
def State.emit (s : State) (o : Output) : State := { s with out := s.out ++ [o] }

/-- The step's outcome: the next state, or the model's fault where an access met an address that does not exist (R152). -/
def finish (s : State) : Host.Outcome State Fault Refusal :=
  match s.stop with
  | some f => .fault f
  | none => .next s

/-! ## Scalar registers (R82) -/

/-- Reads x register `r`: x0 reads 0. -/
def Strand.readX (t : Strand) (r : BitVec 5) : Word := if r = 0 then 0 else SMap.get 0 t.x r.toNat

/-- Writes x register `r`: a write to x0 is discarded. -/
def Strand.writeX (t : Strand) (r : BitVec 5) (v : Word) : Strand :=
  if r = 0 then t else { t with x := SMap.set 0 t.x r.toNat v }

/-- Reads an X-class field of any width; the field's class has been checked. -/
def Strand.x? (t : Strand) (n : Nat) : Word := if n = 0 then 0 else SMap.get 0 t.x n

/-- Adds `n` to event counter `e` of a strand (R279). -/
def Strand.count (t : Strand) (e n : Nat) : Strand :=
  { t with events := SMap.set 0 t.events e (SMap.get 0 t.events e + BitVec.ofNat 64 n) }

/-- Sets flags in vflags (R69). -/
def Strand.flag (t : Strand) (f : FlagSet) : Strand := { t with vflags := t.vflags ||| f }

/-- The instruction retires: pc moves past it, instret counts it (R82, R83), and event 0x01 counts a scalar one (R279). -/
def Strand.retire (t : Strand) : Strand := { t with pc := t.pc + 4, instret := t.instret + 1 }.count 1 1

/-- A scalar instruction that goes elsewhere retires. -/
def Strand.retireTo (t : Strand) (pc : Word) : Strand := { t with pc := pc, instret := t.instret + 1 }.count 1 1

/-- The acting strand writes `v` to `rd` and retires. -/
def scalar (rd : BitVec 5) (v : Word) (s : State) : State := s.onCur fun t => (t.writeX rd v).retire

/-! ## Words and bytes (R5) -/

/-- Byte `i` of a number, little-endian. -/
def byteOf (v i : Nat) : Byte := BitVec.ofNat 8 (v / 2 ^ (8 * i))

/-- The low `n` bytes of a number. -/
def toBytes (v : Nat) : Nat → List Byte
  | 0 => []
  | n + 1 => BitVec.ofNat 8 v :: toBytes (v / 256) n

/-- The number of a list of bytes. -/
def ofBytes : List Byte → Nat
  | [] => 0
  | b :: bs => b.toNat + 256 * ofBytes bs

/-- Bits `hi` to `lo` of a word, as a number. -/
def bits (w : Word) (hi lo : Nat) : Nat := w.toNat / 2 ^ lo % 2 ^ (hi + 1 - lo)

/-- Bit `i` of a word. -/
def bit (w : Word) (i : Nat) : Bool := w.getLsbD i

/-- A word with bits `hi` to `lo` replaced. -/
def setBits (w : Word) (hi lo v : Nat) : Word :=
  BitVec.ofNat 64 (w.toNat - bits w hi lo * 2 ^ lo + v % 2 ^ (hi + 1 - lo) * 2 ^ lo)

/-- A number as a word. -/
def word (n : Nat) : Word := BitVec.ofNat 64 n

/-! ## Device memory (R149 to R152, R168 to R170) -/

/-- The placement of device physical address `a` by one interleave entry (R152). -/
def placeIn (e : Word × Word) (a : Nat) : Option (Tier × Nat) :=
  let base := bits e.1 10 0 * 2 ^ 30
  let len := bits e.1 21 11 * 2 ^ 30
  if bit e.1 63 && base ≤ a && a < base + len then
    let k := bits e.1 47 44
    let p := (a - base) / 4096
    let j := p % (k + 1)
    let q := p / (k + 1)
    if j = 0 then some (.fast, (bits e.2 31 0 + q) * 4096 + a % 4096)
    else some (.capacity, (bits e.2 63 32 + q * k + (j - 1)) * 4096 + a % 4096)
  else none

/-- The first placement among the listed entries. -/
def placeAmong (a : Nat) : List (Nat × (Word × Word)) → Option (Tier × Nat)
  | [] => none
  | (_, e) :: es =>
    match placeIn e a with
    | some r => some r
    | none => placeAmong a es

/-- The tier and tier address of device physical address `a` (R152). -/
def State.place (s : State) (a : Nat) : Option (Tier × Nat) := placeAmong a s.interleave

/-- What a byte of DRAM reads as before anything has written it. DESIGN CHOICE (log 4): the specification gives DRAM no
reset contents. -/
def memoryDefault : Byte := 0

/-- The byte at tier address `o`. -/
def State.tierByte (s : State) (t : Tier) (o : Nat) : Byte :=
  match t with
  | .fast => SMap.get memoryDefault s.fast o
  | .capacity => SMap.get memoryDefault s.cap o

/-- Writes the byte at tier address `o`. -/
def State.setTierByte (s : State) (t : Tier) (o : Nat) (b : Byte) : State :=
  match t with
  | .fast => { s with fast := SMap.set memoryDefault s.fast o b }
  | .capacity => { s with cap := SMap.set memoryDefault s.cap o b }

/-- Whether the 64-byte line of tier address `o` is poisoned (R168). -/
def State.tierPoison (s : State) (t : Tier) (o : Nat) : Bool :=
  match t with
  | .fast => SMap.get false s.poisonFast (o / 64)
  | .capacity => SMap.get false s.poisonCap (o / 64)

/-- Poisons the line of tier address `o`, or clears its poison. -/
def State.setTierPoison (s : State) (t : Tier) (o : Nat) (p : Bool) : State :=
  match t with
  | .fast => { s with poisonFast := SMap.set false s.poisonFast (o / 64) p }
  | .capacity => { s with poisonCap := SMap.set false s.poisonCap (o / 64) p }

/-- Both tiers hold their bytes in canonical form. -/
def Memory.wf (s : State) : Bool := SMap.wf memoryDefault s.fast && SMap.wf memoryDefault s.cap

/-- The address `n` bytes on, inside one page. -/
def Phys.plus : Phys → Nat → Phys
  | .dev a, n => .dev (a + n)
  | .host w p o, n => .host w p (o + n)

/-- The address of the 64-byte line. -/
def Phys.line : Phys → Phys
  | .dev a => .dev (a / 64 * 64)
  | .host w p o => .host w p (o / 64 * 64)

/-- The byte inside its line. -/
def Phys.offset : Phys → Nat
  | .dev a => a % 64
  | .host _ _ o => o % 64

/-- The first byte of a page. -/
def PPage.base : PPage → Phys
  | .dev n => .dev (4096 * n)
  | .host w p => .host w p 0

/-- An access to page `p` of host window `w` that the host link cannot complete, or for which nothing is mapped (R469). -/
def State.hostDead (s : State) (w p : Nat) : Bool :=
  match SMap.get none s.hostWindows w with
  | some h => s.hostDown.any (fun e => e.1 = h.port) || h.pages ≤ p || Config.hostFails s.tick w p
  | none => true

/-- The byte at an address; a byte of host memory is a free value (R469). -/
def State.byteAt (s : State) : Phys → Byte
  | .dev a =>
    match s.place a with
    | some (t, o) => s.tierByte t o
    | none => memoryDefault
  | .host w p o => Config.hostByte s.tick ((w * 2 ^ 32 + p) * 4096 + o)

/-- Whether an address lies in a poisoned line, or is treated as if it did (R168, R469). -/
def State.poisonAt (s : State) : Phys → Bool
  | .dev a =>
    match s.place a with
    | some (t, o) => s.tierPoison t o
    | none => false
  | .host w p _ => s.hostDead w p

/-- The channel of fast-tier row `b`: 8 stacks of 32 channels (R149). -/
def chanOf (b : Nat) : Nat := b % 8 * 32 + b / 8 % 32

/-- The lending entry of a channel (R154). -/
def State.lending (s : State) (ch : Nat) : BitVec 16 := SMap.get 0 s.lend ch

/-- The partner of a channel (R153). -/
def partner (ch : Nat) : Nat := if ch % 2 = 0 then ch + 1 else ch - 1

/-- An entry in another state, with a handshake counted or not. -/
def lendEntry (e : BitVec 16) (st : Nat) (shake : Bool) : BitVec 16 :=
  let n := e.toNat / 256 + (if shake then 1 else 0)
  BitVec.ofNat 16 (n % 256 * 256 + st)

/-- A lending channel owns its lanes again, and its partner only its own; a channel in any other state stays as it is. DESIGN CHOICE
(log 111): the handshake is counted at the channel that lends, and not at its partner. -/
def State.reclaim (s : State) (ch : Nat) : State :=
  if (s.lending ch).toNat % 4 ≠ 1 then s
  else
    { s with lend := (s.lend.put ch (lendEntry (s.lending ch) 0 true)).put (partner ch) (lendEntry (s.lending (partner ch)) 0 false) }

/-- A request for an address: one that lies in no interleave entry marks the model's fault (R152), and one for a channel that lends its
lanes reclaims them first (R153). -/
def State.touch (s : State) : Phys → State
  | .dev a =>
    match s.place a with
    | none => if s.stop.isNone then { s with stop := some (.unplacedAddress a) } else s
    | some (.fast, o) => s.reclaim (chanOf (o / 1024))
    | some (.capacity, _) => s
  | .host .. => s

/-- `n` bytes from an address, with poisoned lines read as zeros (R170). -/
def State.bytesAt (s : State) (p : Phys) : Nat → List Byte
  | 0 => []
  | n + 1 => (if s.poisonAt p then 0 else s.byteAt p) :: s.bytesAt (p.plus 1) n

/-- The number that `n` bytes from an address hold. -/
def State.numAt (s : State) (p : Phys) (n : Nat) : Nat := ofBytes (s.bytesAt p n)

/-- The error counters of R277, by kind and unit. -/
def errKey (kind unit : Nat) : Nat := kind * 2 ^ 24 + unit

/-- Counts an error, saturating (R277). -/
def State.countErr (s : State) (kind unit : Nat) : State :=
  let k := errKey kind unit
  { s with errs := SMap.set 0 s.errs k (min 0xFFFFFFFF (SMap.get 0 s.errs k + 1)) }

/-- Kinds of error counter (R277). -/
def errTileCorrected : Nat := 0
def errTilePoisoned : Nat := 1
def errDramCorrected : Nat := 2
def errDramPoisoned : Nat := 3
def errPoisonRead : Nat := 4
def errPartialDrop : Nat := 5
def errFlitTag : Nat := 6
def errFlitPad : Nat := 7

/-! ## Writes (R169, R185, R197) -/

/-- Who performs a write: a strand, or another agent, with the die that counts its dropped writes. -/
inductive Writer where
  | strand (c k : Nat)
  | other (die : Nat)
  deriving DecidableEq, Repr

/-- The die at which the drops of a writer are counted (R277). -/
def Writer.die : Writer → Nat
  | .strand c _ => dieOf c
  | .other d => d

/-- The bytes of one transaction. -/
abbrev Pieces := List (Phys × Byte)

/-- One transaction supplies all 64 bytes of the line at `l` (R169). -/
def fullLine (ps : Pieces) (l : Phys) : Bool :=
  (List.range 64).all fun i => ps.any fun e => e.1.line = l && e.1.offset = i

/-- Writes one byte of a transaction: a byte of a poisoned line is dropped unless the transaction covers the line. -/
def State.writePiece (ps : Pieces) (s : State) (e : Phys × Byte) : State :=
  match e.1 with
  | .dev a =>
    match s.place a with
    | none => s.touch e.1
    | some (t, o) =>
      if s.tierPoison t o && !fullLine ps e.1.line then s
      else (s.setTierByte t o e.2)
  | .host w p o => if s.hostDead w p then s else s.emit (.hostWrite w p o [e.2])

/-- The lines a transaction touches, each once. -/
def linesOf (ps : Pieces) : List Phys := (ps.map fun e => e.1.line).eraseDups

/-- Settles the poison of one line after a transaction: cleared where the line is covered, and a drop counted where it is
not (R169). -/
def State.settleLine (d : Nat) (ps : Pieces) (s : State) (l : Phys) : State :=
  if s.poisonAt l then
    match l with
    | .dev a =>
      match s.place a with
      | some (t, o) => if fullLine ps l then s.setTierPoison t o false else s.countErr errPartialDrop d
      | none => s
    | .host .. => s.countErr errPartialDrop d
  else s

/-- The reservation of a strand other than the writer is lost when its line is written (R197). -/
def loseReservation (wr : Writer) (ls : List Phys) (e : Nat × Strand) : Nat × Strand :=
  match e.2.resv with
  | none => e
  | some l =>
    let own : Bool := match wr with
      | .strand c k => e.1 == 4 * c + k
      | .other _ => false
    if !own && ls.contains l then (e.1, { e.2 with resv := none }) else e

/-- A byte of a line replaced. -/
def setLineByte (l : BitVec 512) (i : Nat) (b : Byte) : BitVec 512 :=
  let keep := l.toNat - l.toNat / 2 ^ (8 * i) % 256 * 2 ^ (8 * i)
  BitVec.ofNat 512 (keep + b.toNat * 2 ^ (8 * i))

/-- A store of the core updates the lines of its scalar data cache that it hits (R185). -/
def updateCache (d : SMap (BitVec 512)) (e : Phys × Byte) : SMap (BitVec 512) :=
  match e.1 with
  | .dev a => d.map fun x => if x.1 = a / 64 then (x.1, setLineByte x.2 (a % 64) e.2) else x
  | .host .. => d

/-- The reservations on written lines are lost: those of other strands, and those that stopped jobs keep (R197). -/
def State.loseLines (s : State) (wr : Writer) (ls : List Phys) : State :=
  { s with strands := s.strands.map (loseReservation wr ls), savedResv := s.savedResv.filter fun r => !ls.contains r.line }

/-- The bits of the nibbles in which two bytes differ. -/
def nibbleMask (a b : Byte) : Byte := (if a.toNat / 16 = b.toNat / 16 then 0 else 0xF0) ||| (if a.toNat % 16 = b.toNat % 16 then 0 else 0x0F)

/-- What the bytes of a store held, and hold after it, for the strand's engine operations (R184); `mask` tells the bits that the
store gave, from what stood there and what was stored. -/
def State.unordered (s : State) (mask : Byte → Byte → Byte) (ps : Pieces) : List Unordered :=
  (ps.filter fun e => !s.poisonAt e.1).map fun e =>
    { spot := .mem e.1, old := s.byteAt e.1, new := e.2, mask := mask (s.byteAt e.1) e.2, tick := s.tick }

/-- Performs one write transaction, with respect to every agent at once but the strand's own engine operations (R184); `half` are
the bytes of which it gives one nibble alone, beside the nibble that stands there, so that they do not help to cover a line (R169,
R174). DESIGN CHOICE (log 102): a line of the scalar data cache that the store hits takes its bytes even where the line is poisoned in
memory and the bytes are dropped there. -/
def State.storeWith (s : State) (wr : Writer) (ps half : Pieces) : State :=
  let all := ps ++ half
  let s1 := all.foldl (State.writePiece ps) s
  let s2 := (linesOf all).foldl (State.settleLine wr.die ps) s1
  let s3 := s2.loseLines wr (linesOf all)
  match wr with
  | .strand c k =>
    (s3.onCore c fun r => { r with dcache := all.foldl updateCache r.dcache }).onStrand c k fun t =>
      { t with stores := s.unordered nibbleMask half ++ s.unordered (fun _ _ => 0xFF) ps ++ t.stores }
  | .other _ => s3

/-- A write transaction of whole bytes. -/
def State.store (s : State) (wr : Writer) (ps : Pieces) : State := s.storeWith wr ps []

/-- The pieces of a run of bytes from an address. -/
def piecesOf (p : Phys) : List Byte → Pieces
  | [] => []
  | b :: bs => (p, b) :: piecesOf (p.plus 1) bs

/-! ## Translation (R163, R259) -/

/-- The page that a physical page number names (R259). -/
def pageOf (ppn : Nat) : Option PPage :=
  if ppn < 0x12000000 then some (.dev ppn)
  else if ppn / 2 ^ 43 % 2 = 1 then some (.host (ppn / 2 ^ 32 % 2 ^ 11) (ppn % 2 ^ 32))
  else none

/-- The walk from a table at level `n` (4 is the root of Sv57): the leaf's entry and its level. -/
def State.walkFrom (s : State) (vpn : Nat) : Nat → Nat → Option (Word × Nat)
  | 0, _ => none
  | n + 1, table =>
    let pa := table * 4096 + vpn / 2 ^ (9 * n) % 512 * 8
    let pte := word (s.numAt (.dev pa) 8)
    if !bit pte 0 || (bit pte 2 && !bit pte 1) || bits pte 63 54 != 0 then none
    else if bit pte 1 || bit pte 3 then some (pte, n)
    else if bit pte 4 || bit pte 6 || bit pte 7 then none
    else
      match pageOf (bits pte 53 10) with
      | some (.dev t) => s.walkFrom vpn n t
      | _ => none

/-- The leaf that maps a virtual address, or none where the page is missing (R259). -/
def State.walk (s : State) (root va : Word) : Option Leaf :=
  let canonical : Bool := bits va 63 56 == 0 || bits va 63 56 == 0xFF
  if !canonical || bits root 63 60 != 10 then none
  else
    let vpn := bits va 56 12
    match s.walkFrom vpn 5 (bits root 43 0) with
    | none => none
    | some (pte, lvl) =>
      let ppn := bits pte 53 10
      let span := 2 ^ (9 * lvl)
      if 4 ≤ lvl || ppn % span != 0 || !bit pte 6 then none
      else
        match pageOf (ppn + vpn % span) with
        | none => none
        | some p =>
          some { root := root, vpn := vpn, page := p, r := bit pte 1, w := bit pte 2, x := bit pte 3, u := bit pte 4,
                 d := bit pte 7 }

/-- The device addresses of the entries that a walk from a table at level `n` reads. -/
def State.walkPath (s : State) (vpn : Nat) : Nat → Nat → List Nat
  | 0, _ => []
  | n + 1, table =>
    let pa := table * 4096 + vpn / 2 ^ (9 * n) % 512 * 8
    let pte := word (s.numAt (.dev pa) 8)
    pa :: (if !bit pte 0 || bit pte 1 || bit pte 3 then []
      else
        match pageOf (bits pte 53 10) with
        | some (.dev t) => s.walkPath vpn n t
        | _ => [])

/-- A request of the device itself for an address: a channel that lends its lanes reclaims them first (R153). -/
def State.reclaimAt (s : State) (a : Nat) : State :=
  match s.place a with
  | some (.fast, o) => s.reclaim (chanOf (o / 1024))
  | _ => s

/-- The requests of a walk: the channels of the entries that it reads own their lanes again (R153). -/
def State.walkTouch (s : State) (root va : Word) : State :=
  if s.lend = [] then s else (s.walkPath (bits va 56 12) 5 (bits root 43 0)).foldl State.reclaimAt s

/-- A leaf among cached ones. -/
def findLeaf (root : Word) (vpn : Nat) (l : List Leaf) : Option Leaf := l.find? fun f => f.root = root && f.vpn = vpn

/-- The scalar front end's translation of a page: a leaf that it holds, unless that has been dropped, and otherwise a walk
whose leaf it then holds (R163). A leaf that still stands in memory as it is held serves either way. -/
def State.leafFor (s : State) (c k : Nat) (va : Word) : Option Leaf × State :=
  let t := s.strand c k
  match findLeaf t.satp (bits va 56 12) t.tlb with
  | some f =>
    if s.walk t.satp va = some f then (some f, s)
    else if Config.evicted (2 * s.tick) then
      match s.walk t.satp va with
      | some g => (some g, (s.walkTouch t.satp va).onStrand c k fun t => { t with tlb := g :: t.tlb.filter (· != f) })
      | none => (none, (s.walkTouch t.satp va).onStrand c k fun t => { t with tlb := t.tlb.filter (· != f) })
    else (some f, s)
  | none =>
    match s.walk t.satp va with
    | some g => (some g, (s.walkTouch t.satp va).onStrand c k fun t => { t with tlb := g :: t.tlb })
    | none => (none, s.walkTouch t.satp va)

/-- The kind of a scalar access. -/
inductive Access where
  | fetch
  | load
  | store
  deriving DecidableEq, Repr

/-- Whether a leaf permits an access of a strand (R84, R259): U pages and SUM, MXR, and D for a write. -/
def Leaf.permits (f : Leaf) (t : Strand) : Access → Bool
  | .fetch => f.x && (if t.priv = .u then f.u else !f.u)
  | .load => (f.r || (f.x && bit t.sstatus 19)) && (if t.priv = .u then f.u else !f.u || bit t.sstatus 18)
  | .store => f.w && f.d && (if t.priv = .u then f.u else !f.u || bit t.sstatus 18)

/-- A standard exception (R86). -/
def exc (cause : Nat) (stval : Word) : Exc := { cause := word cause, stval := stval, vcause := 0, pages := [] }

/-- A device fault with its code and detail (R94, R95). -/
def devFault (code detail : Nat) (stval : Word) : Exc :=
  { cause := 48, stval := stval, vcause := word (code + detail % 2 ^ 16 * 2 ^ 32), pages := [] }

/-- The codes of R95. -/
def fIllegalOp : Nat := 0x01
def fIllegalOperand : Nat := 0x02
def fModeType : Nat := 0x03
def fProbeMissing : Nat := 0x04
def fProbeRange : Nat := 0x05
def fPageFault : Nat := 0x06
def fProtection : Nat := 0x07
def fHandleStale : Nat := 0x08
def fHandleState : Nat := 0x09
def fRowLost : Nat := 0x0A
def fRowQuota : Nat := 0x0B
def fChainConfig : Nat := 0x0C
def fStreamMalformed : Nat := 0x0D
def fQueueUnderflow : Nat := 0x0E
def fCopyError : Nat := 0x0F
def fPoison : Nat := 0x10
def fMisaligned : Nat := 0x11
def fSoftware : Nat := 0x12
def fDoubleFault : Nat := 0x13
def fNestInvalid : Nat := 0x14
def fPrivilege : Nat := 0x15
def fScope : Nat := 0x16

/-- The scalar page fault and access fault of each kind of access (R86). -/
def pageCause : Access → Nat
  | .fetch => 12
  | .load => 13
  | .store => 15
def accessCause : Access → Nat
  | .fetch => 1
  | .load => 5
  | .store => 7

/-- Whether Titania's physical protection denies a page (R86, R163). -/
def State.isDenied (s : State) : PPage → Bool
  | .dev n => s.denied.contains n
  | .host .. => false

/-- An address lies in the step record of a running step, which U mode may only read (R44). -/
def State.inRecord (s : State) (p : Phys) : Bool := s.cores.any fun e => e.2.record = some p.line

/-- A store at `p` on behalf of U mode would change a step record: PROTECTION (R44, log 54). -/
def State.recordExc (s : State) (user : Bool) (va : Word) (p : Phys) : Option Exc :=
  if user && s.inRecord p then some (devFault fProtection 1 va) else none

/-- The same for a store of strand `k` of core `c`. -/
def State.recordFault (s : State) (c k : Nat) (va : Word) (p : Phys) : Option Exc := s.recordExc (decide ((s.strand c k).priv = .u)) va p

/-- Translates one scalar access (R163): the address it reaches, or its exception; a store to a step record raises
PROTECTION (R44). -/
def State.translate (s : State) (c k : Nat) (va : Word) (a : Access) : Except Exc Phys × State :=
  match s.leafFor c k va with
  | (none, s') => (.error (exc (pageCause a) va), s')
  | (some f, s') =>
    if !f.permits (s.strand c k) a then (.error (exc (pageCause a) va), s')
    else if s.isDenied f.page then (.error (exc (accessCause a) va), s')
    else
      let p := f.page.base.plus (bits va 11 0)
      match if a = .store then s'.recordFault c k va p else none with
      | some e => (.error e, s')
      | none => (.ok p, s')

/-! ## Scalar accesses (R170, R185, R316) -/

/-- The job's poison-trap setting on core `c` (R170, R260). -/
def State.poisonTrap (s : State) (c : Nat) : Bool :=
  match s.jobOf c with
  | some j => j.poisonTrap
  | none => false

/-- A poisoned read by strand `k` of core `c`: PSN, its event, and the die's count (R69, R170, R277, R279). -/
def State.poisonRead (s : State) (c k : Nat) : State :=
  (s.onStrand c k fun t => (t.flag flagPSN).count 0x0A 1).countErr errPoisonRead (dieOf c)

/-- Whether an address lies in host memory. -/
def Phys.isHost : Phys → Bool
  | .dev _ => false
  | .host .. => true

/-- The virtual address of the line of `va`. -/
def lineAddr (va : Word) : Word := word (va.toNat / 64 * 64)

/-- Reads `n` bytes at `p` for strand `k` of core `c` from memory, with the poison rules of R170. -/
def State.readMem (s : State) (c k : Nat) (va : Word) (p : Phys) (n : Nat) : Except Exc Nat × State :=
  let s := s.touch p
  if s.poisonAt p then
    let s' := s.poisonRead c k
    if s.poisonTrap c then (.error (devFault fPoison 0 (lineAddr va)), s') else (.ok 0, s')
  else (.ok (s.numAt p n), s)

/-- Lines that a core's instruction cache or scalar data cache holds: 64 KiB of 64 bytes (R2, R172). -/
def cacheLines : Nat := 1024

/-- Fills a line of a cache; a full cache drops a line, `pick` choosing which (log 11). -/
def cacheFill (pick : Nat) (d : SMap (BitVec 512)) (n : Nat) (l : BitVec 512) : SMap (BitVec 512) :=
  SMap.put (if cacheLines ≤ d.length && !d.any fun e => e.1 = n then d.eraseIdx (pick % d.length) else d) n l

/-- A line of device memory as it stands. -/
def State.lineNow (s : State) (a : Nat) : BitVec 512 := BitVec.ofNat 512 (s.numAt (.dev (a / 64 * 64)) 64)

/-- `n` bytes at byte `i` of a line. -/
def lineNum (l : BitVec 512) (i n : Nat) : Nat := l.toNat / 2 ^ (8 * i) % 2 ^ (8 * n)

/-- Reads `n` bytes at `p` through the scalar data cache: a line that it holds serves them, unless it has been dropped, and
any other line is read and then held (R185). A line that still stands in memory as it is held serves either way. Host memory and poisoned lines are not held. -/
def State.readCached (s : State) (c k : Nat) (va : Word) (p : Phys) (n : Nat) : Except Exc Nat × State :=
  match p with
  | .host .. => s.readMem c k va p n
  | .dev a =>
    let r := s.core c
    match r.dcache.find? (fun e => e.1 = a / 64) with
    | some (_, l) =>
      if (decide (l ≠ s.lineNow a) || s.poisonAt p) && Config.evicted (2 * s.tick + 1) then
        let s' := s.setCore c { r with dcache := r.dcache.del (a / 64) }
        s'.readMem c k va p n
      else (.ok (lineNum l (a % 64) n), s)
    | none =>
      match s.readMem c k va p n with
      | (.ok v, s') =>
        if s.poisonAt p then (.ok v, s')
        else (.ok v, s'.onCore c fun r => { r with dcache := cacheFill (Config.choice s.tick) r.dcache (a / 64) (s.lineNow a) })
      | e => e

/-- A read past the scalar data cache brings the line that the cache holds up to date, so that no later scalar load returns a write
older than the one read (R176, R197). -/
def State.refresh (s : State) (c : Nat) (p : Phys) : State :=
  match p with
  | .dev a =>
    if s.poisonAt p || !(s.core c).dcache.any (fun e => e.1 = a / 64) then s
    else s.onCore c fun r => { r with dcache := r.dcache.map fun e => if e.1 = a / 64 then (e.1, s.lineNow a) else e }
  | .host .. => s

/-- A scalar load of `n` bytes (R316): alignment, translation, then the read. -/
def State.load (s : State) (c k : Nat) (va : Word) (n : Nat) (cached : Bool) : Except Exc Nat × State :=
  if va.toNat % n != 0 then (.error (exc 4 va), s)
  else
    match s.translate c k va .load with
    | (.error e, s') => (.error e, s')
    | (.ok p, s') => if cached then s'.readCached c k va p n else s'.readMem c k va p n

/-- A scalar store of the low `n` bytes of `v` (R316). With the poison-trap setting on, a scalar store to a poisoned line is
a partial write, which is dropped and counted (R169). -/
def State.storeAt (s : State) (c k : Nat) (va : Word) (n v : Nat) : Except Exc Unit × State :=
  if va.toNat % n != 0 then (.error (exc 6 va), s)
  else
    match s.translate c k va .store with
    | (.error e, s') => (.error e, s')
    | (.ok p, s') => (.ok (), (s'.touch p).store (.strand c k) (piecesOf p (toBytes v n)))

/-! ## Time (R274) -/

/-- The timebase copy of a die: within four ticks of the reference. -/
def State.dieTime (s : State) (d : Nat) : Nat :=
  ((s.time : Int) + max (-(4 : Int)) (min 4 (Config.skew d s.tick))).toNat

/-- The tick a strand reads, which never falls below one it has read before. -/
def State.timeFor (s : State) (c k : Nat) : Nat := max (s.strand c k).lastTime (s.dieTime (dieOf c))

/-- A read of time, or a fault record of the strand, moves the last value read (R274). -/
def State.noteTime (s : State) (c k : Nat) : State := s.onStrand c k fun t => { t with lastTime := s.timeFor c k }

/-! ## Notices (R88, R241) -/

/-- Posts a notice; a full queue's entry 15 becomes OVERFLOW, which counts the notices lost. -/
def postNotice (n : Notice) (q : List Notice) : List Notice :=
  if q.length < 16 then q ++ [n]
  else
    let last := q.getD 15 n
    let lost := if last.kind = 15 then last.arg + 1 else 2
    q.take 15 ++ [{ kind := 15, arg := lost }]

/-- Posts a notice to strand `k` of core `c`. -/
def State.notify (s : State) (c k kind : Nat) (arg : Word) : State :=
  s.onStrand c k fun t => { t with notices := postNotice { kind := kind, arg := arg } t.notices }

/-! ## Fault records (R242 to R244) -/

/-- The bytes of a list of 64-bit words. -/
def wordBytes (ws : List Word) : List Byte := ws.flatMap fun w => toBytes w.toNat 8

/-- Continuations of a PAGE_FAULT that lists `n` pages (R243). -/
def continuations (n : Nat) : Nat := if n ≤ 3 then 0 else (n - 3 + 6) / 7

/-- Writes bytes to the fast tier. -/
def State.writeFast (s : State) (o : Nat) : List Byte → State
  | [] => s
  | b :: bs => (s.setTierByte .fast o b).writeFast (o + 1) bs

/-- The address of a slot of a die's ring, whose slots are 64-byte lines (R242). -/
def ringSlot (d i : Nat) : Nat := (Config.ringBase d / 64 + i % 4096) * 64

/-- The ring of die `d` has room for a record of `n` slots (R242). -/
def State.ringRoom (s : State) (d n : Nat) : Bool := (s.die d).ringW + n ≤ (s.die d).ringR + 4096

/-- What a fault record tells (R243). -/
structure Record where
  kind : Nat
  flags : Nat
  who : Nat
  vcause : Word
  stval : Word
  pc : Word
  aux0 : Word
  aux1 : Word
  pages : List Word
  /-- Timebase tick at which the fault was raised. -/
  time : Nat
  deriving DecidableEq, Repr

/-- The 64 bytes of a record's first slot. -/
def recordHead (s : State) (c : Nat) (r : Record) : List Byte :=
  let n := continuations r.pages.length
  let core := s.core c
  [BitVec.ofNat 8 r.kind, BitVec.ofNat 8 (r.flags + 16 * n), BitVec.ofNat 8 c, BitVec.ofNat 8 r.who] ++
  toBytes core.seq.toNat 4 ++ toBytes r.time 8 ++ toBytes core.jobid.toNat 4 ++
  toBytes (core.region.getD 0) 1 ++ toBytes 0 3 ++
  wordBytes [r.vcause, r.stval, r.pc, r.aux0, r.aux1]

/-- The 64 bytes of continuation `i` (1 or 2): bytes 0 to 7 of the record with kind 0x80, then seven pages. -/
def recordMore (s : State) (c : Nat) (r : Record) (i : Nat) : List Byte :=
  let n := continuations r.pages.length
  [0x80, BitVec.ofNat 8 (r.flags + 16 * n + 64 * i), BitVec.ofNat 8 c, BitVec.ofNat 8 r.who] ++
  toBytes (s.core c).seq.toNat 4 ++
  wordBytes ((List.range 7).map fun j => r.pages.getD (3 + 7 * (i - 1) + j) 0)

/-- The reserved lines that `n` bytes at fast-tier address `o` touch. -/
def State.reservedAt (s : State) (o n : Nat) : List Phys :=
  ((s.strands.filterMap fun e => e.2.resv) ++ s.savedResv.map fun r => r.line).filter fun l =>
    match l with
    | .dev a => (s.place a).any fun x => x.1 = .fast && o < x.2 + 64 && x.2 < o + n
    | .host .. => false

/-- The reservations of lines that a fault record has been written to are lost (R197). -/
def State.loseAt (s : State) (o n : Nat) : State :=
  match s.reservedAt o n with
  | [] => s
  | ls => s.loseLines (.other 0) ls

/-- Writes a whole line of the fast tier for the device itself: its channel owns its lanes again (R153), reservations of the line are lost
(R197), and its poison is cleared (R169). -/
def State.writeLine (s : State) (o : Nat) (bs : List Byte) : State :=
  (((s.reclaim (chanOf (o / 1024))).loseAt o 64).writeFast o bs).setTierPoison .fast o false

/-- Writes a record with its continuations into the ring of the core's die, and counts it in the core's sequence number;
gives the address of its first slot (R242 to R244). -/
def State.writeRecord (s : State) (c : Nat) (r : Record) : Word × State :=
  let d := dieOf c
  let w := (s.die d).ringW
  let n := continuations r.pages.length
  let s1 := s.writeLine (ringSlot d w) (recordHead s c r)
  let s2 := (List.range n).foldl (fun t i => t.writeLine (ringSlot d (w + 1 + i)) (recordMore s c r (i + 1))) s1
  let s3 := s2.setDie d { s2.die d with ringW := w + 1 + n }
  (word (ringSlot d w), s3.onCore c fun x => { x with seq := x.seq + 1 })

/-- Whether a fault that is no chain break writes a record (R243). -/
def hasRecord (e : Exc) : Bool :=
  e.cause = 48 && [fPageFault, fProtection, fPoison, fNestInvalid].contains (bits e.vcause 7 0)

/-- The record of a fault of strand `k` that was raised at tick `time`. -/
def recordOf (k : Nat) (pc : Word) (e : Exc) (time : Nat) : Record :=
  let rem := bit e.vcause 24
  let chain := bit e.vcause 25
  { kind := bits e.vcause 7 0, flags := (if chain then 1 else 0) + (if rem then 2 else 0),
    who := k + (if chain || rem then 4 * bits e.vcause 31 26 else 0), vcause := e.vcause, stval := e.stval,
    pc := if chain || rem then 0 else pc,
    aux0 := if bits e.vcause 7 0 = fPageFault then e.pages.getD 1 0 else 0,
    aux1 := if bits e.vcause 7 0 = fPageFault then e.pages.getD 2 0 else 0,
    pages := if bits e.vcause 7 0 = fPageFault then e.pages else [], time := time }

/-! ## Taking an exception, and returning from one (R85, R87, R97, R98, R100) -/

/-- The trap entry of R87 on a strand: the pc and status saved, mode S with interrupts off, TW set, and the pc at the
handler. A strand that waits leaves its wait, and a reservation is lost (R197). -/
def Strand.enter (t : Strand) (pcF : Word) (e : Exc) : Strand :=
  let interrupt := bit e.cause 63
  let base : Word := t.stvec &&& ~~~3#64
  let st := setBits t.sstatus 8 8 (if t.priv = .s then 1 else 0)
  let st := setBits st 5 5 (bits t.sstatus 1 1)
  let st := setBits st 1 1 0
  { t with
    sepc := pcF &&& ~~~3#64, scause := e.cause, stval := e.stval, vcause := e.vcause, sstatus := st, priv := .s, tw := true,
    pc := if interrupt && bits t.stvec 1 0 = 1 then base + word (4 * bits e.cause 62 0) else base,
    status := .active, wait := none, resv := none, fault := none, request := none, kept := false }

/-- The shadow cause of R97: the cause being handled. -/
def shadowCause (t : Strand) : Word :=
  word (bits t.scause 63 63 * 2 ^ 63 + bits t.vcause 7 0 * 2 ^ 48 + bits t.vcause 47 32 * 2 ^ 32 + bits t.scause 7 0)

/-- A break that begins on a SPATIAL slot; a break that has begun gathers later events (R284). -/
def Slot.startBreak (x : Slot) (b : Breaking) : Slot :=
  if x.state = .spatial && x.breaking.isNone then { x with breaking := some b } else x

/-- The slots a halted strand owns: a SPATIAL one is broken with cause HALT, a TEMPORAL one returns to BROKEN (R284). -/
def haltSlot (k time : Nat) (e : Nat × Slot) : Nat × Slot :=
  if e.2.state ≠ .free ∧ e.2.owner = k then
    match e.2.state with
    | .spatial =>
      (e.1, e.2.startBreak { cause := 5, node := 0, queue := 0, vcause := 0, stval := 0, pages := [], time := time })
    | .temporal => (e.1, { e.2 with state := .broken, resume := false })
    | _ => e
  else e

/-- The double fault of R100: shadow registers, the second fault's cause, a DOUBLE_FAULT record, and the strand HALTED. Its other
state is kept; its vector words are gone by then, since a trap waits for them (R225). -/
def State.doubleFault (s : State) (c k : Nat) (f : HeldFault) : State :=
  let t := s.strand c k
  let sh := shadowCause t
  let (addr, s1) := s.writeRecord c
    { kind := fDoubleFault, flags := 4, who := k, vcause := f.exc.vcause, stval := f.exc.stval, pc := f.pc, aux0 := sh,
      aux1 := t.sepc, pages := [], time := f.time }
  let s2 := s1.onStrand c k fun t =>
    { t with vshcause := sh, vshaddr := t.sepc, scause := f.exc.cause, vcause := f.exc.vcause, stval := f.exc.stval,
             sepc := f.pc &&& ~~~3#64, vfrec := addr, status := .halted, wait := none, resv := none, fault := none,
             request := none, kept := false }
  s2.onCore c fun r => { r with slots := r.slots.map (haltSlot k (s.timeFor c k)) }

/-- The fault waits for room in the ring, and with it the strand (R242). -/
def State.waitRing (s : State) (c k : Nat) (f : HeldFault) : State := s.onStrand c k fun t => { t with fault := some f }

/-- Posts RINGFULL to a strand whose fault has waited for room (R242). -/
def State.afterRing (s : State) (c k : Nat) : State :=
  match (s.strand c k).fault with
  | some f => s.notify c k 5 (word (s.time - f.since))
  | none => s

/-- Takes a fault of strand `k` of core `c` (R87): a double fault while TW is 1 (R100); otherwise the record the fault needs (R243)
and then trap entry. A fault that needs room in the ring waits for it (R242). -/
def State.takeFault (s : State) (c k : Nat) (f : HeldFault) : State :=
  let d := dieOf c
  if (s.strand c k).tw then
    if s.ringRoom d 1 then (s.afterRing c k).doubleFault c k f else s.waitRing c k f
  else if hasRecord f.exc then
    let r := recordOf k f.pc f.exc f.time
    if s.ringRoom d (1 + continuations r.pages.length) then
      let (addr, s1) := (s.afterRing c k).writeRecord c r
      s1.onStrand c k fun t => { t.enter f.pc f.exc with vfrec := addr }
    else s.waitRing c k f
  else s.onStrand c k fun t => t.enter f.pc f.exc

/-- Exception `e` at `pcF`, raised now. -/
def State.faultNow (s : State) (c k : Nat) (pcF : Word) (e : Exc) : HeldFault :=
  { pc := pcF, exc := e, time := s.timeFor c k, since := s.time }

/-- Takes exception `e` at `pcF` on strand `k` of core `c`; the time of a record counts as one that the strand has read (R274). -/
def State.takeTrap (s : State) (c k : Nat) (pcF : Word) (e : Exc) : State :=
  (if (s.strand c k).tw || hasRecord e then s.noteTime c k else s).takeFault c k (s.faultNow c k pcF e)

/-- The acting strand takes `e` at its own pc. -/
def State.raise (s : State) (e : Exc) : State := s.takeTrap s.who.1 s.who.2 s.cur.pc e

/-- SRET in S mode (R85): pc, mode and SIE restored, SPIE set, SPP and TW cleared. -/
def Strand.sret (t : Strand) : Strand :=
  let st := setBits t.sstatus 1 1 (bits t.sstatus 5 5)
  let st := setBits st 5 5 1
  let st := setBits st 8 8 0
  { t with pc := t.sepc, priv := if bit t.sstatus 8 then .s else .u, sstatus := st, tw := false,
           instret := t.instret + 1 }.count 1 1

/-- At the owning strand's first SRET after a break trap, its slots in service enter TEMPORAL (R27, R282). -/
def sretSlot (k : Nat) (e : Nat × Slot) : Nat × Slot :=
  if e.2.owner = k && e.2.sv && e.2.state = .broken then (e.1, { e.2 with sv := false, state := .temporal })
  else if e.2.owner = k && e.2.away then (e.1, { e.2 with away := false })
  else e

end Sys2Proof.Machine
end

