-- ==== Sys2Proof/Machine/Csr.lean ====
section
/-!
DEFINITION. The control and status registers: what each reads as, what a write of each does, and the checks of an access
(R83, R84, R89 to R99, R109, R114 to R119, R319).
-/
namespace Sys2Proof.Machine

/-! ## Pins and the translation walker (R163, R164) -/

/-- The key of a page's pin count. -/
def pinKey : PPage → Nat
  | .dev n => 2 * n
  | .host w p => 2 * (w * 2 ^ 32 + p) + 1

/-- Pins each page of a list once more. -/
def State.pinAll (s : State) (ps : List PPage) : State :=
  { s with pins := ps.foldl (fun m p => SMap.set 0 m (pinKey p) (SMap.get 0 m (pinKey p) + 1)) s.pins }

/-- Takes one pin off each page of a list. -/
def State.unpinAll (s : State) (ps : List PPage) : State :=
  { s with pins := ps.foldl (fun m p => SMap.set 0 m (pinKey p) (SMap.get 0 m (pinKey p) - 1)) s.pins }

/-- A page as the translation walker of die `d` finds it: a leaf that it holds, unless that has been dropped, and otherwise a
walk whose leaf it then holds (R163). -/
def State.dieLeaf (s : State) (d : Nat) (root va : Word) : Option Leaf × State :=
  let walked : Option Leaf × State :=
    match s.walk root va with
    | some g => (some g, (s.walkTouch root va).setDie d { s.die d with walker := g :: (s.die d).walker })
    | none => (none, s.walkTouch root va)
  match findLeaf root (bits va 56 12) (s.die d).walker with
  | some f => if decide (s.walk root va ≠ some f) && Config.evicted (2 * s.tick) then walked else (some f, s)
  | none => walked

/-- What a range of pages gives: its pages in order; or the first failing page forbidden, with the failed permission; or the
missing pages, at most 16, when the first failing page is missing (R99, R121). -/
inductive RangeResult where
  | ok (pages : List PPage)
  | forbidden (page : Word) (detail : Nat)
  | missing (pages : List Word)
  deriving DecidableEq, Repr

/-- Whether a leaf grants what `needs` asks of it: none when it does, otherwise the detail of PROTECTION. -/
abbrev LeafCheck := Leaf → Option Nat

/-- Walks `n` pages from `va` in ascending order (R99, R121): `acc` holds the pages found, `miss` the missing ones. A leaf
that lacks D for a write permission counts as missing (R259). -/
def State.walkRange (d : Nat) (root : Word) (present : Leaf → Bool) (check : LeafCheck) :
    Nat → Word → State → List PPage → List Word → RangeResult × State
  | 0, _, s, acc, miss => (if miss = [] then .ok acc.reverse else .missing miss.reverse, s)
  | n + 1, va, s, acc, miss =>
    match s.dieLeaf d root va with
    | (some f, s') =>
      if present f then
        match miss, check f with
        | [], some detail => (.forbidden va detail, s')
        | _, _ => State.walkRange d root present check n (va + 4096) s' (f.page :: acc) miss
      else State.walkRange d root present check n (va + 4096) s' acc (if miss.length < 16 then va :: miss else miss)
    | (none, s') =>
      State.walkRange d root present check n (va + 4096) s' acc (if miss.length < 16 then va :: miss else miss)

/-- The exception of a range that failed. -/
def RangeResult.exc : RangeResult → Option Exc
  | .ok _ => none
  | .forbidden page detail => some (devFault fProtection detail page)
  | .missing pages => some { devFault fPageFault pages.length (pages.headD 0) with pages := pages }

/-- The pages of a range that was found. -/
def RangeResult.pages : RangeResult → List PPage
  | .ok ps => ps
  | _ => []

/-- The trap-safe range asks read, write and execute for S mode, in that order (R99). -/
def trapSafeCheck (sum : Bool) (f : Leaf) : Option Nat :=
  if !f.r || (f.u && !sum) then some 0 else if !f.w || (f.u && !sum) then some 1 else if !f.x || f.u then some 2 else none

/-! ## Reading -/

/-- sip: SSIP as stored, STIP while time ≥ stimecmp, SEIP while a notice is pending (R83, R88). -/
def State.sip (s : State) (c k : Nat) : Word :=
  let t := s.strand c k
  word ((if t.ssip then 2 else 0) + (if t.stimecmp.toNat ≤ s.timeFor c k then 32 else 0) +
    (if t.notices = [] then 0 else 512))

/-- Full/empty bits of registers `lo` to `lo + n − 1` (R109). -/
def feBits (t : Strand) (lo : Nat) : Nat → Nat
  | 0 => 0
  | n + 1 => (if SMap.get false t.feClear lo then 0 else 1) + 2 * feBits t (lo + 1) n

/-- What a CSR reads as on strand `k` of core `c`; none where R83, R94 or R319 names no such CSR. -/
def State.csrValue (s : State) (c k : Nat) (a : Nat) : Option Word :=
  let t := s.strand c k
  match a with
  | 0x100 => some t.sstatus
  | 0x104 => some t.sie
  | 0x105 => some t.stvec
  | 0x106 => some t.scounteren
  | 0x140 => some t.sscratch
  | 0x141 => some t.sepc
  | 0x142 => some t.scause
  | 0x143 => some t.stval
  | 0x144 => some (s.sip c k)
  | 0x14D => some t.stimecmp
  | 0x180 => some t.satp
  | 0x5C0 => some t.vcause
  | 0x5C1 => some t.vfrec
  | 0x5C2 => some t.vshcause
  | 0x5C3 => some t.vshaddr
  | 0x5C4 => some t.vtsafe
  | 0x5C5 => some (if t.tw then 1 else 0)
  | 0x800 => some (t.modes.i.setWidth 64)
  | 0x801 => some (t.modes.f.setWidth 64)
  | 0x802 => some (t.modes.m.setWidth 64)
  | 0x803 => some (t.modes.x.setWidth 64)
  | 0x804 => some (t.vl.setWidth 64)
  | 0x805 => some (t.vstart.setWidth 64)
  | 0x806 => some (t.vflags.setWidth 64)
  | 0x807 => some t.voorva
  | 0x808 => some (t.vslip.setWidth 64)
  | 0x809 => some (word (feBits t 0 32))
  | 0x80A => some (word (feBits t 32 16))
  | 0xC00 => some (word (s.core c).cycle)
  | 0xC01 => some (word (s.timeFor c k))
  | 0xC02 => some t.instret
  | 0xCC0 => some (word k)
  | 0xCC1 => some (word c)
  | 0xCC2 => some (word ((s.core c).region.getD 0))
  | 0xCC3 => some ((s.core c).jobid.setWidth 64)
  | _ => none

/-- How an access to CSR `a` is refused, for a strand in mode `p` (R83, R94, R319): none when it may go on. -/
def csrRefusal (t : Strand) (w : BitVec 32) (a : Nat) (isWrite exists_ : Bool) : Option Exc :=
  let stval : Word := w.setWidth 64
  if 0x5C0 ≤ a && a ≤ 0x5FF && t.priv = .u then some (devFault fPrivilege 0 stval)
  else if !exists_ then some (exc 2 stval)
  else if isWrite && a / 1024 = 3 then some (exc 2 stval)
  else if t.priv = .u && a / 256 % 4 = 1 then some (exc 2 stval)
  else if t.priv = .u && 0xC00 ≤ a && a ≤ 0xC02 && !bit t.scounteren (a - 0xC00) then some (exc 2 stval)
  else none

/-! ## Writing -/

/-- A write that a WZ field or a range refuses (R8, R319). -/
def badCsr (w : BitVec 32) : Exc := devFault fIllegalOperand 5 (w.setWidth 64)

/-- The writable fields of sstatus: MXR, SUM, SPP, SPIE, SIE (R84). -/
def sstatusMask : Word := 0xC0122

/-- A mode register value is refused for a guard of 12 to 14, an rnd of 5 to 7 or a reserved bit (R119). -/
def badMode (v : Word) : Bool :=
  bits v 63 17 != 0 || (12 ≤ bits v 15 12 && bits v 15 12 ≤ 14) || 4 < bits v 10 8

/-- Replaces mode register `g`: 0 i, 1 f, 2 m, 3 x. -/
def Modes.put (ms : Modes) (g : Nat) (v : BitVec 32) : Modes :=
  match g with
  | 0 => { ms with i := v }
  | 1 => { ms with f := v }
  | 2 => { ms with m := v }
  | _ => { ms with x := v }

/-- Mode register `g`. -/
def Modes.at (ms : Modes) (g : Nat) : BitVec 32 :=
  match g with
  | 0 => ms.i
  | 1 => ms.f
  | 2 => ms.m
  | _ => ms.x

/-- A write of vtsafe (R99): with V = 1 every page of the range is translated and pinned, or the write faults with no page
pinned and the old value kept; with V = 0 the range is unpinned. DESIGN CHOICE (log 124): a write with V = 1 over a range that is already
registered pins the new range and unpins the old one. -/
def State.writeVtsafe (s : State) (c k : Nat) (w : BitVec 32) (v : Word) : Except Exc Unit × State :=
  if bits v 15 5 != 0 then (.error (badCsr w), s)
  else
    let t := s.strand c k
    if bit v 4 then
      let base : Word := word (bits v 63 16 * 2 ^ 16)
      let (r, s1) := State.walkRange (dieOf c) t.satp (fun f => f.d || !f.w) (trapSafeCheck (bit t.sstatus 18))
        (bits v 3 0 + 1) base s [] []
      match r.exc with
      | some e => (.error e, s1)
      | none =>
        let s2 := (s1.pinAll r.pages).unpinAll t.vtsafePages
        (.ok (), s2.onStrand c k fun t => { t with vtsafe := v, vtsafePages := r.pages })
    else
      let s1 := s.unpinAll t.vtsafePages
      (.ok (), s1.onStrand c k fun t => { t with vtsafe := v, vtsafePages := [] })

/-- A write of a CSR that stands in its strand alone: the value it leaves, or the refusal of R119, R319 and the register's
own rule. A field marked RO ignores the write (R8). -/
def csrPut (t : Strand) (w : BitVec 32) (a : Nat) (v : Word) : Except Exc Strand :=
  let bad : Except Exc Strand := .error (badCsr w)
  match a with
  | 0x100 => .ok { t with sstatus := (t.sstatus &&& ~~~sstatusMask) ||| (v &&& sstatusMask) }
  | 0x104 => .ok { t with sie := v &&& 0x222 }
  | 0x105 => .ok { t with stvec := if 2 ≤ bits v 1 0 then v &&& ~~~3#64 else v }
  | 0x106 => .ok { t with scounteren := v &&& 7 }
  | 0x140 => .ok { t with sscratch := v }
  | 0x141 => .ok { t with sepc := v &&& ~~~3#64 }
  | 0x142 => .ok { t with scause := v }
  | 0x143 => .ok { t with stval := v }
  | 0x144 => .ok { t with ssip := bit v 1 }
  | 0x14D => .ok { t with stimecmp := v }
  | 0x5C0 => if bits v 63 48 != 0 || bits v 19 18 != 0 || bits v 15 8 != 0 then bad else .ok { t with vcause := v }
  | 0x5C5 => if bits v 63 1 != 0 then bad else .ok (if bit v 0 then { t with tw := false } else t)
  | 0x800 => if badMode v then bad else .ok { t with modes := t.modes.put 0 (v.setWidth 32) }
  | 0x801 => if badMode v then bad else .ok { t with modes := t.modes.put 1 (v.setWidth 32) }
  | 0x802 => if badMode v then bad else .ok { t with modes := t.modes.put 2 (v.setWidth 32) }
  | 0x803 => if badMode v then bad else .ok { t with modes := t.modes.put 3 (v.setWidth 32) }
  | 0x804 => if 2048 < v.toNat then bad else .ok { t with vl := v.setWidth 12 }
  | 0x805 => if 2047 < v.toNat then bad else .ok { t with vstart := v.setWidth 11 }
  | 0x806 => if bits v 63 8 != 0 then bad else .ok { t with vflags := v.setWidth 8 }
  | 0x807 => if bits v 43 42 != 0 then bad else .ok { t with voorva := v }
  | 0x808 => if v = 0 || 32 < v.toNat then bad else .ok { t with vslip := v.setWidth 6 }
  | _ => .ok t

/-- A write of a CSR on strand `k` of core `c`. -/
def State.csrWrite (s : State) (c k : Nat) (w : BitVec 32) (a : Nat) (v : Word) : Except Exc Unit × State :=
  if a = 0x5C4 then s.writeVtsafe c k w v
  else
    match csrPut (s.strand c k) w a v with
    | .ok t => (.ok (), s.setStrand c k t)
    | .error e => (.error e, s)

/-- Every vector word of the strand has completed: none is queued, and none still walks. -/
def Strand.drained (t : Strand) : Bool := t.lq = [] && t.aq = [] && t.sq = [] && t.walks = []

/-- Every older vector word of the acting strand has completed (R90, R92). -/
def State.drained (s : State) : Bool := s.cur.drained

/-- vflags, voorva and vslip: an instruction on one of them takes effect after every older vector word has completed (R90, R92). -/
def afterVectorCsr (a : Nat) : Bool := a = 0x806 || a = 0x807 || a = 0x808

/-- One Zicsr instruction (R319) of the acting strand: `f` gives the value to write from the old one, none when nothing is
written; the old value goes to `rd`. -/
def csrInstr (w : BitVec 32) (rd : BitVec 5) (csr : BitVec 12) (f : Option (Word → Word)) (s : State) : State :=
  let c := s.who.1
  let k := s.who.2
  let a := csr.toNat
  let old := s.csrValue c k a
  match csrRefusal s.cur w a f.isSome old.isSome with
  | some e => s.raise e
  | none =>
    if afterVectorCsr a && !s.drained then s
    else
      let v := old.getD 0
      let s0 := if a = 0xC01 then s.noteTime c k else s
      match f with
      | none => scalar rd v s0
      | some g =>
        match s0.csrWrite c k w a (g v) with
        | (.ok (), s') => scalar rd v s'
        | (.error e, s') => s'.raise e

/-- The word of a bare CSR write, as the rows for a CSR write alone give it in stval: CSRRW x0, csr, x0. -/
def csrWord (a : Nat) : BitVec 32 := encodeI 0x73 1 0 0 (BitVec.ofNat 12 a)

/-- A CSR write on its own: the checks of the access and the write, with the pc left where it stands. -/
def csrEvent (a : Nat) (v : Word) (s : State) : State :=
  let c := s.who.1
  let k := s.who.2
  match csrRefusal s.cur (csrWord a) a true (s.csrValue c k a).isSome with
  | some e => s.raise e
  | none =>
    if afterVectorCsr a && !s.drained then s
    else
      match s.csrWrite c k (csrWord a) a v with
      | (.ok (), s') => s'
      | (.error e, s') => s'.raise e

def execVflagsWrite (v : Word) (s : State) : Host.Outcome State Fault Refusal := finish (csrEvent 0x806 v s)

def execVoorvaWrite (v : Word) (s : State) : Host.Outcome State Fault Refusal := finish (csrEvent 0x807 v s)

def execVslipWrite (v : Word) (s : State) : Host.Outcome State Fault Refusal := finish (csrEvent 0x808 v s)

def execVlenWrite (v : Word) (s : State) : Host.Outcome State Fault Refusal := finish (csrEvent 0x804 v s)

def execVstartWrite (v : Word) (s : State) : Host.Outcome State Fault Refusal := finish (csrEvent 0x805 v s)

def execVmodeWrite (g : BitVec 2) (v : Word) (s : State) : Host.Outcome State Fault Refusal :=
  finish (csrEvent (0x800 + g.toNat) v s)

def execVtwinWrite (v : Word) (s : State) : Host.Outcome State Fault Refusal := finish (csrEvent 0x5C5 v s)

def execVtsafeWrite (v : Word) (s : State) : Host.Outcome State Fault Refusal := finish (csrEvent 0x5C4 v s)

def execStimecmpWrite (v : Word) (s : State) : Host.Outcome State Fault Refusal := finish (csrEvent 0x14D v s)

def execCsrWrite (csr : BitVec 12) (v : Word) (s : State) : Host.Outcome State Fault Refusal :=
  finish (csrEvent csr.toNat v s)

def execCsrrw (rd : BitVec 5) (csr : BitVec 12) (rs1 : BitVec 5) (s : State) : Host.Outcome State Fault Refusal :=
  finish (csrInstr (encodeI 0x73 1 rd rs1 csr) rd csr (some fun _ => s.cur.readX rs1) s)

def execCsrrs (rd : BitVec 5) (csr : BitVec 12) (rs1 : BitVec 5) (s : State) : Host.Outcome State Fault Refusal :=
  finish (csrInstr (encodeI 0x73 2 rd rs1 csr) rd csr
    (if rs1 = 0 then none else some fun old => old ||| s.cur.readX rs1) s)

def execCsrrc (rd : BitVec 5) (csr : BitVec 12) (rs1 : BitVec 5) (s : State) : Host.Outcome State Fault Refusal :=
  finish (csrInstr (encodeI 0x73 3 rd rs1 csr) rd csr
    (if rs1 = 0 then none else some fun old => old &&& ~~~(s.cur.readX rs1)) s)

def execCsrrwi (rd : BitVec 5) (csr : BitVec 12) (rs1 : BitVec 5) (s : State) : Host.Outcome State Fault Refusal :=
  finish (csrInstr (encodeI 0x73 5 rd rs1 csr) rd csr (some fun _ => rs1.setWidth 64) s)

def execCsrrsi (rd : BitVec 5) (csr : BitVec 12) (rs1 : BitVec 5) (s : State) : Host.Outcome State Fault Refusal :=
  finish (csrInstr (encodeI 0x73 6 rd rs1 csr) rd csr
    (if rs1 = 0 then none else some fun old => old ||| rs1.setWidth 64) s)

def execCsrrci (rd : BitVec 5) (csr : BitVec 12) (rs1 : BitVec 5) (s : State) : Host.Outcome State Fault Refusal :=
  finish (csrInstr (encodeI 0x73 7 rd rs1 csr) rd csr
    (if rs1 = 0 then none else some fun old => old &&& ~~~(rs1.setWidth 64)) s)

end Sys2Proof.Machine
end

