-- ==== Sys2Proof/Machine/Fabric.lean ====
section
/-!
DEFINITION. Router tag tables (R256, R257), the Herez ports of the I/O dies, and the flits that leave by them (R472, R473, R475, R481).
-/
namespace Sys2Proof.Machine

/-! ## Tag tables (R256, R257) -/

/-- The phase pointer of tag `t` in router `r`: core `r`'s below 256, and port group `r - 256`'s from there on. A pointer of a released tag
is undefined: it is where the released circuit left it, or 0 (R10, R256, R257). -/
def State.phase (s : State) (r t : Nat) : Nat :=
  let lost := SMap.get 0 s.phaseLost t
  if lost ≠ 0 && Config.undef (lost * 2 ^ 20 + 500000 + 256 * r + t) = 0 then 0 else SMap.get 0 s.phases (256 * r + t)

/-- The entry of tag `t` that is in force in router `r` (R256). -/
def State.tagEntry (s : State) (r t : Nat) : Word := SMap.get 0 s.tags (2048 * r + 8 * t + s.phase r t)

/-- A flit of tag `t` at router `r`: it goes on by the entry in force, and where that is invalid it is dropped and counted (R256). -/
def State.routed (s : State) (r t : Nat) (go : State → State) : State :=
  if bit (s.tagEntry r t) 63 then go s else s.countErr errFlitTag r

/-- An ADVANCE leaves router `r`, whose pointer moves to the next phase, or to phase 0 after a last one (R257). -/
def State.passAdvance (s : State) (r t : Nat) : State :=
  { s with phases := s.phases.put (256 * r + t) (if bit (s.tagEntry r t) 61 then 0 else (s.phase r t + 1) % 8),
           advPassed := s.advPassed.put (256 * r + t) (SMap.get 0 s.advPassed (256 * r + t) + 1) }

/-! ## Ports and their masks (R256, R472) -/

/-- The router of port group `g` of the I/O dies. -/
def groupRouter (g : Nat) : Nat := 256 + g

/-- The port group through which tag `t` leaves the device. -/
def exitGroup (t : Nat) : Nat := Config.portGroup t % 8

/-- A Herez port. -/
def State.herezPort (s : State) (p : Nat) : Herez := SMap.get Herez.reset s.herez p

/-- A port of the device is UP. -/
def State.upPort (s : State) (p : Nat) : Bool := p < 144 && (s.herezPort p).link = .up

/-- The ports of group `g` that the mask of an entry names: its bits are the local numbers. -/
def maskPorts (g : Nat) (w : Word) : List Nat := ((List.range 18).filter (bit w ·)).map (18 * g + ·)

/-- The lowest-numbered port that is UP, of the mask of tag `t` under phase `f`. -/
def State.lowestUp (s : State) (t f : Nat) : Option Nat :=
  (maskPorts (exitGroup t) (SMap.get 0 s.tags (2048 * groupRouter (exitGroup t) + 8 * t + f))).find? s.upPort

/-- Tag `t` under phase `f` is bound to the lowest-numbered port of its mask that is UP, if one is. -/
def State.bindPhase (s : State) (t f : Nat) : State :=
  match s.lowestUp t f with
  | some p => { s with bound := s.bound.put (8 * t + f) p }
  | none => s

/-- CHCFG reserves the circuit of a tag: each of its phases is bound to a port (R256). -/
def State.bindTag (s : State) (t : Nat) : State := (List.range 8).foldl (fun (u : State) f => u.bindPhase t f) s

/-- The ports by which flits of the circuit of tag `t` leave the device now: every port of the mask where MC is 1, and else the bound one. -/
def State.circuitPorts (s : State) (t : Nat) : List Nat :=
  let w := s.tagEntry (groupRouter (exitGroup t)) t
  if bit w 62 then maskPorts (exitGroup t) w
  else ((s.bound.find? fun e => e.1 = 8 * t + s.phase (groupRouter (exitGroup t)) t).map (·.2)).toList

/-- A circuit that leaves the device has a port that is UP; without one its producer stalls for credit (R475). An invalid entry drops its
flits. -/
def State.linked (s : State) (t : Nat) : Bool :=
  !bit (s.tagEntry (groupRouter (exitGroup t)) t) 63 || (s.circuitPorts t).any s.upPort

/-! ## Flits (R473, R481) -/

/-- `n` bytes, zeros standing after the last. -/
def fixed (n : Nat) (bs : List Byte) : List Byte := (bs ++ List.replicate n 0).take n

/-- The 8 bytes of a flit's header. -/
def flitHeader (cls vc tag seq : Nat) : List Byte := toBytes (cls + 8 * (vc % 32) + 2 ^ 8 * (tag % 256) + 2 ^ 16 * (seq % 2 ^ 32)) 8

/-- The 256 bytes of a flit on the link of port `p`: header, encrypted payload and tag under the port's transmit key, and parity. -/
def State.wire (s : State) (p : Nat) (f : SentFlit) : List Byte :=
  let head := flitHeader f.cls (Config.channelOf f.cls f.tag) f.tag f.seq
  let body := head ++ fixed 232 (Config.sealFlit (SMap.get (0, 0) s.linkKeys p).1 head (fixed 216 f.data))
  body ++ fixed 16 (Config.fecParity body)

/-- A flit leaves on its port, or waits in the retry buffer for the link to come UP. -/
def State.transmit (s : State) (p : Nat) (f : SentFlit) : State := if s.upPort p then s.emit (.flit p (s.wire p f)) else s

/-- A new flit for port `p` takes the next sequence number of its link, and stays in the retry buffer until it is acknowledged. -/
def State.sendFlit (s : State) (p cls tag phase : Nat) (data : List Byte) : State :=
  let x := s.herezPort p
  let f : SentFlit := { seq := x.sendSeq % 2 ^ 32, cls := cls, tag := tag, phase := phase, data := data }
  ({ s with herez := s.herez.put p { x with sendSeq := x.sendSeq + 1, retry := x.retry ++ [f] } }).transmit p f

/-- A TOKEN flit of tag `t` reaches the port group and leaves the device by the entry in force there (R256). -/
def State.sendOut (s : State) (t : Nat) (data : List Byte) : State :=
  s.routed (groupRouter (exitGroup t)) t fun u =>
    (u.circuitPorts t).foldl (fun (v : State) p => v.sendFlit p 1 t (u.phase (groupRouter (exitGroup t)) t) data) u

/-- MRSP flits of a response to an access at `addr` under tag `t`, spread by address over the ports of the mask that are UP. -/
def State.respond (s : State) (t addr : Nat) (data : List Byte) : State :=
  s.routed (groupRouter (exitGroup t)) t fun u =>
    let ports := maskPorts (exitGroup t) (u.tagEntry (groupRouter (exitGroup t)) t)
    let up := ports.filter u.upPort
    let ways := if up = [] then ports else up
    if ways = [] then u
    else (List.range ((data.length + 215) / 216)).foldl (fun (v : State) i =>
      v.sendFlit (ways.getD (Config.spread (addr + 216 * i) % ways.length) (18 * exitGroup t)) 3 t (u.phase (groupRouter (exitGroup t)) t)
        ((data.drop (216 * i)).take 216)) u

/-- How many of the first bytes of two lists differ. -/
def differing (a b : List Byte) : Nat := ((a.zip b).filter fun x => x.1 ≠ x.2).length

/-- The 240 bytes before the parity of a received flit: as they came, or as the decoder corrects them, where no more than 8 bytes of the flit
are in error (R473). -/
def corrected (flit : List Byte) : Option (List Byte) :=
  let ok (x : List Byte) : Bool := x.length = 240 && differing (x ++ fixed 16 (Config.fecParity x)) flit ≤ 8
  if flit.length ≠ 256 then none
  else if ok (flit.take 240) then some (flit.take 240)
  else if ok (Config.fecDecode flit) then some (Config.fecDecode flit)
  else none

/-- The payload of a received flit whose tag verifies. -/
def State.opened (s : State) (p : Nat) (body : List Byte) : Option (List Byte) := Config.openFlit (SMap.get (0, 0) s.linkKeys p).2 body

/-- An acknowledgement: the peer has received every flit before sequence number `n`. -/
def Herez.acked (x : Herez) (n : Nat) : Herez :=
  if x.retry.any (fun f => f.seq = n) || n = x.sendSeq % 2 ^ 32 then { x with retry := x.retry.dropWhile fun f => f.seq ≠ n } else x

/-- A port sends what its retry buffer holds again, in order. -/
def State.replay (s : State) (p : Nat) : State := (s.herezPort p).retry.foldl (fun (u : State) f => u.transmit p f) s

/-- Where a flit of a port that is DOWN goes: a CFG or TOKEN flit to the port that its circuit is bound to now, but a copy of a multicast
stays with its port; any other to an UP port of the mask (R475). -/
def State.newPort (s : State) (p : Nat) (f : SentFlit) : Option Nat :=
  let w := SMap.get 0 s.tags (2048 * groupRouter (p / 18) + 8 * f.tag + f.phase)
  (if f.cls ≤ 1 then (if bit w 62 then none else (s.bound.find? fun e => e.1 = 8 * f.tag + f.phase).map (·.2))
    else (maskPorts (p / 18) w).find? s.upPort).filter (· ≠ p)

/-- The unacknowledged flits of a port that is DOWN are replayed by the ports to which they move. -/
def State.moveFlits (s : State) (p : Nat) : State :=
  (s.herezPort p).retry.foldl (fun (u : State) f =>
    match u.newPort p f with
    | none => u
    | some q =>
      let x := u.herezPort p
      ({ u with herez := u.herez.put p { x with retry := x.retry.erase f } }).sendFlit q f.cls f.tag f.phase f.data) s

/-- The circuits of some tags whose port is DOWN, or that have none yet, move to the lowest-numbered port of their mask that is UP (R475). -/
def State.rebind (s : State) (ts : List Nat) : State :=
  ts.foldl (fun (u : State) t => (List.range 8).foldl (fun (v : State) f =>
    match v.bound.find? fun e => e.1 = 8 * t + f with
    | some e => if (v.herezPort e.2).link = .down then v.bindPhase t f else v
    | none => v.bindPhase t f) u) s

end Sys2Proof.Machine
end

