-- ==== Sys2Proof/Machine/Operands.lean ====
section
/-!
DEFINITION. Operands of the vector words: modes, guards, elements of vector registers, tokens of queues, and the two ways in
which a word walks its elements, one by one (R104, R210) and strip by strip (R211, R338).
-/
namespace Sys2Proof.Machine

/-! ## Modes (R112, R117) -/

/-- The fields of a mode register. -/
structure Mode where
  t : BitVec 4
  s : BitVec 4
  rnd : BitVec 3
  sat : Bool
  guard : Nat
  ginv : Bool
  deriving DecidableEq, Repr

/-- Splits a mode register (R117). -/
def modeOf (m : BitVec 32) : Mode :=
  { t := m.extractLsb' 0 4, s := m.extractLsb' 4 4, rnd := m.extractLsb' 8 3, sat := m.getLsbD 11,
    guard := (m.extractLsb' 12 4).toNat, ginv := m.getLsbD 16 }

/-- Groups of words (R112). -/
def gI : Nat := 0
def gF : Nat := 1
def gM : Nat := 2
def gX : Nat := 3

/-! ## Who runs a word -/

/-- A strand word, or the firing of node `node` of slot `slot` of core `home`, in SPATIAL state or in the temporal
reading. -/
inductive Runner where
  | strand
  | spatial (home slot node : Nat)
  | temporal (home slot node : Nat)
  deriving DecidableEq, Repr

/-- A queue that a field names: its core (256 for a queue outside the device), its number there, and the queue entry of the
record that links it; for a queue that a circuit carries, the tag of its route, and the level from which a STOP is followed by
ADVANCE (R248, R252). -/
structure QRef where
  field : Nat
  core : Nat
  q : Nat
  entry : Nat
  via : Option Nat := none
  adv : Nat := 15
  deriving DecidableEq, Repr

/-- What a word has at hand when it runs: the registers are those of strand `k` of core `c`, tiles and buffers those of core
`place`; VL, modes and x values as program order, or CHCFG, gives them (R29, R116, R250). -/
structure Env where
  c : Nat
  k : Nat
  place : Nat
  vl : Nat
  vstart : Nat
  modes : Modes
  x : SMap Word
  raw : BitVec 32
  run : Runner
  /-- Position of the first element within its fibre, for a node (R397, R398). -/
  base : Nat
  ins : List QRef
  outs : List QRef
  /-- FENCEE words of the strand before the word (R181). -/
  fenceE : Nat := 0
  /-- Position of a strand's word in the program (R23). -/
  pos : Nat := 0
  deriving DecidableEq, Repr

/-- Whether a strand runs the word. -/
def Env.isStrand (e : Env) : Bool := e.run = .strand

/-- The mode that group `g` reads. -/
def Env.mode (e : Env) (g : Nat) : Mode := modeOf (e.modes.at g)

/-- The value of an X-class field (R336). -/
def Env.xval (e : Env) (f : BitVec 6) : Word := if f = 0 then 0 else SMap.get 0 e.x f.toNat

/-- The position of element i that places its scale: i for a strand word, and the token's place within its fibre for a node
(R397, R398). -/
def Env.place_ (e : Env) (i : Nat) : Nat := if e.isStrand || e.ins = [] then i else e.base + (i - e.vstart)

/-- Where a word of effective length `L` begins: at VSTART, and for a node with inputs at the place of its next token within a
strip of its fibre, so that how its firings are cut never matters (R31, R210). -/
def Env.from_ (e : Env) (L : Nat) : Env :=
  if e.isStrand || e.ins = [] || L = 0 then e else { e with vstart := e.base % L }

/-- The queue that source field `f` names. -/
def Env.inQ (e : Env) (f : BitVec 6) : QRef :=
  match e.ins.find? (fun r => r.field = f.toNat) with
  | some r => r
  | none => { field := f.toNat, core := e.c, q := f.toNat - 48, entry := 0 }

/-- The queue that destination field `f` names. -/
def Env.outQ (e : Env) (f : BitVec 6) : QRef :=
  match e.outs.find? (fun r => r.field = f.toNat) with
  | some r => r
  | none => { field := f.toNat, core := e.c, q := f.toNat - 48, entry := 0 }

/-- How a word ends: it has run, `n` elements or steps long; it cannot run now; or it faults at element `k`. -/
inductive Done where
  | ok (n : Nat)
  | stall
  | trap (k : Nat) (e : Exc)
  deriving DecidableEq, Repr

/-- The meaning of a vector word. -/
abbrev Sem := Env → State → Done × State

/-! ## Vector registers (R102, R104 to R106) -/

/-- A free value of this step. -/
def State.free (s : State) (j : Nat) : Word := Config.undef (s.tick * 2 ^ 20 + j)

/-- An undefined value of a strand: zero, or a value that its job has written (R10, log 9). -/
def Strand.undefined (t : Strand) (v : Word) : Word := if t.written.contains v then v else 0

/-- A mask register of a strand, of undefined contents (R10), from the free values of this step. -/
def freeMask (s : State) (t : Strand) (j : Nat) : BitVec 2048 :=
  (List.range 32).foldl (fun v i => v * 2 ^ 64 + (t.undefined (s.free (90000 + 32 * j + i))).toNat) 0 |> BitVec.ofNat 2048

/-- The high-water mark of register `r`. -/
def Strand.mark (t : Strand) (r : Nat) : Nat := SMap.get 0 t.hwm r

/-- Slot `sl` of register `r`, read in role `role` of the word: undefined at or above the mark (R106). -/
def readSlot (s : State) (t : Strand) (role r sl : Nat) : Nat :=
  if sl < t.mark r then (SMap.get 0 t.v (128 * r + sl)).toNat else (t.undefined (s.free (8192 * role + 128 * r + sl))).toNat

/-- READ_ELEM (R102). -/
def readElem (s : State) (t : Strand) (role r : Nat) (ty : BitVec 4) (i : Nat) : Nat :=
  let w := width ty
  readSlot s t role r (i * w / 64) / 2 ^ (i * w % 64) % 2 ^ lwidth ty

/-- A slot from its elements, `n` of them from place `j` on: a new value, or the bits that the slot held. -/
def packSlot (w old : Nat) : Nat → Nat → List (Option Nat) → Nat
  | 0, _, _ => 0
  | n + 1, j, xs =>
    (match xs.headD none with
      | some x => x % 2 ^ w
      | none => old / 2 ^ (w * j) % 2 ^ w) + 2 ^ w * packSlot w old n (j + 1) xs.tail

/-- Writes slots of register `r` from slot `sl` on, `per` elements in each. -/
def Strand.putSlots (s : State) (r w per : Nat) : Nat → Nat → List (Option Nat) → Strand → Strand
  | 0, _, _, t => t
  | n + 1, sl, xs, t =>
    let v := packSlot w (readSlot s t 3 r sl) per 0 xs
    Strand.putSlots s r w per n (sl + 1) (xs.drop per) { t with v := SMap.set 0 t.v (128 * r + sl) (word v) }

/-- Writes elements `lo` onward of register `r`, those that `xs` gives, and sets the mark (R104, R105): slots that come below
the mark without having been written hold undefined values. -/
def Strand.writeVec (s : State) (t : Strand) (r : Nat) (ty : BitVec 4) (lo : Nat) (xs : List (Option Nat)) (mark : Nat) :
    Strand :=
  let w := width ty
  let per := 64 / w
  let first := min (lo / per) (t.mark r)
  let xs := List.replicate (lo - first * per) none ++ xs
  let n := max ((xs.length + per - 1) / per) (mark - first)
  let t1 := Strand.putSlots s r w per (min n (128 - first)) first xs t
  { t1 with hwm := SMap.set 0 t1.hwm r mark }

/-- ceil(n · WIDTH(t) / 64): the slots that hold `n` elements (R21, R104). -/
def slotsOf (ty : BitVec 4) (n : Nat) : Nat := (n * width ty + 63) / 64

/-- Bit `i` of mask `r` (R111). -/
def Strand.maskBit (t : Strand) (r i : Nat) : Bool := (SMap.get 0 t.m r).getLsbD i

/-- Writes bits `lo` onward of mask `r`, those that `xs` gives. -/
def putMask (m : BitVec 2048) (lo : Nat) : List (Option Nat) → BitVec 2048
  | [] => m
  | x :: xs =>
    let m' : BitVec 2048 := match x with
      | none => m
      | some v =>
        let keep := m.toNat - m.toNat / 2 ^ lo % 2 * 2 ^ lo
        BitVec.ofNat 2048 (keep + v % 2 * 2 ^ lo)
    putMask m' (lo + 1) xs

/-- GUARD(i) (R113). -/
def guardAt (t : Strand) (m : Mode) (i : Nat) : Bool := m.guard = 15 || (t.maskBit m.guard i != m.ginv)

/-- What program order carries, with x register `r` written. -/
def Front.setX (f : Front) (r : Nat) (v : Word) : Front := { f with x := SMap.set 0 f.x r v }

/-- Writes x register `r` when the vector word at program position `pos` completes, here and in every younger word of the strand still
queued and every younger waiting fence, whose snapshots a trap would give back. -/
def Strand.putX (t : Strand) (pos r : Nat) (v : Word) : Strand :=
  if r = 0 then t
  else
    let up : Queued → Queued := fun q => if pos < q.pos then { q with front := q.front.setX r v } else q
    { t with x := SMap.set 0 t.x r v, lq := t.lq.map up, aq := t.aq.map up, sq := t.sq.map up,
             fences := t.fences.map fun f => if pos < f.pos then { f with front := f.front.setX r v } else f }

/-! ## Tokens and queues (R202 to R209, R217, R218) -/

/-- Kinds of token. -/
def kVal : BitVec 2 := 0
def kStop : BitVec 2 := 1
def kDone : BitVec 2 := 2

/-- A token of each kind. -/
def tVal (v : Nat) : Token := { kind := kVal, data := word v }
def tStop (level : Nat) : Token := { kind := kStop, data := word level }
def tDone : Token := { kind := kDone, data := 0 }

/-- STOP or DONE. -/
def Token.ends (t : Token) : Bool := t.kind = kStop || t.kind = kDone

/-- A coordinate and a reference of a fibre token (R217). -/
def Token.coord (t : Token) : Nat := bits t.data 63 32
def Token.ref (t : Token) : Nat := bits t.data 31 0

/-- The tokens of a queue, from the head. -/
def tokensOf : List QItem → List Token
  | [] => []
  | .tok t :: r => t :: tokensOf r
  | .scale _ :: r => tokensOf r

/-- The scale tokens of a queue. -/
def scalesOf : List QItem → List (BitVec 16)
  | [] => []
  | .tok _ :: r => scalesOf r
  | .scale c :: r => c :: scalesOf r

/-- The scale tokens that stand before the head token, and what follows the head token. -/
def leadScales : List QItem → List (BitVec 16)
  | .scale c :: r => c :: leadScales r
  | _ => []
def afterHead : List QItem → List QItem
  | .scale _ :: r => afterHead r
  | .tok _ :: r => r
  | [] => []

/-- Tokens held. -/
def Queue.held (q : Queue) : Nat := (tokensOf q.items).length

/-- The head token. -/
def Queue.head (q : Queue) : Option Token := (tokensOf q.items).head?

/-- Tokens before the first STOP or DONE, and whether one follows them. -/
def Queue.run (q : Queue) : Nat × Bool :=
  let ts := tokensOf q.items
  let n := (ts.takeWhile fun t => !t.ends).length
  (n, n < ts.length)

/-- The subkind of R218 that popping the head token breaks, if any; `pairs` for a consumer that pairs scales (R209). -/
def Queue.violation (q : Queue) (pairs : Bool) : Option Nat :=
  match q.head with
  | none => none
  | some t =>
    let g := q.gram
    let lead := leadScales q.items
    let j := bits t.data 3 0
    let shaped : Bool := 0 < q.n
    let open_ : Bool := g.last.isSome && !g.closed
    if t.kind = 3 then some 1
    else if t.kind = kStop ∧ (j = 15 ∨ bits t.data 63 4 ≠ 0) then some 2
    else if t.kind = kDone ∧ t.data ≠ 0 then some 2
    else if shaped ∧ t.kind = kStop ∧ q.n ≤ j then some 3
    else if shaped ∧ t.kind = kDone ∧ open_ then some 4
    else if shaped ∧ t.kind ≠ kDone ∧ g.closed then some 5
    else if shaped ∧ q.sorted ∧ t.kind = kVal ∧ g.coord.any (fun c => t.coord ≤ c) then some 7
    else if shaped ∧ 0 < q.bound ∧ t.kind = kVal ∧ q.bound ≤ g.count then some 8
    else if pairs ∧ t.kind ≠ kVal ∧ (0 < g.left ∨ lead ≠ []) then some 10
    else if pairs ∧ t.kind = kVal ∧ g.left = 0 ∧ lead = [] then some 10
    else none

/-- Where the grammar stands after the head token. -/
def Queue.gramAfter (q : Queue) (pairs : Bool) (t : Token) : Grammar :=
  let g := q.gram
  if t.kind = kVal then
    let g := { g with last := some 0, coord := some t.coord, count := g.count + 1 }
    if !pairs then g
    else if 0 < g.left then { g with left := g.left - 1 }
    else
      let c := (leadScales q.items).headD 0
      { g with left := (c.extractLsb' 8 5).toNat, scale := c.extractLsb' 0 8 }
  else if t.kind = kStop then
    let j := bits t.data 3 0
    { g with last := some (j + 1), closed := decide (0 < q.n ∧ q.n ≤ j + 1), coord := none, count := 0 }
  else .reset

/-- The queue without its head token (R209): the consumer that pairs scales takes a scale at a block's start, and any other
discards those that stand before the element. -/
def Queue.pop (q : Queue) (pairs : Bool) (t : Token) : Queue :=
  let lead := leadScales q.items
  let keep : List (BitVec 16) :=
    if t.kind = kDone then []
    else if t.kind = kStop then lead
    else if !pairs then []
    else if 0 < q.gram.left then lead
    else lead.tail
  { q with items := keep.map .scale ++ afterHead q.items, gram := q.gramAfter pairs t,
           doneLatch := q.doneLatch && t.kind != kDone, wdRun := 0 }

/-- A violation as an exception: R95 gives stval 0, and vcause.queue names the queue. -/
def malformed (subkind q : Nat) : Exc :=
  { devFault fStreamMalformed subkind 0 with vcause := (devFault fStreamMalformed subkind 0).vcause + word (q * 2 ^ 20) }

/-- A push into a claimed queue counts at its producer node, a pop at its consumer (R266); event 0x06 (R279). -/
def State.countProg (s : State) (e : Env) (key : Nat) : State :=
  match e.run with
  | .strand => s
  | .spatial h n _ | .temporal h n _ =>
    let x := s.slot h n
    s.setSlot h n { x with prog := SMap.set 0 x.prog key (SMap.get 0 x.prog key + 1) }

/-- A word acts on behalf of U mode: its strand is in U mode, or was when it configured the slot (R259). -/
def State.forUser (s : State) (e : Env) : Bool :=
  match e.run with
  | .strand => (s.strand e.c e.k).priv = .u
  | .spatial h n _ | .temporal h n _ => (s.slot h n).user

/-- Notes, as state word 2 of the node that runs a word, the mark that its destination register takes should the strip that it is
writing end here; 0 once the strip is whole. -/
def State.noteStrip (s : State) (e : Env) (mark : Nat) : State :=
  match e.run with
  | .strand => s
  | .spatial h n nd | .temporal h n nd =>
    let y := s.slot h n
    let x := SMap.get NodeState.reset y.nodes nd
    s.setSlot h n { y with nodes := y.nodes.put nd { x with regs := SMap.set 0 x.regs 2 (word mark) } }

/-- Counts the tokens of flights toward queue `q`. -/
def airborne (fs : List Flight) (q : Nat) : Nat :=
  (fs.filter fun f => f.q = q && (match f.item with | .tok _ => true | .scale _ => false)).length

/-- Room of a queue for tokens, those on their way included (R205, R206). The credits of a circuit that leaves the device are
returned by its peer, a free value, and it has none while no port of its mask is UP (R475). -/
def State.roomIn (s : State) (r : QRef) : Nat :=
  if r.core < 256 then
    let q := s.queue r.core r.q
    q.d - q.held - airborne (s.core r.core).flights r.q
  else if s.linked (r.via.getD 0) then Config.remoteCredit (s.tick * 256 + r.via.getD 0) % 65
  else 0

/-- Room of its side band for scale tokens (R208). -/
def State.bandIn (s : State) (r : QRef) : Nat :=
  16 - (scalesOf (s.queue r.core r.q).items).length -
    ((s.core r.core).flights.filter fun f => f.q = r.q && (match f.item with | .tok _ => false | .scale _ => true)).length

/-- Pops the head token of a queue that has one. -/
def State.popQ (s : State) (e : Env) (r : QRef) (pairs : Bool) : Token × State :=
  let q := s.queue r.core r.q
  match q.head with
  | none => (tDone, s)
  | some t => (t, (s.setQueue r.core r.q (q.pop pairs t)).countProg e (2 * r.entry + 1))

/-- Stores an item in a queue; DONE sets its latch. -/
def Queue.push (q : Queue) (i : QItem) : Queue :=
  { q with items := q.items ++ [i], wdRun := 0,
           doneLatch := q.doneLatch || (match i with | .tok t => t.kind = kDone | .scale _ => false) }

/-- An ADVANCE of tag `t` enters the circuit at router `r`, which it leaves at once. -/
def State.sendAdvance (s : State) (r t : Nat) : State :=
  { s with advSent := SMap.set 0 s.advSent t (SMap.get 0 s.advSent t + 1) }.passAdvance r t

/-- The bytes of an ADVANCE on a circuit that leaves the device. -/
def advanceBytes : List Byte := toBytes 0 8 ++ [4]

/-- The sending end of a circuit emits ADVANCE after a STOP of its route's level or above, behind it in the circuit's own lane (R252,
R257). -/
def State.advance (s : State) (e : Env) (r : QRef) (i : QItem) : State :=
  match r.via, i with
  | some t, .tok x =>
    if x.kind = kStop && r.adv < 15 && r.adv ≤ bits x.data 3 0 then
      let u := s.sendAdvance e.place t
      if 256 ≤ r.core then (u.sendOut t advanceBytes).passAdvance (groupRouter (exitGroup t)) t else u
    else s
  | _, _ => s

/-- The bytes of an item on a circuit that leaves the device: the payload and then the kind, 3 standing for a scale token. -/
def QItem.bytes : QItem → List Byte
  | .tok t => toBytes t.data.toNat 8 ++ [t.kind.setWidth 8]
  | .scale c => toBytes c.toNat 8 ++ [3]

/-- An item goes on its way from node `nd`, on core `src`, of slot `n` of core `h`, on a circuit behind every ADVANCE that its sending end has emitted. -/
def State.fly (s : State) (r : QRef) (src h n nd : Nat) (i : QItem) : State :=
  s.onCore r.core fun x =>
    { x with flights := x.flights ++
      [{ q := r.q, item := i, slot := some (4 * h + n), node := nd, via := r.via, adv := r.via.elim 0 fun t => SMap.get 0 s.advSent t,
         src := src }] }

/-- Pushes an item that has room. A SPATIAL node pushes to another core over its link or circuit (R206, R248), where the router of its
own core is the first that the item meets (R256); a circuit that leaves the device goes on to its port group. -/
def State.pushQ (s : State) (e : Env) (r : QRef) (i : QItem) : State :=
  let s1 := match i with
    | .tok _ => s.countProg e (2 * r.entry)
    | .scale _ => s
  let s2 := match e.run, i with
    | .strand, _ => s1
    | _, .tok _ => s1.onStrand e.c e.k fun t => t.count 6 1
    | _, .scale _ => s1
  let through (go : State → State) : State := r.via.elim (go s2) fun t => s2.routed e.place t go
  let s3 := if 256 ≤ r.core then through fun u => u.sendOut (r.via.getD 0) i.bytes
    else
      match e.run with
      | .spatial h n nd =>
        if r.core = e.place then s2.setQueue r.core r.q ((s2.queue r.core r.q).push i) else through fun u => u.fly r e.place h n nd i
      | _ => s2.setQueue r.core r.q ((s2.queue r.core r.q).push i)
  s3.advance e r i

/-- The violation of the head of a queue, as an exception. -/
def State.headFault (s : State) (r : QRef) (pairs : Bool) : Option Exc :=
  ((s.queue r.core r.q).violation pairs).map fun k => malformed k r.q

/-- A token of a SPATIAL node goes over a link or circuit, and lands later (R206). -/
def Env.overLink (e : Env) (r : QRef) : Bool :=
  match e.run with
  | .spatial .. => r.core ≠ e.place
  | _ => false

/-- A push into a queue whose DONE latch is set; what goes over a link or circuit is raised when it lands (R218). -/
def State.latchFault (s : State) (e : Env) (r : QRef) : Option Exc :=
  if !e.overLink r && (s.queue r.core r.q).doneLatch then some (malformed 6 r.q) else none

/-- The first exception of a list of checks. -/
def firstExc : List (Option Exc) → Option Exc
  | [] => none
  | some x :: _ => some x
  | none :: r => firstExc r

/-! ## Queue operands of a strand word (R212) -/

/-- A field that names a queue. -/
def isQ (f : BitVec 6) : Bool := 48 ≤ f.toNat

/-- Source fields that name queues, each queue once. -/
def Env.sources (e : Env) (fs : List (BitVec 6)) : List QRef := (fs.filter isQ).map e.inQ |>.eraseDups

/-- ILLEGAL_OPERAND with detail `field` and the word as stval (R95). -/
def Env.illegal (e : Env) (field : Nat) : Exc := devFault fIllegalOperand field (e.raw.setWidth 64)

/-- R212 for one field of a strand word that moves `n` tokens: `field` is 0 for d, 1 for a, 2 for b. -/
def queueFault (s : State) (e : Env) (n field : Nat) (push : Bool) (f : BitVec 6) : Option Exc :=
  if !isQ f then none
  else
    let q := s.queue e.c (f.toNat - 48)
    if q.d < n then some (e.illegal field)
    else if q.owner.isSome then
      if push then some (e.illegal field)
      else some { cause := 48, stval := 0, vcause := word (fQueueUnderflow + (f.toNat - 48) * 2 ^ 20), pages := [] }
    else none

/-! ## Words that process element by element (R104, R210) -/

/-- Where the results go. -/
inductive Dest where
  | v (f : BitVec 6) (t : BitVec 4)
  | mask (f : BitVec 6)
  | none
  deriving DecidableEq, Repr

/-- The destination queue, if the destination is one. -/
def Env.destQ (e : Env) : Dest → Option QRef
  | .v f _ => if isQ f then some (e.outQ f) else Option.none
  | _ => Option.none

/-- How a word reads element `i`, as type `t`, of the register or queue that a field names, in role 0 for d, 1 for a, 2 for
b. -/
abbrev Rd := Nat → BitVec 6 → BitVec 4 → Nat → Nat

/-- Reads registers as they stood before the word (R337), and the popped tokens `toks`, by queue field: the token of this
element; or, of a strip, token `i` of those popped, and 0 from their number on (R203, R210, R338). -/
def reader (s0 : State) (e : Env) (strip : Bool) (toks : List (QRef × List Token)) : Rd := fun role f ty i =>
  if isQ f then
    match toks.find? fun x => x.1 = e.inQ f with
    | some (_, l) => ((l[if strip then i else 0]?).getD (tVal 0)).data.toNat % 2 ^ lwidth ty
    | none => 0
  else readElem s0 (s0.strand e.c e.k) role f.toNat ty i

/-- Pops one token from each source. -/
def popEach (e : Env) (pairs : Bool) : List QRef → State → List (QRef × List Token) × State
  | [], s => ([], s)
  | r :: rs, s =>
    let (t, s1) := s.popQ e r pairs
    let (l, s2) := popEach e pairs rs s1
    ((r, [t]) :: l, s2)

/-- What a word that processes element by element is: its effective length; its source fields, with their field numbers for
R212; its destination; whether it writes guarded-off elements too (VMERGE); its result for one element; and, for a word that
reaches memory, the check of a guarded-on element before it is performed, the access that performs it, and what is done with
all that the performed elements gave. `pairs` marks a word that pairs scale tokens (R209), and `lead` the scale token that goes
before an element into a destination queue (R208). -/
structure Plan where
  L : Nat
  srcs : List (Nat × BitVec 6)
  dest : Dest
  always : Bool := false
  result : Rd → Nat → Res := fun _ _ => (0, 0)
  pre : Nat → State → Option Exc := fun _ _ => none
  act : Rd → Nat → State → Res × State := fun rd i s => (result rd i, s)
  post : List (Option Nat) → State → State := fun _ s => s
  pairs : Bool := false
  lead : Nat → Option (BitVec 16) := fun _ => none

/-- How many of `n` elements from `i` on a side band with room for `band` scale tokens admits (R208). -/
def fitBand (lead : Nat → Option (BitVec 16)) : Nat → Nat → Nat → Nat
  | 0, _, _ => 0
  | n + 1, i, band =>
    match lead i, band with
    | none, _ => fitBand lead n (i + 1) band + 1
    | some _, 0 => 0
    | some _, b + 1 => fitBand lead n (i + 1) b + 1

/-- A poisoned read that traps sets PSN and is counted as any other (R170). -/
def State.notePoison (s : State) (e : Env) (x : Exc) : State :=
  if x.cause = 48 && bits x.vcause 7 0 = fPoison then s.poisonRead e.c e.k else s

/-- Elements `i` onward, `n` of them: the exception that stopped them with its element, the state, and what they write. -/
def elements (s0 : State) (e : Env) (m : Mode) (p : Plan) (srcs : List QRef) (dq : Option QRef) :
    Nat → Nat → State → List (Option Nat) → Option (Nat × Exc) × State × List (Option Nat)
  | 0, _, s, acc => (none, s, acc.reverse)
  | n + 1, i, s, acc =>
    let g := p.always || guardAt (s0.strand e.c e.k) m i
    let checks := (if g then p.pre i s else none) :: srcs.map (fun r => s.headFault r p.pairs) ++
      [dq.bind fun r => s.latchFault e r]
    match firstExc checks with
    | some x => (some (i, x), s.notePoison e x, acc.reverse)
    | none =>
      let (toks, s1) := popEach e p.pairs srcs s
      let ((x, fl), s2) := if g then p.act (reader s0 e false toks) i s1 else ((0, 0), s1)
      let s3 := if fl = 0 then s2 else s2.onStrand e.c e.k fun t => t.flag fl
      let s4 := match dq with
        | some r =>
          let u := match p.lead i with
            | some c => s3.pushQ e r (.scale c)
            | none => s3
          u.pushQ e r (.tok (tVal x))
        | none => s3
      elements s0 e m p srcs dq n (i + 1) s4 ((if g then some x else none) :: acc)

/-- Writes what the elements from VSTART on gave; `mark` is the new high-water mark. -/
def writeDest (s0 : State) (e : Env) (d : Dest) (lo : Nat) (xs : List (Option Nat)) (mark : Nat) (s : State) : State :=
  match d with
  | .v f t => if isQ f then s else s.onStrand e.c e.k fun st => st.writeVec s0 f.toNat t lo xs mark
  | .mask f => s.onStrand e.c e.k fun st => { st with m := SMap.set 0 st.m f.toNat (putMask (SMap.get 0 st.m f.toNat) lo xs) }
  | .none => s

/-- Slots processed (R21, R279). -/
def State.countSlots (s : State) (e : Env) (ty : BitVec 4) (hi : Nat) : State :=
  if e.vstart < hi then
    s.onStrand e.c e.k fun t => t.count 3 (slotsOf ty hi - e.vstart * width ty / 64)
  else s

/-- The type that sizes the slots a destination takes. -/
def Dest.type (dflt : BitVec 4) : Dest → BitVec 4
  | .v _ t => t
  | _ => dflt

/-- The mark after the elements of a firing up to `hi`, and what a node notes of it. A strip that its node has not finished leaves the
mark where a precise trap would, so that how its firings are cut never matters (R31, R108, R210, log 8). -/
def stripMark (e : Env) (L hi old : Nat) (ty : BitVec 4) : Nat × Nat :=
  if !e.isStrand && hi < L then (max old (slotsOf ty hi), slotsOf ty hi) else (slotsOf ty hi, 0)

/-- A word that processes element by element (R104, R210, R212). A strand word that finds a stop at once processes no element, and its
destination register takes the mark of VSTART elements. -/
def elementwise (g : Nat) (plan : Env → Mode → Plan) : Sem := fun e s =>
  let m := e.mode g
  let e := e.from_ (plan e m).L
  let p := plan e m
  let n0 := p.L - e.vstart
  let srcs := e.sources (p.srcs.map (·.2))
  let dq := e.destQ p.dest
  let checks := (match p.dest with | .v f _ => [queueFault s e n0 0 true f] | _ => []) ++
    p.srcs.map (fun x => queueFault s e n0 x.1 false x.2)
  if n0 = 0 then (.ok 0, s)
  else
    match if e.isStrand then firstExc checks else none with
    | some x => (.trap e.vstart x, s)
    | none =>
      let have_ (r : QRef) : Nat × Bool := (s.queue r.core r.q).run
      let ready : Bool := srcs.all (fun r => n0 ≤ (have_ r).1 || (have_ r).2) && dq.all (fun r =>
        n0 ≤ s.roomIn r && fitBand p.lead n0 e.vstart (s.bandIn r) = n0)
      let c0 := srcs.foldl (fun c r => min c (have_ r).1) n0
      let c := if e.isStrand then c0
        else dq.elim c0 fun r => fitBand p.lead (min c0 (s.roomIn r)) e.vstart (s.bandIn r)
      if e.isStrand && !ready then (.stall, s)
      else if c = 0 && !e.isStrand then (.stall, s)
      else
        let (x, s1, xs) := elements s e m p srcs dq c e.vstart s []
        let ty := p.dest.type m.t
        match x with
        | some (i, exc) =>
          let mark := match p.dest with
            | .v f t => if isQ f then 0 else max ((s.strand e.c e.k).mark f.toNat) (if i = e.vstart then 0 else slotsOf t i)
            | _ => 0
          (.trap i exc, (writeDest s e p.dest e.vstart xs mark (p.post xs s1)).countSlots e ty i)
        | none =>
          let old := match p.dest with
            | .v f _ => if isQ f then 0 else (s.strand e.c e.k).mark f.toNat
            | _ => 0
          let (mark, note) := stripMark e p.L (e.vstart + c) old ty
          let s2 := (writeDest s e p.dest e.vstart xs mark (p.post xs s1)).countSlots e ty (e.vstart + c)
          (.ok c, match p.dest with
            | .v f _ => if isQ f then s2 else s2.noteStrip e note
            | _ => s2)

/-! ## Strip-bound words (R211, R338) -/

/-- What a strip gives: flags, the first element written, the elements from there on, the tokens for a destination queue and
the mark for a destination register. -/
structure Strip where
  flags : FlagSet
  lo : Nat
  elems : List (Option Nat)
  tokens : List Nat
  mark : Nat

/-- What a strip-bound word is: its length, its source fields, its destination, the tokens a strip of `c` elements may push,
and what a strip gives, from its reader, its effective length and the vector length of a source field (Ls of R357). -/
structure StripPlan where
  L : Nat
  srcs : List (Nat × BitVec 6)
  dest : BitVec 6
  t : BitVec 4
  out : Nat → Nat
  give : Rd → Nat → (BitVec 6 → Nat) → Strip

/-- The violation that popping `n` tokens one after another would meet. -/
def runFault : Nat → Queue → Option Nat
  | 0, _ => none
  | n + 1, q =>
    match q.violation false, q.head with
    | some k, _ => some k
    | none, some t => runFault n (q.pop false t)
    | none, none => none

/-- Pops `n` tokens. -/
def popRun (e : Env) (r : QRef) : Nat → State → List Token × State
  | 0, s => ([], s)
  | n + 1, s =>
    let (t, s1) := s.popQ e r false
    let (l, s2) := popRun e r n s1
    (t :: l, s2)

/-- Pops `n` tokens from each source. -/
def popRuns (e : Env) (n : Nat) : List QRef → State → List (QRef × List Token) × State
  | [], s => ([], s)
  | r :: rs, s =>
    let (l, s1) := popRun e r n s
    let (ls, s2) := popRuns e n rs s1
    ((r, l) :: ls, s2)

/-- A strip-bound word (R210, R211, R338): a strip is a vector of `c` elements, which a violation among its tokens, or a set DONE latch
where it has a token to push, leaves unpopped. A strand word that finds a stop at once writes no element, and its destination register
takes the mark of VSTART elements; a reduction then does nothing (R360). -/
def stripBound (g : Nat) (plan : Env → Mode → StripPlan) : Sem := fun e s =>
  let m := e.mode g
  let p := plan e m
  let n0 := p.L - e.vstart
  let srcs := e.sources (p.srcs.map (·.2))
  let dq := if isQ p.dest then some (e.outQ p.dest) else none
  let checks := queueFault s e n0 0 true p.dest :: p.srcs.map (fun x => queueFault s e n0 x.1 false x.2)
  if n0 = 0 then (.ok 0, s)
  else
    match if e.isStrand then firstExc checks else none with
    | some x => (.trap e.vstart x, s)
    | none =>
      let have_ (r : QRef) : Nat × Bool := (s.queue r.core r.q).run
      let ready : Bool := srcs.all (fun r => n0 ≤ (have_ r).1 || (have_ r).2) && dq.all (fun r => n0 ≤ s.roomIn r)
      let c := srcs.foldl (fun c r => min c (have_ r).1) n0
      let whole : Bool := c = n0 || srcs.any fun r => (have_ r).1 = c && (have_ r).2
      let room : Bool := dq.all fun r => p.out c ≤ s.roomIn r
      if e.isStrand && !ready then (.stall, s)
      else if !e.isStrand && (c = 0 || !whole || !room) then (.stall, s)
      else if c = 0 && p.out 0 ≠ 0 then (.ok 0, s)
      else
        let bad := srcs.map fun r => (runFault c (s.queue r.core r.q)).map fun k => malformed k r.q
        let (toks, s1) := popRuns e c srcs s
        let L := e.vstart + c
        let r := p.give (reader s e true toks) L (fun f => if isQ f then c else vlmax p.t)
        match firstExc (bad ++ [if r.tokens = [] then none else dq.bind fun q => s.latchFault e q]) with
        | some x => (.trap e.vstart x, s)
        | none =>
          let s2 := s1.onStrand e.c e.k fun t => t.flag r.flags
          let s3 := match dq with
            | some q => r.tokens.foldl (fun (u : State) v => u.pushQ e q (.tok (tVal v))) s2
            | none => s2.onStrand e.c e.k fun t => t.writeVec s p.dest.toNat p.t r.lo r.elems r.mark
          (.ok c, s3.countSlots e p.t L)

end Sys2Proof.Machine
end

