-- ==== Sys2Proof/Machine/Tiles.lean ====
section
/-!
DEFINITION. Tile memory: lines, handles and their states, allocation, element accesses with their range and poison rules, and
the tile words of the vector space (R124 to R141, R371, R372).
-/
namespace Sys2Proof.Machine

/-! ## The tile tables (R130, R258) -/

/-- Entry `n` of the tile tables that core `c` reaches: below 0x800 its own L0 table, from there on the L1 table of its
die. -/
def State.tile (s : State) (c n : Nat) : Tile :=
  if n < 2048 then SMap.get Tile.reset (s.core c).tiles n else SMap.get Tile.reset (s.die (dieOf c)).tiles (n - 2048)

/-- Replaces entry `n`. -/
def State.setTile (s : State) (c n : Nat) (t : Tile) : State :=
  if n < 2048 then s.onCore c fun r => { r with tiles := r.tiles.put n t }
  else s.setDie (dieOf c) { s.die (dieOf c) with tiles := (s.die (dieOf c)).tiles.put (n - 2048) t }

/-- Element width in bits by its code (R379). -/
def wcBits (wc : BitVec 3) : Nat := 4 * 2 ^ wc.toNat

/-- Width, rows, columns and elements of a tile (R126). -/
def Tile.w (t : Tile) : Nat := wcBits t.wc
def Tile.rows (t : Tile) : Nat := t.rowsm1.toNat + 1
def Tile.cols (t : Tile) : Nat := t.colsm1.toNat + 1
def Tile.size (t : Tile) : Nat := t.rows * t.cols

/-- lines(h) (R126). -/
def Tile.lines (t : Tile) : Nat := (t.size * t.w + 511) / 512

/-- Slot and generation of a handle (R130). -/
def handleSlot (h : Word) : Nat := bits h 19 8
def handleGen (h : Word) : Nat := bits h 7 0

/-- A handle is current for core `c` (R131). -/
def State.handleOk (s : State) (c : Nat) (h : Word) : Bool :=
  let n := handleSlot h
  let t := s.tile c n
  bits h 63 20 == 0 && t.allocated && t.gen.toNat == handleGen h && t.job == (s.core c).jobid &&
    (n < 2048 || some t.region.toNat == (s.core c).region)

/-- HANDLE_STALE (R131). -/
def handleStale (h : Word) : Exc := devFault fHandleStale (handleSlot h) h

/-- The codes of the handle states (R379). -/
def HState.code : HState → Nat
  | .empty => 0
  | .filling => 1
  | .full => 2
  | .draining => 3

/-- HANDLE_STATE (R134). -/
def handleState (h : Word) (st : HState) : Exc := devFault fHandleState st.code h

/-- How the state table of R134 answers an access: legal, a fault, or a wait. -/
inductive Gate where
  | legal
  | fault
  | waits
  deriving DecidableEq, Repr

/-- The rows of R134 for a read; for a write or an atomic; for a copy into the handle; and for a copy out of it. -/
def gateRead : HState → Gate
  | .empty => .fault
  | .filling => .waits
  | .full | .draining => .legal
def gateWrite : HState → Gate
  | .empty | .full => .legal
  | .filling | .draining => .waits
def gateCopyIn : HState → Gate
  | .empty => .legal
  | _ => .fault
def gateCopyOut : HState → Gate := gateRead

/-! ## Lines (R125, R126, R129) -/

/-- Line `l` of the level that slot `n` belongs to. -/
def State.line (s : State) (c n l : Nat) : BitVec 512 :=
  if n < 2048 then SMap.get 0 (s.core c).l0 l else SMap.get 0 (s.die (dieOf c)).l1 l

/-- Replaces a line. -/
def State.setLine (s : State) (c n l : Nat) (v : BitVec 512) : State :=
  if n < 2048 then s.onCore c fun r => { r with l0 := SMap.set 0 r.l0 l v }
  else s.setDie (dieOf c) { s.die (dieOf c) with l1 := SMap.set 0 (s.die (dieOf c)).l1 l v }

/-- Whether a line is poisoned. -/
def State.linePoison (s : State) (c n l : Nat) : Bool :=
  if n < 2048 then SMap.get false (s.core c).l0poison l else SMap.get false (s.die (dieOf c)).l1poison l

/-- Poisons a line, or clears its poison. -/
def State.setLinePoison (s : State) (c n l : Nat) (p : Bool) : State :=
  if n < 2048 then s.onCore c fun r => { r with l0poison := SMap.set false r.l0poison l p }
  else s.setDie (dieOf c) { s.die (dieOf c) with l1poison := SMap.set false (s.die (dieOf c)).l1poison l p }

/-- TILE_LINE and bitpos of an element (R126). -/
def Tile.lineOf (t : Tile) (off : Nat) : Nat := t.base + off * t.w / 512
def Tile.bitOf (t : Tile) (off : Nat) : Nat := off * t.w % 512

/-- `w` bits of a line replaced. -/
def setLineBits (l : BitVec 512) (pos w v : Nat) : BitVec 512 :=
  let old := l.toNat / 2 ^ pos % 2 ^ w
  BitVec.ofNat 512 (l.toNat - old * 2 ^ pos + v % 2 ^ w * 2 ^ pos)

/-- The bits of an element, whatever its line's poison. -/
def State.tileBits (s : State) (c n : Nat) (t : Tile) (off : Nat) : Nat :=
  (s.line c n (t.lineOf off)).toNat / 2 ^ t.bitOf off % 2 ^ t.w

/-- Whether the line of an element is poisoned. -/
def State.tilePoison (s : State) (c n : Nat) (t : Tile) (off : Nat) : Bool := s.linePoison c n (t.lineOf off)

/-- One transaction of element writes (R169): a write to a poisoned line is dropped, and counted, unless the transaction
covers the line, whose poison it then clears. -/
def State.tileStore (s : State) (c n : Nat) (t : Tile) (ws : List (Nat × Nat)) : State :=
  let lines := (ws.map fun x => t.lineOf x.1).eraseDups
  lines.foldl (fun (s : State) l =>
    let mine := ws.filter fun x => t.lineOf x.1 = l
    let covers : Bool := (List.range (512 / t.w)).all fun i => mine.any fun x => t.bitOf x.1 = i * t.w
    if s.linePoison c n l && !covers then s.countErr errPartialDrop (dieOf c)
    else
      let v := mine.foldl (fun v x => setLineBits v (t.bitOf x.1) t.w x.2) (s.line c n l)
      (s.setLine c n l v).setLinePoison c n l false) s

/-! ## Stores that engine operations may not have seen (R184) -/

/-- Where byte `b` of the tile of slot `n` that core `c` reaches lies. -/
def Tile.spot (t : Tile) (c n b : Nat) : Spot := .tile (if n < 2048 then c else 256 + dieOf c) (64 * t.base + b)

/-- The byte at a spot, whatever its line's poison. -/
def State.spotByte (s : State) : Spot → Byte
  | .mem p => s.byteAt p
  | .tile u b =>
    let l := if u < 256 then SMap.get 0 (s.core u).l0 (b / 64) else SMap.get 0 (s.die (u - 256)).l1 (b / 64)
    BitVec.ofNat 8 (l.toNat / 2 ^ (8 * (b % 64)))

/-- The aligned eight bytes of a spot, to which single-copy atomicity holds (R174). -/
def Spot.unit : Spot → Spot
  | .mem (.dev a) => .mem (.dev (a / 8 * 8))
  | .mem (.host w p o) => .mem (.host w p (o / 8 * 8))
  | .tile u b => .tile u (b / 8 * 8)

/-- A number for a unit, to take free choices at. -/
def Spot.number : Spot → Nat
  | .mem (.dev a) => 4 * a
  | .mem (.host w p o) => 4 * ((w * 2 ^ 32 + p) * 4096 + o) + 1
  | .tile u b => 4 * (u * 2 ^ 32 + b) + 2

/-- The stores of a word to elements of a tile, which `s` has not performed yet. -/
def State.tileStores (s : State) (c n : Nat) (t : Tile) (ws : List (Nat × Nat)) : List Unordered :=
  ws.flatMap fun x =>
    if s.tilePoison c n t x.1 then []
    else
      (List.range (max (t.w / 8) 1)).map fun j =>
        let p := t.spot c n (x.1 * t.w / 8 + j)
        let old := s.spotByte p
        let mask : Byte := if t.w = 4 then (if x.1 % 2 = 0 then 0x0F else 0xF0) else 0xFF
        let new : Byte := if t.w = 4 then BitVec.ofNat 8 (x.2 % 16 * 17) else byteOf x.2 j
        { spot := p, old := old, new := (old &&& ~~~mask) ||| (new &&& mask), mask := mask, tick := s.tick }

/-- A word of strand `k` of core `c` stores elements of a tile that core `p` reaches. -/
def State.tileStoreBy (s : State) (c k p n : Nat) (t : Tile) (ws : List (Nat × Nat)) : State :=
  (s.tileStore p n t ws).onStrand c k fun st => { st with stores := (s.tileStores p n t ws).reverse ++ st.stores }

/-- The bits that a store gave stand, unless a later store of the strand has replaced them. -/
def State.stands (s : State) (us : List Unordered) (u : Unordered) : Bool :=
  (s.spotByte u.spot &&& u.mask) = (u.new &&& u.mask) || us.any fun v => v.spot = u.spot && u.tick < v.tick

/-- Stores of strand `k` of core `c` to the unit of a spot that an engine operation of the strand finds not yet performed in this
step, the latest first: all from a free point of program order on, where no other agent has written the unit since (R184). -/
def State.late (s : State) (c k : Nat) (p : Spot) : List Unordered :=
  let us := (s.strand c k).stores.filter fun u => u.spot.unit = p.unit
  if us.all (s.stands us) then us.filter fun u => Config.choice (2 ^ 128 * (s.tick + 1) + p.unit.number) ≤ u.tick else []

/-- The byte that an engine operation of the strand reads at a spot. -/
def State.engineByte (s : State) (c k : Nat) (p : Spot) : Byte :=
  ((s.late c k p).filter fun u => u.spot = p).foldl (fun v u => (v &&& ~~~u.mask) ||| (u.old &&& u.mask)) (s.spotByte p)

/-- The byte that stands at a spot after an engine operation of the strand has written `v` there: a store that is performed only now
comes over it. -/
def State.overwritten (s : State) (c k : Nat) (p : Spot) (v : Byte) : Byte :=
  ((s.late c k p).filter fun u => u.spot = p).foldr (fun u v => (v &&& ~~~u.mask) ||| (u.new &&& u.mask)) v

/-- After an engine operation of the strand has read or written a unit, the stores to it that it found performed are in order
before every later one; after a write all of them are. -/
def State.settleSpot (s : State) (c k : Nat) (write : Bool) (p : Spot) : State :=
  if (s.strand c k).stores = [] then s
  else
    let l := if write then [] else s.late c k p
    s.onStrand c k fun t => { t with stores := t.stores.filter fun u => u.spot.unit ≠ p.unit || l.contains u }

/-- The bits of an element of a tile as an engine operation of the strand reads them. -/
def State.engineBits (s : State) (c k n : Nat) (t : Tile) (off : Nat) : Nat :=
  if (s.strand c k).stores = [] then s.tileBits c n t off
  else
    ofBytes ((List.range (max (t.w / 8) 1)).map fun j => s.engineByte c k (t.spot c n (off * t.w / 8 + j))) / 2 ^ (off * t.w % 8) %
      2 ^ t.w

/-! ## Out-of-range accesses (R91, R141) -/

/-- An element outside the tile: OOR, its event, and the first record of voorva. `off` is the offset in two's complement,
`w` a dropped write or an atomic. -/
def Strand.oor (t : Strand) (h : Word) (w : Bool) (off : Int) : Strand :=
  let t1 := (t.flag flagOOR).count 9 1
  if bit t1.voorva 40 then t1
  else
    { t1 with voorva := word (bits h 19 0 * 2 ^ 44 + (if w then 2 ^ 41 else 0) + 2 ^ 40 + (off % (2 ^ 40 : Nat)).toNat) }

/-- Reads an element for strand `k` of core `c`, at offset `off` of the tile that core `p` reaches as `h`: zero outside the
tile, and zero with PSN in a poisoned line. -/
def State.tileRead (s : State) (c k p : Nat) (h : Word) (off : Int) : Nat × State :=
  let n := handleSlot h
  let t := s.tile p n
  if off < 0 || (t.size : Int) ≤ off then (0, s.onStrand c k fun st => st.oor h false off)
  else if s.tilePoison p n t off.toNat then (0, s.poisonRead c k)
  else (s.tileBits p n t off.toNat, s)

/-- The part of a list of element writes that lies inside a tile. -/
def Tile.insideOf (t : Tile) (ws : List (Int × Nat)) : List (Nat × Nat) :=
  (ws.filter fun x => 0 ≤ x.1 && x.1 < (t.size : Int)).map fun x => (x.1.toNat, x.2)

/-- Writes elements in one transaction; those outside the tile are dropped. -/
def State.tileWrite (s : State) (c k p : Nat) (h : Word) (ws : List (Int × Nat)) : State :=
  let n := handleSlot h
  let t := s.tile p n
  let inside : Int → Bool := fun off => 0 ≤ off && off < (t.size : Int)
  let s1 := ws.foldl (fun (s : State) x => if inside x.1 then s else s.onStrand c k fun st => st.oor h true x.1) s
  s1.tileStore p n t (t.insideOf ws)

/-- The same by a word of strand `k` of core `c`, an ordinary access (R173, R184). -/
def State.tileWriteBy (s : State) (c k p : Nat) (h : Word) (ws : List (Int × Nat)) : State :=
  let t := s.tile p (handleSlot h)
  (s.tileWrite c k p h ws).onStrand c k fun st =>
    { st with stores := (s.tileStores p (handleSlot h) t (t.insideOf ws)).reverse ++ st.stores }

/-- The exception of a read from a poisoned tile line when the job's poison-trap setting is on; a tile line has no address,
so stval is a free value (R170). -/
def State.tilePoisonExc (s : State) (c p : Nat) (h : Word) (off : Int) : Option Exc :=
  let n := handleSlot h
  let t := s.tile p n
  if s.poisonTrap c && 0 ≤ off && off < (t.size : Int) && s.tilePoison p n t off.toNat then
    some (devFault fPoison 0 (s.free 131000))
  else none

/-! ## Allocation (R127, R132, R379, R380) -/

/-- Lines of a level. -/
def lineCount (l1 : Bool) : Nat := if l1 then 1040384 else 23808

/-- The allocated tiles of a level, with the runs of lines they take. -/
def runsOf (res : Nat) (m : SMap Tile) : List (Nat × Nat) :=
  (m.filter fun e => e.2.allocated && e.2.res.toNat = res).map fun e => (e.2.base, e.2.lines)

/-- The runs in use in the L0 of core `c`, or in the L1 of its die, where L0 tiles that have been demoted lie too (R140). -/
def State.levelRuns (s : State) (l1 : Bool) (c : Nat) : List (Nat × Nat) :=
  if l1 then
    runsOf 0 (s.die (dieOf c)).tiles ++ ((s.cores.filter fun e => dieOf e.1 = dieOf c).flatMap fun e => runsOf 1 e.2.tiles) ++
    s.jobs.flatMap fun e => match e.2 with
      | some j => (j.savedCores.filter fun x => dieOf x.1 = dieOf c).flatMap fun x => runsOf 1 x.2.tiles
      | none => []
  else runsOf 0 (s.core c).tiles

/-- Lines `b` to `b + n − 1` meet none of the runs. -/
def freeRun (runs : List (Nat × Nat)) (b n : Nat) : Bool := runs.all fun r => b + n ≤ r.1 || r.1 + r.2 ≤ b

/-- The base of a free run of `n` lines, if the level has one. DESIGN CHOICE (log 114): of several free runs the one with the lowest base. -/
def findRun (runs : List (Nat × Nat)) (total n : Nat) : Option Nat :=
  let bases := 0 :: runs.map fun r => r.1 + r.2
  let good := bases.filter fun b => b + n ≤ total && freeRun runs b n
  good.foldl (fun best b => match best with | none => some b | some x => some (min x b)) none

/-- An entry that TALLOC may take: not allocated, and not retired. -/
def Tile.isFree (t : Tile) : Bool := !t.allocated && !(t.gen = 0xFF && t.job ≠ 0)

/-- The lowest free slot among the `n` from `i` on. -/
def findSlot (m : SMap Tile) : Nat → Nat → Option Nat
  | 0, _ => none
  | n + 1, i => if (SMap.get Tile.reset m i).isFree then some i else findSlot m n (i + 1)

/-- Every key outside a run. -/
def dropRun {α : Type} (m : SMap α) (b n : Nat) : SMap α := m.filter fun e => e.1 < b || b + n ≤ e.1

/-- TALLOC by core `c`: the handle and the state; 0 when the level has no slot or no run (R127). Slot 0 of L0 is never
allocated (R130). -/
def State.talloc (s : State) (c : Nat) (shape : Word) : Word × State :=
  let l1 := bit shape 35
  let d := dieOf c
  let table := if l1 then (s.die d).tiles else (s.core c).tiles
  match findSlot table (if l1 then 2048 else 2047) (if l1 then 0 else 1) with
  | none => (0, s)
  | some i =>
    let old := SMap.get Tile.reset table i
    let t0 : Tile :=
      { allocated := true, state := .empty, gen := old.gen, wc := shape.extractLsb' 32 3, res := 0,
        rowsm1 := shape.extractLsb' 0 16, colsm1 := shape.extractLsb' 16 16, job := (s.core c).jobid,
        region := BitVec.ofNat 6 ((s.core c).region.getD 0), drains := 0, base := 0 }
    match findRun (s.levelRuns l1 c) (lineCount l1) t0.lines with
    | none => (0, s)
    | some b =>
      let t := { t0 with base := b }
      let n := if l1 then i + 2048 else i
      let s1 :=
        if l1 then
          let x := s.die d
          s.setDie d { x with l1 := dropRun x.l1 b t.lines, l1poison := dropRun x.l1poison b t.lines }
        else s.onCore c fun r => { r with l0 := dropRun r.l0 b t.lines, l0poison := dropRun r.l0poison b t.lines }
      (word (n * 256 + t.gen.toNat), s1.setTile c n t)

/-- Frees the slot of a current handle: the generation rises, and 0xFF retires the slot for its job (R132). -/
def Tile.freed (t : Tile) : Tile :=
  { t with allocated := false, state := .empty, gen := t.gen + 1, drains := 0,
           job := if t.gen = 0xFE then t.job else 0 }

/-- At job end every slot that job `j` holds or retired is free, with generation 0 (R132). -/
def Tile.jobEnd (j : BitVec 32) (t : Tile) : Tile :=
  if (t.allocated && t.job = j) || (!t.allocated && t.gen = 0xFF && t.job = j) then Tile.reset else t

/-! ## Tile words (R371, R372) -/

/-- The checks of R371, in order: none when the word may go on. -/
inductive TileCheck where
  | ok
  | stall
  | bad (x : Exc)
  deriving DecidableEq, Repr

/-- Checks a handle for an access of elements of `w` bits by gate `g`; `wrong` is raised when the width differs. An access to a
tile that is not resident waits (R140). -/
def State.tileCheck (s : State) (p : Nat) (h : Word) (w : Nat) (wrong : Exc) (g : HState → Gate) : TileCheck :=
  if !s.handleOk p h then .bad (handleStale h)
  else
    let t := s.tile p (handleSlot h)
    if t.w ≠ w then .bad wrong
    else
      match g t.state with
      | .legal => if t.res = 0 then .ok else .stall
      | .waits => .stall
      | .fault => .bad (handleState h t.state)

/-- MODE_TYPE with a group and a type (R95). -/
def Env.modeType (e : Env) (g : Nat) (t : BitVec 4) : Exc := devFault fModeType (g * 256 + t.toNat) (e.raw.setWidth 64)

/-- Runs a word whose checks have been made. -/
def TileCheck.thenRun (r : TileCheck) (f : Sem) : Sem := fun e s =>
  match r with
  | .ok => f e s
  | .stall => (.stall, s)
  | .bad x => (.trap e.vstart x, s)

/-- The element offset of element i: `x[b] + i`, the x register taken as a signed offset so that a negative one is out of
range (R141, R371). -/
def offsetAt (base : Word) (i : Nat) : Int := base.toInt + i

/-- Reads a tile into a register or queue: VLDT and VLDTX. -/
def tileLoad (d : BitVec 6) (h : Word) (L : Nat) (off : State → Env → Nat → Int) : Sem := fun e s =>
  let m := e.mode gM
  (s.tileCheck e.place h (width m.t) (e.modeType gM m.t) gateRead).thenRun (fun e s =>
    elementwise gM (fun e m =>
      { L := L, srcs := [], dest := .v d m.t,
        pre := fun i u => u.tilePoisonExc e.c e.place h (off s e i),
        act := fun _ i u => let (v, u') := u.tileRead e.c e.k e.place h (off s e i); ((v % 2 ^ lwidth m.t, 0), u') }) e s) e s

/-- Writes a register or popped tokens into a tile, as one transaction: VSTT and VSTTX. -/
def tileStoreWord (d : BitVec 6) (h : Word) (L : Nat) (off : State → Env → Nat → Int) : Sem := fun e s =>
  let m := e.mode gM
  (s.tileCheck e.place h (width m.t) (e.modeType gM m.t) gateWrite).thenRun (fun e s =>
    elementwise gM (fun e m =>
      { L := L, srcs := [(0, d)], dest := .none, result := fun rd i => plainRes (rd 0 d m.t i),
        post := fun xs u =>
          u.tileWriteBy e.c e.k e.place h (enumFrom e.vstart xs |>.map fun x => (off s e x.1, x.2)) }) e s) e s
where
  /-- Bits without a flag. -/
  plainRes (x : Nat) : Res := (x, 0)
  /-- The elements performed, with their indices. -/
  enumFrom (i : Nat) : List (Option Nat) → List (Nat × Nat)
    | [] => []
    | none :: r => enumFrom (i + 1) r
    | some v :: r => (i, v) :: enumFrom (i + 1) r

/-- Index `i` of register `a`, read at stype as it stood before the word (R366, R367). -/
def indexAt (a : BitVec 6) (s : State) (e : Env) (i : Nat) : Int :=
  let m := e.mode gM
  intVal m.s (readElem s (s.strand e.c e.k) 1 a.toNat m.s i)

/-- Effective length of an indexed word (R366). -/
def Env.indexedL (e : Env) : Nat :=
  let m := e.mode gM
  min e.vl (min (vlmax m.t) (vlmax m.s))

/-- Effective length of the other words of the memory group. -/
def Env.memL (e : Env) : Nat := min e.vl (vlmax (e.mode gM).t)

/-- VLDT. -/
def effVldt (d a b : BitVec 6) : Sem := fun e s =>
  tileLoad d (e.xval a) e.memL (fun _ e i => offsetAt (e.xval b) i) e s

/-- VSTT. -/
def effVstt (d a b : BitVec 6) : Sem := fun e s =>
  tileStoreWord d (e.xval a) e.memL (fun _ e i => offsetAt (e.xval b) i) e s

/-- VLDTX. -/
def effVldtx (d a b : BitVec 6) : Sem := fun e s => tileLoad d (e.xval b) e.indexedL (indexAt a) e s

/-- VSTTX. -/
def effVsttx (d a b : BitVec 6) : Sem := fun e s => tileStoreWord d (e.xval b) e.indexedL (indexAt a) e s

/-- A tile atomic (R372): element by element in ascending order, `f` giving the new value from the mode, the old value, the
element of vd and that of v(d+1). -/
def tileAtomic (f : Mode → Nat → Nat → Nat → Res) (d a b : BitVec 6) : Sem := fun e s =>
  let m := e.mode gM
  let h := e.xval b
  (s.tileCheck e.place h (width m.t) (e.modeType gM m.t) gateWrite).thenRun (fun e s =>
    elementwise gM (fun e m =>
      { L := e.indexedL, srcs := [], dest := .v d m.t,
        pre := fun i u => u.tilePoisonExc e.c e.place h (indexAt a s e i),
        act := fun rd i u =>
          let off := indexAt a s e i
          let n := handleSlot h
          let t := u.tile e.place n
          if off < 0 || (t.size : Int) ≤ off then ((0, 0), u.onStrand e.c e.k fun st => st.oor h true off)
          else if u.tilePoison e.place n t off.toNat then ((0, 0), (u.poisonRead e.c e.k).countErr errPartialDrop (dieOf e.c))
          else
            let old := u.tileBits e.place n t off.toNat
            let (new, fl) := f m old (rd 0 d m.t i) (rd 0 (d + 1) m.t i)
            ((old, fl), u.tileStoreBy e.c e.k e.place n t [(off.toNat, new)]) }) e s) e s

/-- The new values of R372. -/
def addNew (m : Mode) (old v _ : Nat) : Res := fitInt m.t m.sat (intVal m.t old + intVal m.t v)
def maxNew (m : Mode) (old v _ : Nat) : Res := (intBits (lwidth m.t) (max (intVal m.t old) (intVal m.t v)), 0)
def casNew (_ : Mode) (old v new : Nat) : Res := (if old = v then new else old, 0)

/-- VTADDX. -/
def effVtaddx : BitVec 6 → BitVec 6 → BitVec 6 → Sem := tileAtomic addNew

/-- An odd d is the first fault of a compare-and-swap (R372). -/
def evenD (d : BitVec 6) (f : Sem) : Sem := fun e s =>
  if d.toNat % 2 = 1 then (.trap e.vstart (e.illegal 0), s) else f e s

/-- VTCASX. -/
def effVtcasx (d a b : BitVec 6) : Sem := evenD d (tileAtomic casNew d a b)

/-- VTMAXX. -/
def effVtmaxx : BitVec 6 → BitVec 6 → BitVec 6 → Sem := tileAtomic maxNew

end Sys2Proof.Machine
end

