-- ==== Sys2Proof/Machine/Matrix.lean ====
section
/-!
DEFINITION. The matrix and scale words: w buffers, codebook tables, block sums and block scales (R142 to R146, R387 to R401).
-/
namespace Sys2Proof.Machine

/-- The class of a matrix type (R388): 0 float8, 1 int8, 2 half. -/
def matrixClass (t : BitVec 4) : Option Nat :=
  match t.toNat with
  | 8 | 9 | 10 => some 0
  | 0 | 4 => some 1
  | 11 | 12 => some 2
  | _ => none

/-- w buffer `b` of a core. -/
def State.wbuf (s : State) (c b : Nat) : WBuf := SMap.get WBuf.reset (s.core c).wbufs b

/-- Replaces w buffer `b`. -/
def State.setWbuf (s : State) (c b : Nat) (w : WBuf) : State := s.onCore c fun r => { r with wbufs := r.wbufs.put b w }

/-- Codebook table `b` of a core. -/
def State.cb (s : State) (c b : Nat) : Codebook := SMap.get Codebook.reset (s.core c).cbs b

/-- Replaces codebook table `b`. -/
def State.setCb (s : State) (c b : Nat) (x : Codebook) : State := s.onCore c fun r => { r with cbs := r.cbs.put b x }

/-! ## Loading buffers and tables (R237, R390, R399) -/

/-- Copy table entry `n` of a core. -/
def State.copy (s : State) (c n : Nat) : Copy := SMap.get Copy.reset (s.core c).copies n

/-- Replaces copy table entry `n`. -/
def State.setCopy (s : State) (c n : Nat) (x : Copy) : State := s.onCore c fun r => { r with copies := r.copies.put n x }

/-- The lowest-numbered FREE entry. -/
def State.freeCopy (s : State) (c : Nat) : Option Nat :=
  (List.range 32).find? fun n => (s.copy c n).state = .free

/-- A copy out of a handle checks its state (R134) and waits at a drain count of 63 (R258). -/
def copyOut (t : Tile) (st : HState) : Gate := if gateCopyOut st = .legal && t.drains = 63 then .waits else gateCopyOut st

/-- The handle drains one more copy (R134). -/
def State.drain (s : State) (c : Nat) (h : Word) : State :=
  let n := handleSlot h
  let t := s.tile c n
  s.setTile c n { t with state := .draining, drains := t.drains + 1 }

/-- One copy out of the handle has ended; at zero the handle is FULL again (R136). -/
def State.undrain (s : State) (c : Nat) (h : Word) : State :=
  let n := handleSlot h
  let t := s.tile c n
  if s.handleOk c h && t.state = .draining then
    s.setTile c n { t with drains := t.drains - 1, state := if t.drains ≤ 1 then .full else .draining }
  else s

/-- Enters a copy into the table (R237). -/
def State.startCopy (s : State) (c k n after : Nat) (kind : CopyKind) (cmd : List Word) : State :=
  let o := (s.core c).copyOrder
  (s.setCopy c n { Copy.reset with state := .waiting, kind := kind, cmd := cmd, strand := k, order := o,
                                      after := after }).onCore c fun r =>
    { r with copyOrder := o + 1 }

/-- Runs `f` where a check of a handle passes. -/
def TileCheck.andThen (a b : TileCheck) : TileCheck :=
  match a with
  | .ok => b
  | x => x

/-- MLDW (R389, R390). One handle for both the elements and the scales is drained twice (R258). -/
def effMldw (d a b : BitVec 6) : Sem := fun e s =>
  let m := e.mode gX
  let pos := e.xval b
  let hB := e.xval a
  let hS := e.xval (a + 1)
  let bad (x : Exc) : Done × State := (.trap e.vstart x, s)
  if a.toNat % 2 = 1 || a = 0 then bad (e.illegal 1)
  else if matrixClass m.s = none then bad (e.modeType gX m.s)
  else if bits pos 63 48 ≠ 0 then bad (e.illegal 2)
  else if !s.handleOk e.place hB then bad (handleStale hB)
  else if hS ≠ 0 && !s.handleOk e.place hS then bad (handleStale hS)
  else
    let tB := s.tile e.place (handleSlot hB)
    let tS := s.tile e.place (handleSlot hS)
    if tB.w ≠ width m.s then bad (e.modeType gX m.s)
    else if hS ≠ 0 && tS.w ≠ 8 then bad (e.modeType gX 4)
    else
      let tS' := if hS = hB then { tS with drains := tS.drains + 1 } else tS
      let chk := (s.tileCheck e.place hB tB.w (handleStale hB) (copyOut tB)).andThen
        (if hS = 0 then .ok else s.tileCheck e.place hS tS.w (handleStale hS) (copyOut tS'))
      let w := s.wbuf e.place d.toNat
      match chk, s.freeCopy e.place with
      | .bad x, _ => bad x
      | .ok, some n =>
        if w.state ≠ .empty then (.stall, s)
        else
          let s1 := (s.drain e.place hB)
          let s2 := if hS = 0 then s1 else s1.drain e.place hS
          let s3 := s2.setWbuf e.place d.toNat
            { w with state := .filling, type := m.s, entry := n, ev := true, load := 0, addr := 0, strand := e.k }
          (.ok 1, s3.startCopy e.place e.k n e.fenceE (.mldw d.toNat) [hB, hS, pos, word m.s.toNat])
      | _, _ => (.stall, s)

/-- MRELW: a FULL buffer becomes EMPTY (R143, R391). -/
def effMrelw (d : BitVec 6) : Sem := fun e s =>
  let w := s.wbuf e.place d.toNat
  if w.state = .full then (.ok 1, s.setWbuf e.place d.toNat { w with state := .empty }) else (.stall, s)

/-- The state code of a buffer (R392). -/
def BState.code : BState → Nat
  | .empty => 0
  | .filling => 1
  | .full => 2

/-- MSTAT (R392). -/
def effMstat (d a : BitVec 6) : Sem := fun e s =>
  let w := s.wbuf e.place a.toNat
  let v := w.load.toNat * 2 ^ 14 + (if w.ev then 2 ^ 13 else 0) + w.entry * 2 ^ 8 +
    (if w.state = .empty then 0 else w.type.toNat * 16) + w.state.code
  (.ok 1, s.onStrand e.c e.k fun t => t.putX e.pos d.toNat (word v))

/-- COPY_ERROR from the load status of a buffer or table (R239, R391, R400). -/
def copyError (entry : Nat) (addr : Word) : Exc := devFault fCopyError entry addr

/-- The element of cb row `r`, as strand `t` reads it (R62, R146): undefined until the job's first VCBLD. -/
def Codebook.row (s : State) (t : Strand) (x : Codebook) (r : Nat) : Nat :=
  if x.loaded then (SMap.get 0 x.rows r).toNat else (t.undefined (s.free (65536 + r))).toNat % 2 ^ 32

/-- VCBLD (R399). -/
def effVcbld (d a b : BitVec 6) : Sem := fun e s =>
  let h := e.xval a
  let t := s.tile e.place (handleSlot h)
  match s.tileCheck e.place h 32 (e.illegal 1) (copyOut t), s.freeCopy e.place with
  | .bad x, _ => (.trap e.vstart x, s)
  | .ok, some n =>
    let x := s.cb e.place d.toNat
    if x.filling then (.stall, s)
    else
      let s1 := (s.drain e.place h).setCb e.place d.toNat { x with filling := true, load := 0, entry := n, addr := 0 }
      (.ok 1, s1.startCopy e.place e.k n e.fenceE (.vcbld d.toNat) [h, e.xval b])
  | _, _ => (.stall, s)

/-- VCBDEC: weights decoded through a codebook table, exactly (R63, R400). The table's ERROR is reported once. -/
def effVcbdec (d a b : BitVec 6) : Sem := fun e s =>
  let x := s.cb e.place b.toNat
  if x.filling then (.stall, s)
  else if x.load = 2 then
    (.trap e.vstart (copyError x.entry x.addr), s.setCb e.place b.toNat { x with load := 0 })
  else
    elementwise gX (fun e _ =>
      { L := min e.vl 1024, srcs := [(1, a)], dest := .v d 8,
        result := fun rd i =>
          let v := if isQ a then rd 1 a 3 i else rd 1 a 5 (i / 8)
          let j := if isQ a then v / 2 ^ 16 % 8 else i % 8
          (codebookWeight (Codebook.row s (s.strand e.c e.k) x (v / 2 ^ 8 % 128)) (v % 2 ^ 16) j, 0) }) e s

/-! ## MROW (R393) -/

/-- One block sum: 32 elements of A by column `n` of B (R72 to R74). -/
def blockSum (ta : BitVec 4) (w : WBuf) (row : List Nat) (n : Nat) : Res :=
  let b : Nat → Nat := fun k => (SMap.get 0 w.elems (128 * k + n)).toNat
  let pairs := (List.range 32).map fun k => (row.getD k 0, b k)
  match matrixClass ta with
  | some 1 => (intBits 40 (pairs.foldl (fun x p => x + intVal ta p.1 * intVal w.type p.2) 0), 0)
  | some 2 => blockSumTree (pairs.map fun p => (fdecode (fmt ta) p.1).mul (fdecode (fmt w.type) p.2))
  | _ => blockSumExact (pairs.map fun p => (fdecode (fmt ta) p.1).mul (fdecode (fmt w.type) p.2))

/-- The 128 partials of one row of A, with their flags. -/
def partials (ta : BitVec 4) (w : WBuf) (row : List Nat) : List Nat × FlagSet :=
  let r := (List.range 128).map fun n => blockSum ta w row n
  (r.map (·.1), r.foldl (fun fl x => fl ||| x.2) 0)

/-- The violation met by popping `n` tokens that pair scales. -/
def pairFault : Nat → Queue → Option Nat
  | 0, _ => none
  | n + 1, q =>
    match q.violation true, q.head with
    | some k, _ => some k
    | none, some t => pairFault n (q.pop true t)
    | none, none => none

/-- Pops a row of `n` tokens with its scale byte: the one paired with the first token. -/
def popRow (e : Env) (r : QRef) : Nat → State → List Token × State
  | 0, s => ([], s)
  | n + 1, s =>
    let (t, s1) := s.popQ e r true
    let (l, s2) := popRow e r n s1
    (t :: l, s2)

/-- The scale byte that the block at the head of a queue has: that of the block under way, or of the scale token at the
head. -/
def Queue.headScale (q : Queue) : Byte :=
  if 0 < q.gram.left then q.gram.scale else ((leadScales q.items).headD 0).extractLsb' 0 8

/-- What MROW finds of a row in a queue: nothing to fire on, a fault, or the row. -/
inductive RowAt where
  | none
  | bad (x : Exc)
  | row
  deriving DecidableEq, Repr

/-- The violation of a row that a STOP or DONE cuts short after `n` tokens: that of a token before it, else the lowest of SCALE and
what the STOP or DONE breaks itself (R218). -/
def cutFault : Nat → Queue → Nat
  | 0, q => (q.violation true).elim 10 (min 10)
  | n + 1, q =>
    match q.violation true, q.head with
    | some k, _ => k
    | none, some t => cutFault n (q.pop true t)
    | none, none => 10

/-- A row of 32 tokens at the head of queue `r` (R209, R393). -/
def State.rowAt (s : State) (r : QRef) : RowAt :=
  let q := s.queue r.core r.q
  let (n, stop) := q.run
  if n < 32 then (if 0 < n && stop then .bad (malformed (cutFault n q) r.q) else .none)
  else
    match pairFault 32 q with
    | some k => .bad (malformed k r.q)
    | Option.none => .row

/-- MROW as a strand word: VL, VSTART and the guard are ignored; a queue destination is refused (R212). -/
def effMrow (d a b : BitVec 6) : Sem := fun e s =>
  let m := e.mode gX
  let w := s.wbuf e.place b.toNat
  let r := e.inQ a
  let fire (row : List Token) (s : State) : Done × State :=
    let (ps, fl) := partials m.t w (row.map fun t => t.data.toNat % 2 ^ width m.t)
    let s1 := (s.onStrand e.c e.k fun t => ((t.flag fl).count 3 128).writeVec s d.toNat 0xF 0 (ps.map some) 128)
    (.ok 32, s1.onCore e.place fun x => { x with events := SMap.set 0 x.events 0x10 (SMap.get 0 x.events 0x10 + 1) })
  match if isQ d then some (e.illegal 0) else queueFault s e 32 1 false a with
  | some x => (.trap 0 x, s)
  | none =>
    if w.state ≠ .full then (.stall, s)
    else if matrixClass m.t ≠ matrixClass w.type then (.trap 0 (e.modeType gX w.type), s)
    else if isQ a then
      match s.rowAt r with
      | .bad x => (.trap 0 x, s)
      | .row => let (l, s1) := popRow e r 32 s; fire l s1
      | .none => if (s.queue r.core r.q).run.2 then (.ok 0, s) else (.stall, s)
    else fire ((List.range 32).map fun k => tVal (readElem s (s.strand e.c e.k) 1 a.toNat m.t k)) s

/-! ## Block scales (R75, R396 to R398) -/

/-- VBSCALE (R396). -/
def effVbscale (d a b : BitVec 6) : Sem := fun e s =>
  let w := s.wbuf e.place b.toNat
  if w.state ≠ .full then (.stall, s)
  else
    let sa := (e.xval a).toNat % 256
    let xs := (List.range 128).map fun n => some ((SMap.get 0 w.scales n).toNat * 256 + sa)
    (.ok 128, s.onStrand e.c e.k fun t => (t.count 3 128).writeVec s d.toNat 3 0 xs 128)

/-- R75 with an INT40 partial taken as its exact value. -/
def scaleAccInt (rnd : BitVec 3) (sat : Bool) (acc p a b : Nat) : Res :=
  if a = 0xFF ∨ b = 0xFF then (defaultNaN fp40, flagNV)
  else
    let x := intVal 0xF p
    fdeliver fp40 rnd sat ((fdecode fp40 acc).add rnd ((FVal.num (decide (x < 0)) x.natAbs 0).scale (scaleExp a b)))

/-- VSCACC (R397). -/
def effVscacc (d a b : BitVec 6) : Sem := fun e s =>
  elementwise gX (fun e m =>
    { L := min e.vl 128, srcs := [(1, a)], dest := .v d 0xF, pairs := true,
      act := fun rd i u =>
        let n := e.place_ i % 128
        let pair := rd 2 b 7 n
        let r := e.inQ a
        let sa := if isQ a then (u.queue r.core r.q).gram.scale.toNat else pair % 256
        let sb := pair / 256 % 256
        let p := rd 1 a 0xF i
        let acc := rd 0 d 0xF i
        let f := if m.s = 3 then scaleAccInt else scaleAccumulate
        (f m.rnd m.sat acc p sa sb, u) }) e s

/-- An element of a floating type that a NaN scale meets, ACC40 taken as FP40 (R59, R398). -/
def nanScaled (t : BitVec 4) : Res :=
  (defaultNaN (fmt t), flagNV)

/-- A · 2^x converted once to `t` (R65 to R67, R398). -/
def scaledTo (m : Mode) (x : Int) (a : Nat) : Res :=
  let f := fmt m.s
  if isInt8to64 m.t then
    match fdecode f a with
    | .num n v ex => intFrom m n v (ex + x)
    | _ => cvtFI f m.t m.rnd m.sat a
  else
    match fdecode f a with
    | .num n v ex => fround (fmt m.t) m.rnd m.sat n v (ex + x)
    | _ => cvtFF f (fmt m.t) m.rnd m.sat a
where
  /-- An exact value to an integer type (R67). -/
  intFrom (m : Mode) (n : Bool) (v : Nat) (ex : Int) : Res :=
    let (r, inexact) := roundAt m.rnd n v ex 0
    let y : Int := if n then -(r : Int) else r
    let w := lwidth m.t
    let bad (bound : Int) : Res :=
      if m.sat then (intBits w bound, flagNV ||| flagSAT)
      else (intBits w (if isSigned m.t then intMin m.t else intMax m.t), flagNV)
    if y < intMin m.t then bad (intMin m.t)
    else if intMax m.t < y then bad (intMax m.t)
    else (intBits w y, flagIf inexact flagNX)

/-- The NaN case of R67 for a NaN scale and an integer type. -/
def nanInt (m : Mode) : Res := cvtFI (fmt 13) m.t m.rnd m.sat (defaultNaN (fmt 13))

/-- A block-scale word: `sign` is 1 for VSCAPPLY and −1 for VMXQ. -/
def blockScale (sign : Int) (lead : Bool) (d a b : BitVec 6) : Sem := fun e s =>
  elementwise gX (fun e m =>
    let L := min e.vl (min (vlmax m.s) (vlmax m.t))
    let sc : Rd → Nat → Nat := fun rd i => rd 2 b 4 (e.place_ i / 32)
    { L := L, srcs := [(1, a)], dest := .v d m.t,
      result := fun rd i =>
        let k := sc rd i
        if k = 0xFF then (if isInt8to64 m.t then nanInt m else nanScaled m.t)
        else scaledTo m (sign * ((k : Int) - 127)) (rd 1 a m.s i),
      lead := fun i =>
        if lead && isQ d && e.place_ i % 32 = 0 then
          let k := readElem s (s.strand e.c e.k) 2 b.toNat 4 (e.place_ i / 32)
          let len := if e.isStrand then min 32 (L - i) else 32
          some (BitVec.ofNat 16 (k + (len - 1) * 256))
        else none }) e s

/-- VSCAPPLY (R398). -/
def effVscapply : BitVec 6 → BitVec 6 → BitVec 6 → Sem := blockScale 1 false

/-- VMXQ (R398). -/
def effVmxq : BitVec 6 → BitVec 6 → BitVec 6 → Sem := blockScale (-1) true

/-! ## VACCRD (R401) -/

/-- One accumulator read out: A · 2^n, rounded or fitted once. -/
def accRead (m : Mode) (n : Int) (a : Nat) : Res :=
  if isFA m.t then
    match fdecode fp40 a with
    | .num neg v ex => fround (fmt m.t) m.rnd m.sat neg v (ex + max (-10000) (min 10000 n))
    | _ => cvtFF fp40 (fmt m.t) m.rnd m.sat a
  else
    let x := intVal 0xF a
    if 0 ≤ n then fitInt m.t m.sat (x * 2 ^ (min n 10000).toNat)
    else fitInt m.t m.sat (rndInt m.rnd x (min (-n) 10000).toNat)

/-- Elements from `lo` on that an outcome says were processed. -/
def Done.processed (lo : Nat) : Done → Nat
  | .ok c => c
  | .trap i _ => i - lo
  | .stall => 0

/-- VACCRD: of the elements that it processes, the clears of the accumulators first, and then the results. -/
def effVaccrd (d a b : BitVec 6) : Sem := fun e s =>
  let m := e.mode gX
  let L := min e.vl (min 128 (vlmax m.t))
  let n := (e.xval b).toInt
  let t0 := s.strand e.c e.k
  let clear (c : Nat) : State :=
    if isQ a || c = 0 then s
    else
      let xs := (List.range c).map fun j => if guardAt t0 m (e.vstart + j) then some 0 else none
      s.onStrand e.c e.k fun t => t.writeVec s a.toNat 0xF e.vstart xs (max (t.mark a.toNat) (e.vstart + c))
  let run : Sem := fun e u =>
    elementwise gX (fun _e m =>
      { L := L, srcs := [(1, a)], dest := .v d m.t,
        result := fun rd i =>
          accRead m n (if isQ a then rd 1 a 0xF i else readElem s t0 1 a.toNat 0xF i) }) e u
  let c := (run e s).1.processed e.vstart
  match run e (clear c) with
  | (.stall, _) => (.stall, s)
  | (r, u) =>
    if d = a && !isQ a && 0 < c then
      (r, u.onStrand e.c e.k fun t => { t with hwm := SMap.set 0 t.hwm d.toNat (max (t0.mark a.toNat) (e.vstart + c)) })
    else (r, u)

end Sys2Proof.Machine
end

