-- ==== Sys2Proof/Machine/Memory.lean ====
section
/-!
DEFINITION. Vector memory words through probes and held rows, pushes to other cores and watches (R120 to R123, R155 to R159,
R366 to R376).
-/
namespace Sys2Proof.Machine

/-! ## Probes (R120, R122) -/

/-- Probe register `p` of a strand. -/
def Strand.probe (t : Strand) (p : Nat) : Probe := SMap.get Probe.reset t.probes p

/-- PS as a word (R120). -/
def Probe.ps (p : Probe) : Word :=
  word ((if p.live then 2 ^ 63 else 0) + (if p.w then 2 ^ 62 else 0) + (if p.r then 2 ^ 61 else 0) + p.lenm1.toNat)

/-- The address that `va`, inside the range of a live probe, reaches. -/
def Probe.phys (p : Probe) (va : Word) : Phys :=
  let i := va.toNat / 4096 - p.base.toNat / 4096
  match p.pages[i]? with
  | some g => g.base.plus (va.toNat % 4096)
  | none => .dev (word (va.toNat % 2 ^ 56)).toNat

/-- PROBE_OK (R122): `rd` and `wr` say which permissions the access needs. -/
def probeFault (p : Probe) (n : Nat) (raw : BitVec 32) (va : Word) (len : Nat) (rd wr : Bool) : Option Exc :=
  if !p.live then some (devFault fProbeMissing n (raw.setWidth 64))
  else if va.toNat < p.base.toNat || p.base.toNat + p.lenm1.toNat < va.toNat + len - 1 then some (devFault fProbeRange n va)
  else if rd && !p.r then some (devFault fProtection 0 va)
  else if wr && !p.w then some (devFault fProtection 1 va)
  else none

/-- Bytes of an element, and ALIGN(t) (R366). -/
def alignOf (t : BitVec 4) : Nat := max (width t / 8) 1

/-- The checks of an element of a probed word (R368). -/
def Env.elemFault (e : Env) (s : State) (p : BitVec 6) (t : BitVec 4) (va : Word) (rd wr : Bool) : Option Exc :=
  if va.toNat % alignOf t ≠ 0 then some (devFault fMisaligned (alignOf t) va)
  else probeFault ((s.strand e.c e.k).probe p.toNat) p.toNat e.raw va (alignOf t) rd wr

/-- POISON, where the job's setting makes a poisoned read trap (R170). -/
def State.poisonExc (s : State) (c : Nat) (va : Word) (q : Phys) : Option Exc :=
  if s.poisonTrap c && s.poisonAt q then some (devFault fPoison 0 (lineAddr va)) else none

/-- The first of two checks that fails. -/
def orElse (a b : Option Exc) : Option Exc :=
  match a with
  | some x => some x
  | none => b

/-- Reads `n` bytes of memory for a vector word or a node: zero with PSN from a poisoned line (R170). -/
def State.vread (s : State) (c k : Nat) (q : Phys) (n : Nat) : Nat × State :=
  let s := s.touch q
  if s.poisonAt q then (0, s.poisonRead c k) else (s.numAt q n, s)

/-- A vector word of a strand reads memory past the scalar data cache, whose line it brings up to date (R176). -/
def State.vload (s : State) (c k : Nat) (q : Phys) (n : Nat) : Nat × State := (s.vread c k q n).map id fun u => u.refresh c q

/-- The nibble of an FP4E2M1 element, and any other element, out of the bytes read (R367). -/
def unpackElem (t : BitVec 4) (i v : Nat) : Nat := if t = 10 then v / 16 ^ (i % 2) % 16 else v % 2 ^ lwidth t

/-! ## Loads (R367, R369) -/

/-- A vector load: element i lies at `at_ e i`. -/
def vload (d p : BitVec 6) (L : Env → Nat) (at_ : State → Env → Nat → Word) : Sem := fun e s =>
  elementwise gM (fun e m =>
    let addr := at_ s e
    let pr := (s.strand e.c e.k).probe p.toNat
    { L := L e, srcs := [], dest := .v d m.t,
      pre := fun i u => orElse (e.elemFault u p m.t (addr i) true false) (u.poisonExc e.c (addr i) (pr.phys (addr i))),
      act := fun _ i u =>
        let (v, u') := u.vload e.c e.k (pr.phys (addr i)) (alignOf m.t)
        ((unpackElem m.t i v, 0), u') }) e s

/-- Address of element i of a unit-stride word; two FP4E2M1 elements share a byte. -/
def unitAddr (a : BitVec 6) (_ : State) (e : Env) (i : Nat) : Word :=
  let t := (e.mode gM).t
  e.xval a + word (i * width t / 8)

/-- Address of element i of a strided word: the pair x[a], x[a+1]. -/
def strideAddr (a : BitVec 6) (_ : State) (e : Env) (i : Nat) : Word := e.xval a + word i * e.xval (a + 1)

/-- Address of element i of an indexed word. -/
def indexAddr (a p : BitVec 6) (s : State) (e : Env) (i : Nat) : Word :=
  let sz := alignOf (e.mode gM).t
  ((s.strand e.c e.k).probe p.toNat).base + BitVec.ofInt 64 (indexAt a s e i * sz)

/-- An odd or zero register pair is the first fault of a strided word (R367). -/
def pairA (a : BitVec 6) (f : Sem) : Sem := fun e s =>
  if a.toNat % 2 = 1 || a = 0 then (.trap e.vstart (e.illegal 1), s) else f e s

/-- VLD. -/
def effVld (d a b : BitVec 6) : Sem := vload d b Env.memL (unitAddr a)

/-- VLDS. -/
def effVlds (d a b : BitVec 6) : Sem := pairA a (vload d b Env.memL (strideAddr a))

/-- VLDX. -/
def effVldx (d a b : BitVec 6) : Sem := vload d b Env.indexedL (indexAddr a b)

/-- VLDB: the unit is read once, at the first processed element, and every processed element receives its value. -/
def effVldb (d a b : BitVec 6) : Sem := fun e s =>
  let m := e.mode gM
  let va := e.xval a
  let q := ((s.strand e.c e.k).probe b.toNat).phys va
  let first := ((List.range e.memL).filter fun i => e.vstart ≤ i && guardAt (s.strand e.c e.k) m i).head?
  elementwise gM (fun e m =>
    { L := e.memL, srcs := [], dest := .v d m.t,
      pre := fun _ u => orElse (e.elemFault u b m.t va true false) (u.poisonExc e.c va q),
      act := fun _ i u =>
        if first = some i then
          let (v, u') := u.vload e.c e.k q (alignOf m.t)
          ((unpackElem m.t 0 v, 0), u')
        else ((unpackElem m.t 0 (if u.poisonAt q then 0 else s.numAt q (alignOf m.t)), 0), u) }) e s

/-! ## Stores (R190, R191, R369) -/

/-- The bytes of one stored element: an FP4E2M1 element replaces a nibble of its byte, seen through the bytes that the word
has already given. -/
def elemPieces (s : State) (t : BitVec 4) (q : Phys) (i v : Nat) (acc : Pieces) : Pieces :=
  if t = 10 then
    let old : Nat := match acc.reverse.find? fun x => x.1 = q with
      | some (_, b) => b.toNat
      | none => (s.byteAt q).toNat
    let b := if i % 2 = 0 then old / 16 * 16 + v % 16 else v % 16 * 16 + old % 16
    acc ++ [(q, BitVec.ofNat 8 b)]
  else acc ++ piecesOf q (toBytes v (alignOf t))

/-- The elements that a word performed, with their indices. -/
def performed (i : Nat) : List (Option Nat) → List (Nat × Nat)
  | [] => []
  | none :: r => performed (i + 1) r
  | some v :: r => (i, v) :: performed (i + 1) r

/-- An order in which any of several elements on one unit may come last (R191). -/
def anyOrder (tick : Nat) : List (Nat × Nat) → List (Nat × Nat)
  | [] => []
  | x :: r => let l := anyOrder tick r; if Config.choice (tick * 4096 + x.1) % 2 = 0 then x :: l else l ++ [x]

/-- A piece in place of an earlier one of the same byte. -/
def addPiece (ps : Pieces) (x : Phys × Byte) : Pieces := ps.filter (fun y => y.1 ≠ x.1) ++ [x]

/-- Whether both nibbles of a byte were given. -/
def nibblesFull (t : BitVec 4) (at_ : Nat → Phys) (ws : List (Nat × Nat)) (q : Phys) : Bool :=
  t ≠ 10 || (ws.any (fun x => at_ x.1 = q && x.1 % 2 = 0) && ws.any (fun x => at_ x.1 = q && x.1 % 2 = 1))

/-- Performs the stores of a word as one transaction; a byte of which only one nibble is given does not help to cover its
line (R169). The last bytes given stand. -/
def State.vstore (s : State) (e : Env) (t : BitVec 4) (at_ : Nat → Phys) (ws : List (Nat × Nat)) : State :=
  let s1 := ws.foldl (fun (u : State) x => u.touch (at_ x.1)) s
  let given := ws.foldl (fun acc x => elemPieces s t (at_ x.1) x.1 x.2 acc) []
  let ps := if t = 10 then given.foldl addPiece [] else given
  let whole := ps.filter fun x => nibblesFull t at_ ws x.1
  let part := ps.filter fun x => !nibblesFull t at_ ws x.1
  s1.storeWith (.strand e.c e.k) whole part

/-- A vector store: the performed elements in ascending order, or in any order for an unordered word. -/
def vstoreWord (d p : BitVec 6) (ordered : Bool) (L : Env → Nat) (at_ : State → Env → Nat → Word) : Sem := fun e s =>
  elementwise gM (fun e m =>
    let addr := at_ s e
    let pr := (s.strand e.c e.k).probe p.toNat
    { L := L e, srcs := [(0, d)], dest := .none, result := fun rd i => (rd 0 d m.t i, 0),
      pre := fun i u => orElse (e.elemFault u p m.t (addr i) false true) (u.recordFault e.c e.k (addr i) (pr.phys (addr i))),
      post := fun xs u =>
        let ws := performed e.vstart xs
        u.vstore e m.t (fun i => pr.phys (addr i)) (if ordered then ws else anyOrder s.tick ws) }) e s

/-- VST. -/
def effVst (d a b : BitVec 6) : Sem := vstoreWord d b true Env.memL (unitAddr a)

/-- VSTS. -/
def effVsts (d a b : BitVec 6) : Sem := pairA a (vstoreWord d b true Env.memL (strideAddr a))

/-- VSTX. -/
def effVstx (d a b : BitVec 6) : Sem := vstoreWord d b true Env.indexedL (indexAddr a b)

/-- VSTU. -/
def effVstu (d a b : BitVec 6) : Sem := vstoreWord d b false Env.memL (unitAddr a)

/-- VSTSU. -/
def effVstsu (d a b : BitVec 6) : Sem := pairA a (vstoreWord d b false Env.memL (strideAddr a))

/-- VSTXU. -/
def effVstxu (d a b : BitVec 6) : Sem := vstoreWord d b false Env.indexedL (indexAddr a b)

/-- VPREF: no access, no register, no flag; an element that fails its checks is ignored (R370). -/
def effVpref (_a _b : BitVec 6) : Sem := fun _ s => (.ok 0, s)

/-! ## Memory atomics (R372) -/

/-- A vector atomic on memory: each element reads and writes its unit in one step; on a poisoned line it returns zero and
writes nothing (R169). -/
def memAtomic (f : Mode → Nat → Nat → Nat → Res) (d a b : BitVec 6) : Sem := fun e s =>
  elementwise gM (fun e m =>
    let addr := indexAddr a b s e
    let pr := (s.strand e.c e.k).probe b.toNat
    { L := e.indexedL, srcs := [], dest := .v d m.t,
      pre := fun i u => firstExc [e.elemFault u b m.t (addr i) true true, u.recordFault e.c e.k (addr i) (pr.phys (addr i)),
        u.poisonExc e.c (addr i) (pr.phys (addr i))],
      act := fun rd i u =>
        let q := pr.phys (addr i)
        let u := u.touch q
        if u.poisonAt q then ((0, 0), (u.poisonRead e.c e.k).countErr errPartialDrop (dieOf e.c))
        else
          let old := u.numAt q (alignOf m.t)
          let (new, fl) := f m old (rd 0 d m.t i) (rd 0 (d + 1) m.t i)
          ((old, fl), (u.refresh e.c q).store (.strand e.c e.k) (piecesOf q (toBytes new (alignOf m.t)))) }) e s

/-- VATADDX. -/
def effVataddx : BitVec 6 → BitVec 6 → BitVec 6 → Sem := memAtomic addNew

/-- VATCASX. -/
def effVatcasx (d a b : BitVec 6) : Sem := evenD d (memAtomic casNew d a b)

/-! ## Held rows (R156, R158, R373) -/

/-- Held-row entry `i` of a strand. -/
def Strand.row (t : Strand) (i : Nat) : HeldRow := SMap.get HeldRow.reset t.rows i

/-- Index of a row handle, and whether the handle is current (R156, R158). -/
def rowIndex (h : Word) : Nat := bits h 2 0
def Strand.rowOk (t : Strand) (h : Word) : Bool :=
  let r := t.row (rowIndex h)
  bits h 7 3 == 1 && r.held && r.epoch.toNat == bits h 63 8

/-- ROW_LOST at byte `off` of the row (R158): stval is 0 where the entry has held no row in the job. -/
def Strand.rowLost (t : Strand) (h off : Word) : Exc :=
  let r := t.row (rowIndex h)
  devFault fRowLost (rowIndex h) (if r.known then r.vaddr + off else 0)

/-- The checks of VLDW and VSTW, in order (R373). -/
def rowFault (e : Env) (s : State) (h off : Word) (write : Bool) : Option Exc :=
  let t := (e.mode gM).t
  let st := s.strand e.c e.k
  let r := st.row (rowIndex h)
  if !st.rowOk h then some (st.rowLost h (off + word (e.vstart * width t / 8)))
  else if off.toNat % alignOf t ≠ 0 then some (devFault fMisaligned (alignOf t) (r.vaddr + off))
  else if e.vstart < e.memL && 1024 < off.toNat + (e.memL * width t + 7) / 8 then some (e.illegal 2)
  else if write && !r.w then some (devFault fProtection 1 (r.vaddr + off))
  else none

/-- Where element i of a held row lies (R159). -/
def rowElem (e : Env) (s : State) (h off : Word) (i : Nat) : Phys :=
  let r := (s.strand e.c e.k).row (rowIndex h)
  .dev (r.phys + off.toNat + i * width (e.mode gM).t / 8)

/-- The virtual address of element i of a held row. -/
def rowVa (e : Env) (s : State) (h off : Word) (i : Nat) : Word :=
  ((s.strand e.c e.k).row (rowIndex h)).vaddr + off + word (i * width (e.mode gM).t / 8)

/-- VLDW. -/
def effVldw (d a b : BitVec 6) : Sem := fun e s =>
  let h := e.xval a
  let off := e.xval b
  match rowFault e s h off false with
  | some x => (.trap e.vstart x, s)
  | none =>
    elementwise gM (fun e m =>
      { L := e.memL, srcs := [], dest := .v d m.t,
        pre := fun i u => u.poisonExc e.c (rowVa e s h off i) (rowElem e s h off i),
        act := fun _ i u =>
          let (v, u') := u.vload e.c e.k (rowElem e s h off i) (alignOf m.t)
          ((unpackElem m.t i v, 0), u') }) e s

/-- VSTW. -/
def effVstw (d a b : BitVec 6) : Sem := fun e s =>
  let h := e.xval a
  let off := e.xval b
  match rowFault e s h off true with
  | some x => (.trap e.vstart x, s)
  | none =>
    elementwise gM (fun e m =>
      { L := e.memL, srcs := [(0, d)], dest := .none, result := fun rd i => (rd 0 d m.t i, 0),
        pre := fun i u => u.recordFault e.c e.k (rowVa e s h off i) (rowElem e s h off i),
        post := fun xs u => u.vstore e m.t (rowElem e s h off) (performed e.vstart xs) }) e s

/-! ## VPUSH (R374) -/

/-- Die, row and column of a core (R93). -/
def coreDie (c : Nat) : Nat := c / 64
def coreRow (c : Nat) : Nat := c / 8 % 8
def coreCol (c : Nat) : Nat := c % 8

/-- Mesh neighbours on one die, joined by a lane link. -/
def neighbours (a b : Nat) : Bool :=
  coreDie a == coreDie b &&
    ((coreRow a == coreRow b && (coreCol a == coreCol b + 1 || coreCol b == coreCol a + 1)) ||
     (coreCol a == coreCol b && (coreRow a == coreRow b + 1 || coreRow b == coreRow a + 1)))

/-- A run of tokens leaves core `src` over a lane link toward queue `q` of core `c`. -/
def State.launch (s : State) (src c q : Nat) (ts : List Token) : State :=
  let run : List Flight := (List.range ts.length).zip ts |>.map fun x =>
    { q := q, item := .tok x.2, slot := none, node := 0, via := none, rest := ts.length - 1 - x.1, src := src }
  s.onCore c fun x => { x with flights := x.flights ++ run }

/-- VPUSH: elements VSTART to L−1 to a queue of this core or of a mesh neighbour in the region. -/
def effVpush (d a b : BitVec 6) : Sem := fun e s =>
  let m := e.mode gM
  let n := e.memL - e.vstart
  let to_ := (e.xval a).toNat
  let q := b.toNat - 48
  let near : Bool := to_ < 256 && (to_ == e.c || (neighbours e.c to_ && (s.core to_).region == (s.core e.c).region))
  let r : QRef := { field := b.toNat, core := to_, q := q, entry := 0 }
  if !near then (.trap e.vstart (e.illegal 1), s)
  else if (s.queue to_ q).owner.isSome then (.trap e.vstart (e.illegal 2), s)
  else if 64 < n then (.trap e.vstart (e.illegal 0), s)
  else if n = 0 then (.ok 0, s)
  else if s.roomIn r < n then (.stall, s)
  else
    match s.latchFault e r with
    | some x => (.trap e.vstart x, s)
    | none =>
      let t0 := s.strand e.c e.k
      let ts := (List.range n).map fun j =>
        let i := e.vstart + j
        tVal (if guardAt t0 m i then readElem s t0 0 d.toNat m.t i else 0)
      let s1 := if to_ = e.c then ts.foldl (fun (u : State) t => u.pushQ e r (.tok t)) s else s.launch e.c to_ q ts
      (.ok n, s1.countSlots e m.t (e.vstart + n))

/-! ## VARM (R375) -/

/-- VARM: keeps the value of the unit at admission; a fifth watch waits. -/
def effVarm (d a b : BitVec 6) : Sem := fun e s =>
  let va := e.xval a
  let q := d.toNat - 48
  let pr := (s.strand e.c e.k).probe b.toNat
  if (s.queue e.c q).owner.isSome then (.trap 0 (e.illegal 0), s)
  else if va.toNat % 8 ≠ 0 then (.trap 0 (devFault fMisaligned 8 va), s)
  else
    match orElse (probeFault pr b.toNat e.raw va 8 true false) (s.poisonExc e.c va (pr.phys va)) with
    | some x => (.trap 0 x, s.notePoison e x)
    | none =>
      if 4 ≤ (s.strand e.c e.k).watches.length then (.stall, s)
      else
        let (v, s1) := s.vload e.c e.k (pr.phys va) 8
        (.ok 1, s1.onStrand e.c e.k fun t => { t with watches := t.watches ++ [{ unit := pr.phys va, q := q, v0 := word v }] })

end Sys2Proof.Machine
end

