-- ==== Sys2Proof/Machine/QueueWords.lean ====
section
/-!
DEFINITION. The queue words (R429 to R433): each moves at most one token of a queue of the issuing core and ignores VL, VSTART,
the guard and every mode field.
-/
namespace Sys2Proof.Machine

/-- A push of one token by a strand word: refused into a claimed queue and after DONE, and waiting for room (R205, R218,
R429). `bad` is the word's own fault, found once the queue may be pushed. -/
def pushToken (d : BitVec 6) (bad : Env → Option Exc) (tok : Env → Token) : Sem := fun e s =>
  let r := e.inQ d
  let q := s.queue r.core r.q
  if q.owner.isSome then (.trap 0 (e.illegal 0), s)
  else
    match bad e with
    | some x => (.trap 0 x, s)
    | none =>
      match s.latchFault e r with
      | some x => (.trap 0 x, s)
      | none => if s.roomIn r = 0 then (.stall, s) else (.ok 1, s.pushQ e r (.tok (tok e)))

/-- QPUSHX: x[a] as a VAL token (R430). -/
def effQpushx (d a : BitVec 6) : Sem := pushToken d (fun _ => none) fun e => { kind := kVal, data := e.xval a }

/-- QSTOPX: STOP of level x[a], at most 14 (R430). -/
def effQstopx (d a : BitVec 6) : Sem :=
  pushToken d (fun e => if 14 < (e.xval a).toNat then some (e.illegal 1) else none) fun e => tStop (e.xval a).toNat

/-- QDONE: DONE, which sets the latch (R430). -/
def effQdone (d : BitVec 6) : Sem := pushToken d (fun _ => none) fun _ => tDone

/-- QPOPX: the head token of any kind; its payload to x[d] (R431). -/
def effQpopx (d a : BitVec 6) : Sem := fun e s =>
  let r := e.inQ a
  let q := s.queue r.core r.q
  if q.owner.isSome then
    (.trap 0 { cause := 48, stval := 0, vcause := word (fQueueUnderflow + r.q * 2 ^ 20), pages := [] }, s)
  else if q.held = 0 then (.stall, s)
  else
    match s.headFault r false with
    | some x => (.trap 0 x, s)
    | none =>
      let (t, s1) := s.popQ e r false
      (.ok 1, s1.onStrand e.c e.k fun st => st.putX e.pos d.toNat t.data)

/-- The status word of QPEEK (R432). -/
def Queue.status (q : Queue) : Word :=
  let head : Nat := match q.head with
    | none => 3
    | some t => t.kind.toNat + (if t.kind = kStop then bits t.data 3 0 * 4 else 0)
  word ((if q.owner.isSome then 2 ^ 19 else 0) + (if q.doneLatch then 2 ^ 18 else 0) + (scalesOf q.items).length * 2 ^ 13 +
    q.held * 64 + head)

/-- QPEEK: never waits and pops nothing (R432). -/
def effQpeek (d a : BitVec 6) : Sem := fun e s =>
  let r := e.inQ a
  (.ok 1, s.onStrand e.c e.k fun st => st.putX e.pos d.toNat (s.queue r.core r.q).status)

/-- The queue with nothing in it, keeping its attributes. -/
def Queue.emptied (q : Queue) : Queue := { q with items := [], doneLatch := false, gram := .reset }

/-- QDRAIN: discards every token; a queue claimed by a slot that runs waits until the slot is IDLE or FREE (R433). -/
def effQdrain (d a : BitVec 6) : Sem := fun e s =>
  let r := e.inQ a
  let q := s.queue r.core r.q
  let idle : Bool := match q.owner with
    | none => true
    | some n => (s.slot (n / 4) (n % 4)).state = .idle || (s.slot (n / 4) (n % 4)).state = .free
  if !idle then (.stall, s)
  else (.ok 1, (s.setQueue r.core r.q q.emptied).onStrand e.c e.k fun st => st.putX e.pos d.toNat (word q.held))

end Sys2Proof.Machine
end

