-- ==== Sys2Proof/Machine/RecordForm.lean ====
section
/-!
DEFINITION. The form of chain configuration records: their entries, and the words, queues, modes and targets of their nodes (R246 to
R252).
-/
namespace Sys2Proof.Machine

/-! ## What a word is -/

/-- OPN of a word of the vector space (R302). -/
def opnOf (raw : BitVec 32) : Nat := (raw.extractLsb' 25 7).toNat + (if raw.extractLsb' 0 7 = 0x2B then 128 else 0)

/-- The mode register of a word (R112). -/
def groupOf (opn : Nat) : Nat :=
  if opn < 0x38 then gI
  else if opn < 0x58 then gF
  else if opn < 0x67 then gI
  else if opn < 0x6A then gF
  else if opn < 0x78 then gI
  else if opn < 0x98 then gM
  else if opn < 0xB0 then gX
  else gI

/-! ## The record (R246 to R252) -/

/-- A queue entry (R248). -/
structure QEntry where
  q : Nat
  d : Nat
  n : Nat
  sorted : Bool
  bound : Nat
  xport : Nat
  route : Nat
  order : Bool
  prod : Nat
  cons : Nat
  deriving DecidableEq, Repr

/-- A node entry (R249). -/
structure NEntry where
  word : BitVec 32
  kind : Nat
  unit : Nat
  core : Nat
  mode : BitVec 32
  vl : Nat
  mv : Bool
  param : Nat
  deriving DecidableEq, Repr

/-- A route entry (R252). -/
structure REntry where
  tag : Nat
  adv : Nat
  deriving DecidableEq, Repr

/-- A record, split into its entries. -/
structure Rec where
  queues : List QEntry
  nodes : List NEntry
  routes : List REntry
  deriving DecidableEq, Repr

/-- The fields of a queue entry. -/
def queueEntry (w : Word) : QEntry :=
  { q := bits w 63 60, d := bits w 59 53, n := bits w 52 49, sorted := bit w 48, bound := bits w 47 32, xport := bits w 31 30,
    route := bits w 29 26, order := bit w 25, prod := bits w 23 18, cons := bits w 17 12 }

/-- The fields of a node entry. -/
def nodeEntry (a b : Word) : NEntry :=
  { word := a.extractLsb' 32 32, kind := bits a 31 28, unit := bits a 27 25, core := bits a 24 17,
    mode := (b.extractLsb' 47 17).setWidth 32, vl := bits b 46 35, mv := bit b 34, param := bits b 31 0 }

/-- The fields of a route entry. -/
def routeEntry (w : Word) : REntry := { tag := bits w 63 56, adv := bits w 55 52 }

/-- nn, nq and nr of a header (R247). -/
def headNodes (w : Word) : Nat := bits w 48 43 + 1
def headQueues (w : Word) : Nat := bits w 42 38
def headRoutes (w : Word) : Nat := bits w 37 33

/-- Words of the record with a header. -/
def recordWords (w : Word) : Nat := 1 + headQueues w + 2 * headNodes w + headRoutes w

/-- Node entries from a list of words, two each. -/
def nodesOf : Nat → List Word → List NEntry
  | 0, _ => []
  | n + 1, ws => nodeEntry (ws.getD 0 0) (ws.getD 1 0) :: nodesOf n (ws.drop 2)

/-- Splits a record. -/
def parseRecord (ws : List Word) : Rec :=
  let h := ws.getD 0 0
  let body := ws.drop 1
  { queues := (body.take (headQueues h)).map queueEntry,
    nodes := nodesOf (headNodes h) (body.drop (headQueues h)),
    routes := ((body.drop (headQueues h + 2 * headNodes h)).take (headRoutes h)).map routeEntry }

/-- The record of a configured slot; of a FREE slot, no entries. -/
def Slot.rec_ (x : Slot) : Rec := if x.record = [] then { queues := [], nodes := [], routes := [] } else parseRecord x.record

/-- A node that does not exist. -/
def NEntry.none_ : NEntry := { word := 0, kind := 3, unit := 0, core := 0, mode := 0, vl := 0, mv := false, param := 0 }

/-- Node `n`. -/
def Rec.node (r : Rec) (n : Nat) : NEntry := r.nodes.getD n .none_

/-- The instruction of a node's word. -/
def NEntry.instr (x : NEntry) : Option Instr :=
  let op := x.word.extractLsb' 0 7
  if op = 0x0B ∨ op = 0x2B then
    decodeVV (opnOf x.word) (x.word.extractLsb' 7 6) (x.word.extractLsb' 13 6) (x.word.extractLsb' 19 6)
  else none

/-- OPN and the fields of a node's word. -/
def NEntry.opn (x : NEntry) : Nat := opnOf x.word
def NEntry.d (x : NEntry) : Nat := (x.word.extractLsb' 7 6).toNat
def NEntry.a (x : NEntry) : Nat := (x.word.extractLsb' 13 6).toNat
def NEntry.b (x : NEntry) : Nat := (x.word.extractLsb' 19 6).toNat

/-- The class of a field of a node's word. -/
def NEntry.class_ (x : NEntry) (i : Nat) : FieldClass :=
  match x.instr with
  | some w => (w.fields.map (·.2)).getD i .z
  | none => .z

/-- A field that names a queue. -/
def NEntry.queueField (x : NEntry) (i f : Nat) : Bool :=
  48 ≤ f && (x.class_ i == .v || x.class_ i == .q)

/-- A node with two outputs: FISECT and FUNION. -/
def NEntry.twoOut (x : NEntry) : Bool := x.kind = 2 && (x.opn = 0xB2 || x.opn = 0xB3)

/-- The source fields of a node's word that name queues, each once. -/
def NEntry.sources (x : NEntry) : List Nat :=
  if x.kind = 3 then []
  else
    ((if x.queueField 1 x.a then [x.a] else []) ++ (if x.queueField 2 x.b then [x.b] else [])).eraseDups

/-- The destination queues of a node's word, as field values. -/
def NEntry.dests (x : NEntry) : List Nat :=
  if x.kind = 3 then []
  else if x.queueField 0 x.d then (if x.twoOut then [x.d, x.d + 1] else [x.d])
  else []

/-- The vector register that a node writes, if any. -/
def NEntry.writesReg (x : NEntry) : Option Nat :=
  if x.kind ≠ 3 && x.d < 48 && (x.class_ 0 == .v || x.class_ 0 == .vn) then some x.d else none

/-- Modes and VL in force for a node: those of its entry, or those captured (R29). -/
def NEntry.modesIn (x : NEntry) (captured : Modes) : Modes :=
  if x.mv then captured.put (groupOf x.opn) x.mode else captured
def NEntry.vlIn (x : NEntry) (captured : Nat) : Nat := if x.mv then x.vl else captured

/-- The core that holds a queue of the record: that of its consumer; 256 outside the device (R248). -/
def Rec.queueCore (r : Rec) (e : QEntry) : Nat := if e.cons = 63 then 256 else (r.node e.cons).core

/-- Indices of the entries that a node consumes, and of those it produces. -/
def Rec.ins (r : Rec) (n : Nat) : List Nat :=
  (List.range r.queues.length).filter fun i => (r.queues.map (·.cons)).getD i 64 = n
def Rec.outs (r : Rec) (n : Nat) : List Nat :=
  (List.range r.queues.length).filter fun i => (r.queues.map (·.prod)).getD i 64 = n

/-- An entry that does not exist. -/
def QEntry.none_ : QEntry :=
  { q := 0, d := 0, n := 0, sorted := false, bound := 0, xport := 0, route := 0, order := false, prod := 63, cons := 63 }

/-- Entry `i`. -/
def Rec.entry (r : Rec) (i : Nat) : QEntry := r.queues.getD i .none_

/-- Offsets of the record words of a queue entry, of a node's words A and B, and of a route. -/
def Rec.qOff (_ : Rec) (i : Nat) : Nat := 1 + i
def Rec.aOff (r : Rec) (n : Nat) : Nat := 1 + r.queues.length + 2 * n
def Rec.bOff (r : Rec) (n : Nat) : Nat := r.aOff n + 1
def Rec.rOff (r : Rec) (i : Nat) : Nat := 1 + r.queues.length + 2 * r.nodes.length + i

/-- Strip-bound words: the cross-group class of R25, VCOMPRESS and VEXPAND (R211). -/
def stripBoundOpn (opn : Nat) : Bool := opn = 0x2C || (0x58 ≤ opn && opn < 0x6A) || (0x6E ≤ opn && opn < 0x72)

/-- A strip-bound node. -/
def NEntry.strip (x : NEntry) : Bool := x.kind = 0 && stripBoundOpn x.opn

/-- An engine node: a fibre node that accesses memory or a tile (R415). DESIGN CHOICE (log 134): R128 lists neither FSCAN nor FSCAND, and
R134 and R173 list both; FSCAN is one, and FSCAND, whose steps read no element (R417), is none. -/
def NEntry.engine (x : NEntry) : Bool :=
  x.kind = 2 && [0xB0, 0xB6, 0xB7, 0xB8, 0xBE, 0xBF, 0xC4].contains x.opn

/-- A node whose pushes come only after DONE, and then report its writes (R421). -/
def NEntry.reports (x : NEntry) : Bool := x.kind = 2 && [0xB7, 0xB8, 0xBF].contains x.opn

/-- A node that names a target: its handle, where the target is a tile, and its probe, where it is DRAM (R415). -/
def NEntry.targeted (x : NEntry) : Bool := x.kind = 2 && [0xB6, 0xB8, 0xBE, 0xBF].contains x.opn
def NEntry.target? (x : NEntry) : Option Nat :=
  if x.kind = 2 && ([0xB0, 0xB7, 0xC4].contains x.opn || (x.targeted && x.param < 2 ^ 31)) then some (x.param % 2 ^ 20) else none
def NEntry.probe? (x : NEntry) : Option Nat := if x.targeted && 2 ^ 31 ≤ x.param then some (x.param % 8) else none

end Sys2Proof.Machine
end

