-- ==== Sys2Proof/Machine/Undo.lean ====
section
/-!
DEFINITION. Going back over what words have changed ahead of an older vector word of their strand, when a precise trap is taken at the older
word (R87). R23 and R320 let such words act; what they have changed, and nobody has changed since, then stands as it stood before (log 6).
-/
namespace Sys2Proof.Machine

/-! ## Differences of maps -/

/-- What a map lists at a key. -/
def SMap.find {α : Type} (m : SMap α) (n : Nat) : Option α := (List.find? (fun e => e.1 = n) m).map (·.2)

/-- The keys at which `b` differs from `a`. -/
def diffOf {α : Type} [DecidableEq α] (a b : SMap α) : Diff α :=
  if a = b then []
  else ((a.map (·.1) ++ b.map (·.1)).eraseDups.map fun n => (n, a.find n, b.find n)).filter fun d => d.2.1 ≠ d.2.2

/-- A map with the differences undone at the keys where they still stand. -/
def undoDiff {α : Type} [DecidableEq α] (d : Diff α) (m : SMap α) : SMap α :=
  d.foldl (fun m x =>
    if m.find x.1 = x.2.2 then
      match x.2.1 with
      | some v => m.put x.1 v
      | none => m.del x.1
    else m) m

/-- The same for a map whose unlisted keys read as `dflt` and which lists no `dflt`. -/
def undoSet {α : Type} [DecidableEq α] (dflt : α) (d : Diff α) (m : SMap α) : SMap α :=
  d.foldl (fun m x => if m.find x.1 = x.2.2 then SMap.set dflt m x.1 (x.2.1.getD dflt) else m) m

/-- Counts with the change that a step made to them taken back. -/
def undoCounts (d : Diff Nat) (m : SMap Nat) : SMap Nat :=
  d.foldl (fun m x => SMap.set 0 m x.1 (SMap.get 0 m x.1 + x.2.1.getD 0 - x.2.2.getD 0)) m

/-! ## What a word has changed -/

/-- What strand `k` of core `c`, at program position `pos`, changed from `s` to `s'`. -/
def State.changes (s s' : State) (c k pos : Nat) : Undo :=
  let t := s.strand c k
  let t' := s'.strand c k
  let x := s.core c
  let x' := s'.core c
  let d := s.die (dieOf c)
  let d' := s'.die (dieOf c)
  { key := 4 * c + k, pos := pos, v := diffOf t.v t'.v, hwm := diffOf t.hwm t'.hwm, feClear := diffOf t.feClear t'.feClear,
    m := diffOf t.m t'.m, flags := t'.vflags &&& ~~~t.vflags, probes := diffOf t.probes t'.probes, rows := diffOf t.rows t'.rows,
    watches := t'.watches.filter fun w => !t.watches.contains w,
    tiles := diffOf x.tiles x'.tiles, wbufs := diffOf x.wbufs x'.wbufs, cbs := diffOf x.cbs x'.cbs, queues := diffOf x.queues x'.queues,
    slots := diffOf x.slots x'.slots, ports := diffOf x.ports x'.ports, copies := diffOf x.copies x'.copies, l0 := diffOf x.l0 x'.l0,
    l1tiles := diffOf d.tiles d'.tiles, l1 := diffOf d.l1 d'.l1, fast := diffOf s.fast s'.fast, cap := diffOf s.cap s'.cap,
    rowSlots := diffOf s.rowSlots s'.rowSlots, pins := diffOf s.pins s'.pins, jobs := diffOf s.jobs s'.jobs,
    strands := (diffOf s.strands s'.strands).filter fun e => e.1 ≠ 4 * c + k }

/-- Keeps what a word has changed while an older vector word of its strand is still queued. -/
def State.noteChanges (s s' : State) (c k pos : Nat) : State :=
  if (s'.strand c k).lq ++ (s'.strand c k).aq ++ (s'.strand c k).sq |>.any fun q => q.pos < pos then
    { s' with undos := s.changes s' c k pos :: s'.undos }
  else s'

/-! ## Undoing it -/

/-- The strand without what a word has changed. -/
def Strand.undo (t : Strand) (u : Undo) : Strand :=
  { t with v := undoDiff u.v t.v, hwm := undoDiff u.hwm t.hwm, feClear := undoDiff u.feClear t.feClear, m := undoDiff u.m t.m,
           vflags := t.vflags &&& ~~~u.flags, probes := undoDiff u.probes t.probes, rows := undoDiff u.rows t.rows,
           watches := t.watches.filter fun w => !u.watches.contains w }

/-- The core without it; lines of its scalar data cache are dropped where memory changes (R185). -/
def Core.undo (x : Core) (u : Undo) : Core :=
  { x with tiles := undoDiff u.tiles x.tiles, wbufs := undoDiff u.wbufs x.wbufs, cbs := undoDiff u.cbs x.cbs,
           queues := undoDiff u.queues x.queues, slots := undoDiff u.slots x.slots, ports := undoDiff u.ports x.ports,
           copies := undoDiff u.copies x.copies, l0 := undoSet 0 u.l0 x.l0,
           dcache := if u.fast = [] && u.cap = [] then x.dcache else [] }

/-- The machine without it. -/
def State.undo (s : State) (u : Undo) : State :=
  let c := u.key / 4
  let d := s.die (dieOf c)
  let s1 : State :=
    { s with fast := undoSet memoryDefault u.fast s.fast, cap := undoSet memoryDefault u.cap s.cap, rowSlots := undoDiff u.rowSlots s.rowSlots,
             pins := undoCounts u.pins s.pins, jobs := undoDiff u.jobs s.jobs, strands := undoDiff u.strands s.strands }
  ((s1.setDie (dieOf c) { d with tiles := undoDiff u.l1tiles d.tiles, l1 := undoSet 0 u.l1 d.l1 }).onCore c (·.undo u)).onStrand c (u.key % 4)
    (·.undo u)

/-- Whether a kept change belongs to a word of strand `k` of core `c` that is younger than position `pos`. -/
def Undo.after (u : Undo) (c k pos : Nat) : Bool := u.key = 4 * c + k && pos < u.pos

/-- The machine as words of strand `k` of core `c` that are younger than position `pos` leave it when they have not been executed: the
latest change is undone first. -/
def State.undoAfter (s : State) (c k pos : Nat) : State :=
  (s.undos.filter (·.after c k pos)).foldl State.undo { s with undos := s.undos.filter fun u => !u.after c k pos }

/-- Forgets changes of strand `k` of core `c` that no older queued word can undo any more. -/
def State.pruneUndos (s : State) (c k : Nat) : State :=
  let t := s.strand c k
  { s with undos := s.undos.filter fun u => u.key ≠ 4 * c + k || (t.lq ++ t.aq ++ t.sq).any fun q => q.pos < u.pos }

end Sys2Proof.Machine
end

