-- ==== Sys2Proof/Machine/Vector.lean ====
section
/-!
DEFINITION. What the vector words of the integer, floating, permute, mask and reduce families compute (R334 to R364), one
definition for each word, over the walks of `Operands`.
-/
namespace Sys2Proof.Machine

/-! ## Shapes -/

/-- An element of type `t` from an X-class field: SCAL (R336). -/
def Env.scal (e : Env) (f : BitVec 6) (t : BitVec 4) : Nat := (e.xval f).toNat % 2 ^ lwidth t

/-- A word of two vector operands in group `g`. -/
def binary (g : Nat) (f : Mode → Nat → Nat → Res) (d a b : BitVec 6) : Sem := elementwise g fun e m =>
  { L := min e.vl (vlmax m.t), srcs := [(1, a), (2, b)], dest := .v d m.t, always := false,
    result := fun rd i => f m (rd 1 a m.t i) (rd 2 b m.t i) }

/-- Its X form. -/
def binaryX (g : Nat) (f : Mode → Nat → Nat → Res) (d a b : BitVec 6) : Sem := elementwise g fun e m =>
  { L := min e.vl (vlmax m.t), srcs := [(1, a)], dest := .v d m.t, always := false,
    result := fun rd i => f m (rd 1 a m.t i) (e.scal b m.t) }

/-- A word that also reads its destination register as an accumulator. -/
def ternary (g : Nat) (f : Mode → Nat → Nat → Nat → Res) (d a b : BitVec 6) : Sem := elementwise g fun e m =>
  { L := min e.vl (vlmax m.t), srcs := [(1, a), (2, b)], dest := .v d m.t, always := false,
    result := fun rd i => f m (rd 0 d m.t i) (rd 1 a m.t i) (rd 2 b m.t i) }

/-- Its X form. -/
def ternaryX (g : Nat) (f : Mode → Nat → Nat → Nat → Res) (d a b : BitVec 6) : Sem := elementwise g fun e m =>
  { L := min e.vl (vlmax m.t), srcs := [(1, a)], dest := .v d m.t, always := false,
    result := fun rd i => f m (rd 0 d m.t i) (rd 1 a m.t i) (e.scal b m.t) }

/-- A word of one vector operand. -/
def unary (g : Nat) (f : Mode → Nat → Res) (d a : BitVec 6) : Sem := elementwise g fun e m =>
  { L := min e.vl (vlmax m.t), srcs := [(1, a)], dest := .v d m.t, always := false, result := fun rd i => f m (rd 1 a m.t i) }

/-- A compare of two vectors, into a mask. -/
def compare (g : Nat) (f : Mode → Nat → Nat → Bool × FlagSet) (d a b : BitVec 6) : Sem := elementwise g fun e m =>
  { L := min e.vl (vlmax m.t), srcs := [(1, a), (2, b)], dest := .mask d, always := false,
    result := fun rd i => let (r, fl) := f m (rd 1 a m.t i) (rd 2 b m.t i); (r.toNat, fl) }

/-- Its X form. -/
def compareX (g : Nat) (f : Mode → Nat → Nat → Bool × FlagSet) (d a b : BitVec 6) : Sem := elementwise g fun e m =>
  { L := min e.vl (vlmax m.t), srcs := [(1, a)], dest := .mask d, always := false,
    result := fun rd i => let (r, fl) := f m (rd 1 a m.t i) (e.scal b m.t); (r.toNat, fl) }

/-- SAT of an exact integer under a mode. -/
def Mode.fit (m : Mode) (x : Int) : Res := fitInt m.t m.sat x

/-- The signed or unsigned value of an element under a mode. -/
def Mode.val (m : Mode) (x : Nat) : Int := intVal m.t x

/-- Bits without a flag. -/
def plain (x : Nat) : Res := (x, 0)

/-- An exact integer in the bits of the mode's type, without a flag. -/
def Mode.put (m : Mode) (x : Int) : Res := (intBits (lwidth m.t) x, 0)

/-! ## Integer arithmetic (R339 to R345) -/

/-- VADD: A + B, fitted. -/
def effVadd : BitVec 6 → BitVec 6 → BitVec 6 → Sem := binary gI fun m a b => m.fit (m.val a + m.val b)

/-- VADD, X form. -/
def effVaddx : BitVec 6 → BitVec 6 → BitVec 6 → Sem := binaryX gI fun m a b => m.fit (m.val a + m.val b)

/-- VSUB: A − B, fitted. -/
def effVsub : BitVec 6 → BitVec 6 → BitVec 6 → Sem := binary gI fun m a b => m.fit (m.val a - m.val b)

/-- VSUB, X form. -/
def effVsubx : BitVec 6 → BitVec 6 → BitVec 6 → Sem := binaryX gI fun m a b => m.fit (m.val a - m.val b)

/-- VRSUBX, X form. -/
def effVrsubx : BitVec 6 → BitVec 6 → BitVec 6 → Sem := binaryX gI fun m a b => m.fit (m.val b - m.val a)

/-- VMUL: A · B, fitted. -/
def effVmul : BitVec 6 → BitVec 6 → BitVec 6 → Sem := binary gI fun m a b => m.fit (m.val a * m.val b)

/-- VMUL, X form. -/
def effVmulx : BitVec 6 → BitVec 6 → BitVec 6 → Sem := binaryX gI fun m a b => m.fit (m.val a * m.val b)

/-- VMULH: the high half of the exact product. -/
def effVmulh : BitVec 6 → BitVec 6 → BitVec 6 → Sem := binary gI fun m a b => m.put (m.val a * m.val b / (2 ^ lwidth m.t : Nat))

/-- VMULH, X form. -/
def effVmulhx : BitVec 6 → BitVec 6 → BitVec 6 → Sem := binaryX gI fun m a b => m.put (m.val a * m.val b / (2 ^ lwidth m.t : Nat))

/-- VMULHU: the high half of the product of the unsigned bits. -/
def effVmulhu : BitVec 6 → BitVec 6 → BitVec 6 → Sem := binary gI fun m a b => plain (a * b / 2 ^ lwidth m.t)

/-- VMAC: D + A · B, exact and fitted once (R340). -/
def effVmac : BitVec 6 → BitVec 6 → BitVec 6 → Sem := ternary gI fun m d a b => m.fit (m.val d + m.val a * m.val b)

/-- VMACX (R340). -/
def effVmacx : BitVec 6 → BitVec 6 → BitVec 6 → Sem := ternaryX gI fun m d a b => m.fit (m.val d + m.val a * m.val b)

/-- VDOT2: D + a0 · b0 + a1 · b1 over pairs of stype (R341). -/
def effVdot2 (d a b : BitVec 6) : Sem := elementwise gI fun e m =>
  { L := min e.vl (min (vlmax m.t) (vlmax m.s / 2)), srcs := [], dest := .v d m.t, always := false,
    result := fun rd i =>
      m.fit (m.val (rd 0 d m.t i) + intVal m.s (rd 1 a m.s (2 * i)) * intVal m.s (rd 2 b m.s (2 * i)) +
        intVal m.s (rd 1 a m.s (2 * i + 1)) * intVal m.s (rd 2 b m.s (2 * i + 1))) }

/-- VDOT2X: the pair b0, b1 stands in x[b] (R341). -/
def effVdot2x (d a b : BitVec 6) : Sem := elementwise gI fun e m =>
  { L := min e.vl (min (vlmax m.t) (vlmax m.s / 2)), srcs := [], dest := .v d m.t, always := false,
    result := fun rd i =>
      let x := (e.xval b).toNat
      m.fit (m.val (rd 0 d m.t i) + intVal m.s (rd 1 a m.s (2 * i)) * intVal m.s x +
        intVal m.s (rd 1 a m.s (2 * i + 1)) * intVal m.s (x / 2 ^ width m.s)) }

/-- VDIV (R342, R53). -/
def effVdiv : BitVec 6 → BitVec 6 → BitVec 6 → Sem := binary gI fun m a b => intDiv m.t m.sat a b

/-- VREM (R342, R53). -/
def effVrem : BitVec 6 → BitVec 6 → BitVec 6 → Sem := binary gI fun m a b => intRem m.t a b

/-- VMIN. -/
def effVmin : BitVec 6 → BitVec 6 → BitVec 6 → Sem := binary gI fun m a b => m.put (min (m.val a) (m.val b))

/-- VMIN., X form. -/
def effVminx : BitVec 6 → BitVec 6 → BitVec 6 → Sem := binaryX gI fun m a b => m.put (min (m.val a) (m.val b))

/-- VMAX. -/
def effVmax : BitVec 6 → BitVec 6 → BitVec 6 → Sem := binary gI fun m a b => m.put (max (m.val a) (m.val b))

/-- VMAX., X form. -/
def effVmaxx : BitVec 6 → BitVec 6 → BitVec 6 → Sem := binaryX gI fun m a b => m.put (max (m.val a) (m.val b))

/-- VAND. -/
def effVand : BitVec 6 → BitVec 6 → BitVec 6 → Sem := binary gI fun _ a b => plain (a &&& b)

/-- VAND., X form. -/
def effVandx : BitVec 6 → BitVec 6 → BitVec 6 → Sem := binaryX gI fun _ a b => plain (a &&& b)

/-- VOR. -/
def effVor : BitVec 6 → BitVec 6 → BitVec 6 → Sem := binary gI fun _ a b => plain (a ||| b)

/-- VOR., X form. -/
def effVorx : BitVec 6 → BitVec 6 → BitVec 6 → Sem := binaryX gI fun _ a b => plain (a ||| b)

/-- VXOR. -/
def effVxor : BitVec 6 → BitVec 6 → BitVec 6 → Sem := binary gI fun _ a b => plain (a ^^^ b)

/-- VXOR., X form. -/
def effVxorx : BitVec 6 → BitVec 6 → BitVec 6 → Sem := binaryX gI fun _ a b => plain (a ^^^ b)

/-- A shift count: U(B) mod WIDTH(t) (R343). -/
def Mode.shift (m : Mode) (b : Nat) : Nat := b % width m.t

/-- VSLL: A · 2^n, fitted (R343). -/
def effVsll : BitVec 6 → BitVec 6 → BitVec 6 → Sem := binary gI fun m a b => m.fit (m.val a * (2 ^ m.shift b : Nat))

/-- VSLL, X form. -/
def effVsllx : BitVec 6 → BitVec 6 → BitVec 6 → Sem := binaryX gI fun m a b => m.fit (m.val a * (2 ^ m.shift b : Nat))

/-- VSRL: the unsigned bits shifted (R343). -/
def effVsrl : BitVec 6 → BitVec 6 → BitVec 6 → Sem := binary gI fun m a b => plain (a / 2 ^ m.shift b)

/-- VSRL, X form. -/
def effVsrlx : BitVec 6 → BitVec 6 → BitVec 6 → Sem := binaryX gI fun m a b => plain (a / 2 ^ m.shift b)

/-- VSRA: floor(A / 2^n) (R343). -/
def effVsra : BitVec 6 → BitVec 6 → BitVec 6 → Sem := binary gI fun m a b => m.put (m.val a / (2 ^ m.shift b : Nat))

/-- VSRA, X form. -/
def effVsrax : BitVec 6 → BitVec 6 → BitVec 6 → Sem := binaryX gI fun m a b => m.put (m.val a / (2 ^ m.shift b : Nat))

/-- VSRAR: the exact quotient rounded, then fitted (R68, R343). -/
def effVsrar : BitVec 6 → BitVec 6 → BitVec 6 → Sem := binary gI fun m a b => m.fit (rndInt m.rnd (m.val a) (m.shift b))

/-- VSRAR, X form. -/
def effVsrarx : BitVec 6 → BitVec 6 → BitVec 6 → Sem := binaryX gI fun m a b => m.fit (rndInt m.rnd (m.val a) (m.shift b))

/-- VNARROW: A / 2^n rounded and fitted into the narrower type (R344). -/
def effVnarrow (d a b : BitVec 6) : Sem := elementwise gI fun e m =>
  { L := min e.vl (vlmax m.s), srcs := [(1, a)], dest := .v d m.t, always := false,
    result := fun rd i => m.fit (rndInt m.rnd (intVal m.s (rd 1 a m.s i)) ((e.xval b).toNat % width m.s)) }

/-- VWIDENL: the elements of the lower half, exactly (R344). -/
def effVwidenl (d a : BitVec 6) : Sem := elementwise gI fun e m =>
  { L := min e.vl (vlmax m.t), srcs := [(1, a)], dest := .v d m.t, always := false,
    result := fun rd i => m.put (intVal m.s (rd 1 a m.s i)) }

/-- VWIDENH: the elements of the upper half, exactly (R344). -/
def effVwidenh (d a : BitVec 6) : Sem := elementwise gI fun e m =>
  { L := min e.vl (vlmax m.t), srcs := [], dest := .v d m.t, always := false,
    result := fun rd i => m.put (intVal m.s (rd 1 a m.s (i + vlmax m.t))) }

/-- VABS (R345). -/
def effVabs : BitVec 6 → BitVec 6 → Sem := unary gI fun m a => m.fit (m.val a).natAbs

/-- VNEG (R345). -/
def effVneg : BitVec 6 → BitVec 6 → Sem := unary gI fun m a => m.fit (-(m.val a))

/-- VCLZ: leading zeros within LW(t) bits (R345). -/
def effVclz : BitVec 6 → BitVec 6 → Sem := unary gI fun m a => plain (if a = 0 then lwidth m.t else lwidth m.t - 1 - Nat.log2 a)

/-- VPOPC (R345). -/
def effVpopc : BitVec 6 → BitVec 6 → Sem := unary gI fun m a => plain (popBits (lwidth m.t) a)

/-- VAVG: (A + B) / 2 rounded (R339). -/
def effVavg : BitVec 6 → BitVec 6 → BitVec 6 → Sem := binary gI fun m a b => m.put (rndInt m.rnd (m.val a + m.val b) 1)

/-! ## Moves (R346, R347) -/

/-- VMERGE: A where the guard is 1 and B where it is 0; every element is written (R346). -/
def effVmerge (d a b : BitVec 6) : Sem := fun e s =>
  elementwise gI (fun e m =>
    { L := min e.vl (vlmax m.t), srcs := [(1, a), (2, b)], dest := .v d m.t, always := true,
      result := fun rd i => plain (if guardAt (s.strand e.c e.k) m i then rd 1 a m.t i else rd 2 b m.t i) }) e s

/-- VSPLAT (R346). -/
def effVsplat (d a : BitVec 6) : Sem := elementwise gI fun e m =>
  { L := min e.vl (vlmax m.t), srcs := [], dest := .v d m.t, always := false, result := fun _ _ => plain (e.scal a m.t) }

/-- VMOV (R346). -/
def effVmov : BitVec 6 → BitVec 6 → Sem := unary gI fun _ a => plain a

/-- The bits set among the low `n` of a mask. -/
def maskCount (t : Strand) (r n : Nat) : Nat := popBits n (SMap.get 0 t.m r).toNat

/-- VIOTA: how many mask bits below i are 1, fitted (R347). It is strip-bound, of the cross-group class (R25, R211). -/
def effViota (d a : BitVec 6) : Sem := fun e s =>
  stripBound gI (fun e m =>
    { L := min e.vl (vlmax m.t), srcs := [], dest := d, t := m.t, out := id,
      give := fun _ L _ =>
        let is := (List.range (L - e.vstart)).map (e.vstart + ·)
        let xs := is.map fun i =>
          if guardAt (s.strand e.c e.k) m i then some (m.fit (maskCount (s.strand e.c e.k) a.toNat i)) else none
        { flags := xs.foldl (fun fl x => fl ||| (x.elim 0 (·.2))) 0, lo := e.vstart, elems := xs.map (·.map (·.1)),
          tokens := xs.map (fun x => x.elim 0 (·.1)), mark := slotsOf m.t L } }) e s

/-- VMTOV: the mask bit as an integer (R364). -/
def effVmtov (d a : BitVec 6) : Sem := fun e s =>
  elementwise gI (fun e m =>
    { L := min e.vl (vlmax m.t), srcs := [], dest := .v d m.t, always := false,
      result := fun _ i => plain ((s.strand e.c e.k).maskBit a.toNat i).toNat }) e s

/-- VVTOM: whether any bit of the element is 1 (R364). -/
def effVvtom (d a : BitVec 6) : Sem := elementwise gI fun e m =>
  { L := min e.vl (vlmax m.t), srcs := [(1, a)], dest := .mask d, always := false,
    result := fun rd i => plain (if rd 1 a m.t i = 0 then 0 else 1) }

/-! ## Integer compares (R348) -/

/-- VCMPEQ. -/
def effVcmpeq : BitVec 6 → BitVec 6 → BitVec 6 → Sem := compare gI fun m a b => (decide (m.val a = m.val b), 0)

/-- VCMPEQX. -/
def effVcmpeqx : BitVec 6 → BitVec 6 → BitVec 6 → Sem := compareX gI fun m a b => (decide (m.val a = m.val b), 0)

/-- VCMPNE. -/
def effVcmpne : BitVec 6 → BitVec 6 → BitVec 6 → Sem := compare gI fun m a b => (decide (m.val a ≠ m.val b), 0)

/-- VCMPLT. -/
def effVcmplt : BitVec 6 → BitVec 6 → BitVec 6 → Sem := compare gI fun m a b => (decide (m.val a < m.val b), 0)

/-- VCMPLTX. -/
def effVcmpltx : BitVec 6 → BitVec 6 → BitVec 6 → Sem := compareX gI fun m a b => (decide (m.val a < m.val b), 0)

/-- VCMPLTU. -/
def effVcmpltu : BitVec 6 → BitVec 6 → BitVec 6 → Sem := compare gI fun _ a b => (decide (a < b), 0)

/-- VCMPLTUX. -/
def effVcmpltux : BitVec 6 → BitVec 6 → BitVec 6 → Sem := compareX gI fun _ a b => (decide (a < b), 0)

/-- VCMPLE. -/
def effVcmple : BitVec 6 → BitVec 6 → BitVec 6 → Sem := compare gI fun m a b => (decide (m.val a ≤ m.val b), 0)

/-- VCMPLEX. -/
def effVcmplex : BitVec 6 → BitVec 6 → BitVec 6 → Sem := compareX gI fun m a b => (decide (m.val a ≤ m.val b), 0)

/-! ## Floating words (R349 to R356) -/

/-- VFADD. -/
def effVfadd : BitVec 6 → BitVec 6 → BitVec 6 → Sem := binary gF fun m a b => fadd (fmt m.t) m.rnd m.sat a b

/-- VFADDX. -/
def effVfaddx : BitVec 6 → BitVec 6 → BitVec 6 → Sem := binaryX gF fun m a b => fadd (fmt m.t) m.rnd m.sat a b

/-- VFSUB. -/
def effVfsub : BitVec 6 → BitVec 6 → BitVec 6 → Sem := binary gF fun m a b => fsub (fmt m.t) m.rnd m.sat a b

/-- VFSUBX. -/
def effVfsubx : BitVec 6 → BitVec 6 → BitVec 6 → Sem := binaryX gF fun m a b => fsub (fmt m.t) m.rnd m.sat a b

/-- VFMUL. -/
def effVfmul : BitVec 6 → BitVec 6 → BitVec 6 → Sem := binary gF fun m a b => fmul (fmt m.t) m.rnd m.sat a b

/-- VFMULX. -/
def effVfmulx : BitVec 6 → BitVec 6 → BitVec 6 → Sem := binaryX gF fun m a b => fmul (fmt m.t) m.rnd m.sat a b

/-- VFMAC: D + A · B with one rounding (R350). -/
def effVfmac : BitVec 6 → BitVec 6 → BitVec 6 → Sem := ternary gF fun m d a b => fmac (fmt m.t) m.rnd m.sat d a b

/-- VFMACX (R350). -/
def effVfmacx : BitVec 6 → BitVec 6 → BitVec 6 → Sem := ternaryX gF fun m d a b => fmac (fmt m.t) m.rnd m.sat d a b

/-- VFNMS: D − A · B with one rounding (R350). -/
def effVfnms : BitVec 6 → BitVec 6 → BitVec 6 → Sem := ternary gF fun m d a b => fnms (fmt m.t) m.rnd m.sat d a b

/-- VFDIV. -/
def effVfdiv : BitVec 6 → BitVec 6 → BitVec 6 → Sem := binary gF fun m a b => fdiv (fmt m.t) m.rnd m.sat a b

/-- VFMIN. -/
def effVfmin : BitVec 6 → BitVec 6 → BitVec 6 → Sem := binary gF fun m a b => fminmax (fmt m.t) false a b

/-- VFMAX. -/
def effVfmax : BitVec 6 → BitVec 6 → BitVec 6 → Sem := binary gF fun m a b => fminmax (fmt m.t) true a b

/-- VFSQRT (R351). -/
def effVfsqrt : BitVec 6 → BitVec 6 → Sem := unary gF fun m a => fsqrt (fmt m.t) m.rnd m.sat a

/-- VFRCP (R351). -/
def effVfrcp : BitVec 6 → BitVec 6 → Sem := unary gF fun m a => frcp (fmt m.t) m.rnd m.sat a

/-- VFRSQ (R351). -/
def effVfrsq : BitVec 6 → BitVec 6 → Sem := unary gF fun m a => frsq (fmt m.t) m.rnd a

/-- VFABS (R351). -/
def effVfabs : BitVec 6 → BitVec 6 → Sem := unary gF fun m a => plain (a % 2 ^ ((fmt m.t).w - 1))

/-- VFNEG (R351). -/
def effVfneg : BitVec 6 → BitVec 6 → Sem := unary gF fun m a => plain (a ^^^ 2 ^ ((fmt m.t).w - 1))

/-- VFRINT (R351). -/
def effVfrint : BitVec 6 → BitVec 6 → Sem := unary gF fun m a => frint (fmt m.t) m.rnd a

/-- VFEXP2F (R351). -/
def effVfexp2f : BitVec 6 → BitVec 6 → Sem := unary gF fun m a => fexp2 (fmt m.t) m.rnd a

/-- VFLOG2F (R351). -/
def effVflog2f : BitVec 6 → BitVec 6 → Sem := unary gF fun m a => flog2 (fmt m.t) m.rnd a

/-- VFGETEXP (R351). -/
def effVfgetexp : BitVec 6 → BitVec 6 → Sem := unary gF fun m a => fgetexp (fmt m.t) a

/-- VFCLASS (R354). -/
def effVfclass : BitVec 6 → BitVec 6 → Sem := unary gF fun m a => plain (fclass (fmt m.t) a)

/-- A signed integer of WIDTH(t) bits (R352). -/
def signedOf (w n : Nat) : Int := if 2 ^ (w - 1) ≤ n then (n : Int) - (2 ^ w : Nat) else n

/-- VFLDEXP: A · 2^n rounded once; n is read at the full width of the element (R352). -/
def effVfldexp (d a b : BitVec 6) : Sem := fun e s =>
  elementwise gF (fun e m =>
    let whole : BitVec 4 := if m.t = 0xF then 3 else m.t
    { L := min e.vl (vlmax m.t), srcs := [(1, a), (2, b)], dest := .v d m.t, always := false,
      result := fun rd i => fldexp (fmt m.t) m.rnd m.sat (rd 1 a m.t i) (signedOf (width m.t) (rd 2 b whole i)) }) e s

/-- VFCMPEQ (R353). -/
def effVfcmpeq : BitVec 6 → BitVec 6 → BitVec 6 → Sem :=
  compare gF fun m a b => fcompare (fmt m.t) false (fun r => r == some .eq) a b

/-- VFCMPLT (R353). -/
def effVfcmplt : BitVec 6 → BitVec 6 → BitVec 6 → Sem :=
  compare gF fun m a b => fcompare (fmt m.t) true (fun r => r == some .lt) a b

/-- VFCMPLE (R353). -/
def effVfcmple : BitVec 6 → BitVec 6 → BitVec 6 → Sem :=
  compare gF fun m a b => fcompare (fmt m.t) true (fun r => r == some .lt || r == some .eq) a b

/-- VFCMPUN (R353). -/
def effVfcmpun : BitVec 6 → BitVec 6 → BitVec 6 → Sem :=
  compare gF fun m a b => fcompare (fmt m.t) false (fun r => r == none) a b

/-- A conversion: element i of stype becomes element i of etype (R355). -/
def convert (f : Mode → Nat → Res) (d a : BitVec 6) : Sem := elementwise gF fun e m =>
  { L := min e.vl (min (vlmax m.t) (vlmax m.s)), srcs := [(1, a)], dest := .v d m.t, always := false,
    result := fun rd i => f m (rd 1 a m.s i) }

/-- VCVTIF. -/
def effVcvtif : BitVec 6 → BitVec 6 → Sem := convert fun m a => cvtIF (fmt m.t) m.rnd m.sat (intVal m.s a)

/-- VCVTFI. -/
def effVcvtfi : BitVec 6 → BitVec 6 → Sem := convert fun m a => cvtFI (fmt m.s) m.t m.rnd m.sat a

/-- VCVTFF. -/
def effVcvtff : BitVec 6 → BitVec 6 → Sem := convert fun m a => cvtFF (fmt m.s) (fmt m.t) m.rnd m.sat a

/-- VFDOT2: D + a[2i] · b[2i] + a[2i+1] · b[2i+1], exact and rounded once (R356). -/
def effVfdot2 (d a b : BitVec 6) : Sem := elementwise gF fun e m =>
  { L := min e.vl (min (vlmax m.t) (vlmax m.s / 2)), srcs := [], dest := .v d m.t, always := false,
    result := fun rd i =>
      fdot2 (fmt m.t) (fmt m.s) m.rnd m.sat (rd 0 d m.t i) (rd 1 a m.s (2 * i)) (rd 2 b m.s (2 * i))
        (rd 1 a m.s (2 * i + 1)) (rd 2 b m.s (2 * i + 1)) }

/-! ## Slides and permutations (R357 to R359) -/

/-- A strip-bound word whose element i, from VSTART on, is `f i` where it is written at all; a guarded-off element keeps its
value in a register and is a 0 in a queue (R210). -/
def permute (srcs : List (Nat × BitVec 6)) (d : BitVec 6) (f : Env → Mode → Rd → Nat → (BitVec 6 → Nat) → Nat → Option Nat) :
    Sem := fun e s =>
  stripBound gI (fun e m =>
    { L := min e.vl (vlmax m.t), srcs := srcs, dest := d, t := m.t, out := id,
      give := fun rd L ls =>
        let is := (List.range (L - e.vstart)).map (e.vstart + ·)
        let xs := is.map fun i => if guardAt (s.strand e.c e.k) m i then f e m rd L ls i else none
        { flags := 0, lo := e.vstart, elems := xs, tokens := xs.map (·.getD 0), mark := slotsOf m.t L } }) e s

/-- VSLIDEUP: elements below n are not written (R357). -/
def effVslideup (d a b : BitVec 6) : Sem := permute [(1, a)] d fun e m rd _ _ i =>
  let n := (e.xval b).toNat
  if n ≤ i then some (rd 1 a m.t (i - n)) else none

/-- VSLIDEDN (R357). -/
def effVslidedn (d a b : BitVec 6) : Sem := permute [(1, a)] d fun e m rd _ ls i =>
  let n := (e.xval b).toNat
  some (if i + n < ls a then rd 1 a m.t (i + n) else 0)

/-- VSLIDE1UP (R357). -/
def effVslide1up (d a b : BitVec 6) : Sem := permute [(1, a)] d fun e m rd _ _ i =>
  some (if i = 0 then e.scal b m.t else rd 1 a m.t (i - 1))

/-- VSLIDE1DN (R357). -/
def effVslide1dn (d a b : BitVec 6) : Sem := permute [(1, a)] d fun e m rd L _ i =>
  some (if i + 1 = L then e.scal b m.t else rd 1 a m.t (i + 1))

/-- VRGATH (R358). -/
def effVrgath (d a b : BitVec 6) : Sem := permute [(1, a), (2, b)] d fun _ m rd _ ls i =>
  let k := rd 2 b m.t i
  some (if k < ls a then rd 1 a m.t k else 0)

/-- VREV (R358). -/
def effVrev (d a : BitVec 6) : Sem := permute [(1, a)] d fun _ m rd L _ i => some (rd 1 a m.t (L - 1 - i))

/-- VZIP (R358). -/
def effVzip (d a b : BitVec 6) : Sem := permute [] d fun _ m rd _ _ i =>
  some (if i % 2 = 0 then rd 1 a m.t (i / 2) else rd 2 b m.t ((i - 1) / 2))

/-- VUNZIP (R358). -/
def effVunzip (d a b : BitVec 6) : Sem := permute [] d fun e m rd _ _ i =>
  let k := 2 * i + (e.xval b).toNat % 2
  some (if k < vlmax m.t then rd 1 a m.t k else 0)

/-- Whether VCOMPRESS and VEXPAND select element i (R359). -/
def selected (t : Strand) (m : Mode) (mask i : Nat) : Bool := t.maskBit mask i && guardAt t m i

/-- VCOMPRESS: the selected elements, packed from the count of selected elements below VSTART on (R359). -/
def effVcompress (d a b : BitVec 6) : Sem := fun e s =>
  stripBound gI (fun e m =>
    { L := min e.vl (vlmax m.t), srcs := [(1, a)], dest := d, t := m.t, out := id,
      give := fun rd L _ =>
        let sel := selected (s.strand e.c e.k) m b.toNat
        let k0 := ((List.range e.vstart).filter sel).length
        let is := ((List.range (L - e.vstart)).map (e.vstart + ·)).filter sel
        let xs := is.map fun i => rd 1 a m.t i
        { flags := 0, lo := k0, elems := xs.map some, tokens := xs, mark := slotsOf m.t L } }) e s

/-- The elements VEXPAND writes from element `i` on, `k` being the next packed one (R359). -/
def expandFrom (sel : Nat → Bool) (get : Nat → Nat) : Nat → Nat → Nat → List (Option Nat)
  | 0, _, _ => []
  | n + 1, i, k => if sel i then some (get k) :: expandFrom sel get n (i + 1) (k + 1) else none :: expandFrom sel get n (i + 1) k

/-- VEXPAND: packed elements of va spread to the selected places (R359). -/
def effVexpand (d a b : BitVec 6) : Sem := fun e s =>
  stripBound gI (fun e m =>
    { L := min e.vl (vlmax m.t), srcs := [], dest := d, t := m.t, out := id,
      give := fun rd L _ =>
        let sel := selected (s.strand e.c e.k) m b.toNat
        let k0 := ((List.range e.vstart).filter sel).length
        let xs := expandFrom sel (fun k => rd 1 a m.t k) (L - e.vstart) e.vstart k0
        { flags := 0, lo := e.vstart, elems := xs, tokens := [], mark := slotsOf m.t L } }) e s

/-! ## Reductions (R76, R360) -/

/-- A reduction: from B0 and the leaves, present or absent, in ascending order; VSTART at or above L does nothing. -/
def reduce (g : Nat) (f : Mode → Nat → List (Option Nat) → Res) (d a b : BitVec 6) : Sem := fun e s =>
  stripBound g (fun e m =>
    { L := min e.vl (vlmax m.t), srcs := [(1, a)], dest := d, t := m.t, out := fun _ => 1,
      give := fun rd L _ =>
        let leaf : Nat → Option Nat := fun i =>
          if e.vstart ≤ i && guardAt (s.strand e.c e.k) m i then some (rd 1 a m.t i) else none
        let (x, fl) := f m (rd 2 b m.t 0) ((List.range L).map leaf)
        { flags := fl, lo := 0, elems := [some x], tokens := [x], mark := 1 } }) e s

/-- The present elements. -/
def present (l : List (Option Nat)) : List Nat := l.filterMap id

/-- VREDSUM: exact, fitted once. -/
def effVredsum : BitVec 6 → BitVec 6 → BitVec 6 → Sem :=
  reduce gI fun m b0 l => m.fit ((present l).foldl (fun x a => x + m.val a) (m.val b0))

/-- VREDMAX. -/
def effVredmax : BitVec 6 → BitVec 6 → BitVec 6 → Sem :=
  reduce gI fun m b0 l => m.put ((present l).foldl (fun x a => max x (m.val a)) (m.val b0))

/-- VREDMIN. -/
def effVredmin : BitVec 6 → BitVec 6 → BitVec 6 → Sem :=
  reduce gI fun m b0 l => m.put ((present l).foldl (fun x a => min x (m.val a)) (m.val b0))

/-- VREDAND. -/
def effVredand : BitVec 6 → BitVec 6 → BitVec 6 → Sem := reduce gI fun _ b0 l => plain ((present l).foldl (· &&& ·) b0)

/-- VREDOR. -/
def effVredor : BitVec 6 → BitVec 6 → BitVec 6 → Sem := reduce gI fun _ b0 l => plain ((present l).foldl (· ||| ·) b0)

/-- One level of the tree of R76. -/
def pairLevel (f : Nat → Nat → Res) : List (Option Nat) → List (Option Nat) × FlagSet
  | some a :: some b :: r =>
    let (x, fl) := f a b
    let (xs, fl') := pairLevel f r
    (some x :: xs, fl ||| fl')
  | some a :: none :: r => let (xs, fl) := pairLevel f r; (some a :: xs, fl)
  | none :: y :: r => let (xs, fl) := pairLevel f r; (y :: xs, fl)
  | [y] => ([y], 0)
  | [] => ([], 0)

/-- The tree, level by level, from its leaves; absent leaves beyond the list change nothing. -/
def pairTree (f : Nat → Nat → Res) : Nat → List (Option Nat) → Option Nat × FlagSet
  | 0, l => (l.headD none, 0)
  | n + 1, l =>
    let (l', fl) := pairLevel f l
    let (r, fl') := pairTree f n l'
    (r, fl ||| fl')

/-- A floating reduction: the tree's root joins B0; with no present element, B0 unchanged (R360). -/
def freduce (f : Mode → Nat → Nat → Res) : BitVec 6 → BitVec 6 → BitVec 6 → Sem := reduce gF fun m b0 l =>
  match pairTree (f m) 11 l with
  | (none, _) => (b0, 0)
  | (some x, fl) => let (y, fl') := f m x b0; (y, fl ||| fl')

/-- VFREDSUM. -/
def effVfredsum : BitVec 6 → BitVec 6 → BitVec 6 → Sem := freduce fun m a b => fadd (fmt m.t) m.rnd m.sat a b

/-- VFREDMAX. -/
def effVfredmax : BitVec 6 → BitVec 6 → BitVec 6 → Sem := freduce fun m a b => fminmax (fmt m.t) true a b

/-- VFREDMIN. -/
def effVfredmin : BitVec 6 → BitVec 6 → BitVec 6 → Sem := freduce fun m a b => fminmax (fmt m.t) false a b

/-! ## Mask words (R361, R362) and elements of x registers (R363) -/

/-- Mask logic (R361). -/
def maskWord (f : Bool → Bool → Bool) (d a b : BitVec 6) : Sem := fun e s =>
  elementwise gI (fun e m =>
    { L := min e.vl (vlmax m.t), srcs := [], dest := .mask d, always := false,
      result := fun _ i =>
        plain (f ((s.strand e.c e.k).maskBit a.toNat i) ((s.strand e.c e.k).maskBit b.toNat i)).toNat }) e s

/-- VMAND. -/
def effVmand : BitVec 6 → BitVec 6 → BitVec 6 → Sem := maskWord fun x y => x && y

/-- VMOR. -/
def effVmor : BitVec 6 → BitVec 6 → BitVec 6 → Sem := maskWord fun x y => x || y

/-- VMXOR. -/
def effVmxor : BitVec 6 → BitVec 6 → BitVec 6 → Sem := maskWord fun x y => x != y

/-- VMNOT. -/
def effVmnot (d a : BitVec 6) : Sem := maskWord (fun x _ => !x) d a a

/-- The indices that VMPOPC and VMFIRST count (R362). -/
def counted (t : Strand) (e : Env) (m : Mode) (a : BitVec 6) : List Nat :=
  ((List.range (min e.vl (vlmax m.t))).filter fun i => e.vstart ≤ i && t.maskBit a.toNat i && guardAt t m i)

/-- VMPOPC: written even when VSTART is at or above L (R362). -/
def effVmpopc (d a : BitVec 6) : Sem := fun e s =>
  let n := (counted (s.strand e.c e.k) e (e.mode gI) a).length
  (.ok 1, (s.onStrand e.c e.k fun t => t.putX e.pos d.toNat (word n)).countSlots e (e.mode gI).t (min e.vl (vlmax (e.mode gI).t)))

/-- VMFIRST (R362). -/
def effVmfirst (d a : BitVec 6) : Sem := fun e s =>
  let v : Word := match (counted (s.strand e.c e.k) e (e.mode gI) a).head? with
    | some i => word i
    | none => BitVec.allOnes 64
  (.ok 1, (s.onStrand e.c e.k fun t => t.putX e.pos d.toNat v).countSlots e (e.mode gI).t (min e.vl (vlmax (e.mode gI).t)))

/-- VEXTX: element x[b], extended as its type is (R363). -/
def effVextx (d a b : BitVec 6) : Sem := fun e s =>
  let m := e.mode gI
  let k := (e.xval b).toNat
  let v : Word :=
    if k < vlmax m.t then
      let x := readElem s (s.strand e.c e.k) 1 a.toNat m.t k
      if isI m.t then BitVec.ofInt 64 (intVal m.t x) else word x
    else 0
  (.ok 1, s.onStrand e.c e.k fun t => (t.count 3 (if k < vlmax m.t then 1 else 0)).putX e.pos d.toNat v)

/-- VINSX: element x[b] replaced where the guard allows; the mark rises only as far as its slot (R363). -/
def effVinsx (d a b : BitVec 6) : Sem := fun e s =>
  let m := e.mode gI
  let k := (e.xval b).toNat
  if k < vlmax m.t && guardAt (s.strand e.c e.k) m k then
    (.ok 1, s.onStrand e.c e.k fun t =>
      (t.count 3 1).writeVec s d.toNat m.t k [some (e.scal a m.t)] (max (t.mark d.toNat) (k * width m.t / 64 + 1)))
  else (.ok 1, s)

end Sys2Proof.Machine
end

