-- ==== Sys2Proof/Machine/Issue.lean ====
section
/-!
DEFINITION. Issue of the vector words: the checks of R305, dispatch into LQ, AQ and SQ (R20, R224), admission by the
sequencer (R23, R25), and a precise trap at a word (R87, R225); then the meaning of every vector word.
-/
namespace Sys2Proof.Machine

/-! ## What a word is -/

/-- A matrix type (R388), a float8 or int8 type (R398), and the 8- to 64-bit types (R415). -/
def isMatrixType (t : BitVec 4) : Bool := [0, 4, 8, 9, 10, 11, 12].contains t.toNat
def isMxqType (t : BitVec 4) : Bool := [0, 4, 8, 9, 10].contains t.toNat
def notFp4 (t : BitVec 4) : Bool := t ≠ 10

/-- WIDTH(w) is twice WIDTH(n), ACC40 counting as 64 bits (R344). -/
def doubles (w n : BitVec 4) : Bool := isI w && isI n && width w = 2 * width n

/-- Whether the entry of a word accepts an etype and stype (R118, R335, R341 to R428). MLDW makes the check in its own order
(R390). -/
def accepts (opn : Nat) (t s : BitVec 4) : Bool :=
  if opn = 0x0C || opn = 0x0D then isInt8to64 t && isInt8to64 s && width t = 2 * width s && isSigned t == isSigned s
  else if opn = 0x22 then doubles s t
  else if opn = 0x23 || opn = 0x24 then doubles t s
  else if opn = 0x2A || opn = 0x2B then true
  else if opn < 0x38 then isI t
  else if opn = 0x47 || opn = 0x48 || opn = 0x52 then isFA t
  else if opn = 0x53 then isFA t && isI s
  else if opn = 0x54 then isI t && isFA s
  else if opn = 0x55 then isFA t && isFA s
  else if opn = 0x56 then [13, 15].contains t.toNat && [8, 9, 11, 12].contains s.toNat
  else if opn < 0x58 then isF t
  else if opn < 0x62 then true
  else if opn < 0x67 then isI t
  else if opn < 0x6A then isF t
  else if opn = 0x73 then isI t
  else if opn < 0x78 then true
  else if [0x78, 0x7C, 0x7F, 0x82, 0x83, 0x89, 0x8A, 0x8E].contains opn then true
  else if [0x7A, 0x7E, 0x81, 0x84, 0x85].contains opn then notFp4 t && isInt8to64 s
  else if [0x86, 0x87, 0x88].contains opn then isInt8to64 t && isInt8to64 s
  else if [0x8B, 0x8C].contains opn then [2, 3, 6, 7].contains t.toNat && isInt8to64 s
  else if opn < 0x90 then notFp4 t
  else if opn = 0x99 then isMatrixType t
  else if opn = 0x9D then t = 15 && (s = 15 || s = 3)
  else if opn = 0x9E then isFA t && isFA s
  else if opn = 0xA0 then isMxqType t && isF s
  else if opn = 0xA1 then t = 8
  else if opn = 0xB5 then isI t || isF t
  else if [0xB6, 0xB8, 0xBE, 0xBF].contains opn then notFp4 t
  else if opn = 0xC4 then notFp4 t && width t ≤ 32
  else true

/-- Check 4 of R305: the type refused is the etype, or the stype where some stype would go with the etype (R95). -/
def typeRefusal (opn : Nat) (m : Mode) : Option (BitVec 4) :=
  if accepts opn m.t m.s then none
  else if (List.range 16).any fun s => accepts opn m.t (BitVec.ofNat 4 s) then some m.s
  else some m.t

/-- Checks 2 and 4 of R305 for a word of the vector space: its exception, or none. -/
def wordRefusal (i : Instr) (ms : Modes) : Option Exc :=
  let raw := encode i
  let opn := opnOf raw
  match badField i.fields 0 with
  | some n => some (devFault fIllegalOperand n (raw.setWidth 64))
  | none => (typeRefusal opn (modeOf (ms.at (groupOf opn)))).map fun t =>
      devFault fModeType (groupOf opn * 256 + t.toNat) (raw.setWidth 64)

/-- The queues of a strand (R20). -/
inductive IssueQueue where
  | lq
  | aq
  | sq
  deriving DecidableEq, Repr

/-- The queue that receives a word (R20). -/
def queueOf (opn : Nat) : IssueQueue :=
  if [0x78, 0x79, 0x7A, 0x7B, 0x82, 0x84, 0x89, 0x8F].contains opn then .lq
  else if [0x7C, 0x7D, 0x7E, 0x7F, 0x80, 0x81, 0x83, 0x85, 0x86, 0x87, 0x88, 0x8A, 0x8B, 0x8C].contains opn then .sq
  else .aq

/-- Words of variable latency: the memory, the matrix and scale, and the queue groups (R25). -/
def variableLatency (opn : Nat) : Bool := 0x78 ≤ opn

/-- Words that read the register or registers of their field d. -/
def readsD (opn : Nat) : Bool :=
  [0x0A, 0x0B, 0x0C, 0x0D, 0x3E, 0x3F, 0x40, 0x56, 0x9D].contains opn || storesD opn || atomicD opn
where
  /-- Words that only read it. -/
  storesD (opn : Nat) : Bool :=
    [0x7C, 0x7D, 0x7E, 0x7F, 0x80, 0x81, 0x83, 0x85, 0x8A, 0x8D].contains opn
  /-- Atomics, which read it and write the old value to it. -/
  atomicD (opn : Nat) : Bool := [0x86, 0x87, 0x88, 0x8B, 0x8C].contains opn

/-- The item that a field names: v0 to v47 and the queues at their field values, masks from 64, w buffers from 80, codebook
tables from 96. -/
def itemOf (f : Nat × FieldClass) : Option Nat :=
  match f.2 with
  | .v | .vn | .q => some f.1
  | .m => some (64 + f.1)
  | .w => some (80 + f.1)
  | .c => some (96 + f.1)
  | _ => none

/-- Words that do not look at the guard of their group: VEXTX, VARM, MLDW to MSTAT, VBSCALE, VCBLD and the queue words (R142, R363, R375,
R390 to R393, R396, R399, R429). -/
def ignoresGuard (opn : Nat) : Bool := [0x70, 0x8E, 0x98, 0x99, 0x9A, 0x9B, 0x9C, 0x9F, 0xA2].contains opn || 0xC7 ≤ opn

/-- What a word reads and writes, for the hazards of R23(b): the items of its fields, and its guard mask. -/
structure Footprint where
  reads : List Nat
  writes : List Nat
  deriving DecidableEq, Repr

/-- The footprint of a word under the modes that program order gives it. -/
def footprint (i : Instr) (ms : Modes) : Footprint :=
  let raw := encode i
  let opn := opnOf raw
  let m := modeOf (ms.at (groupOf opn))
  let fs := i.fields
  let d := (fs.head?.bind itemOf).toList
  let rest := fs.tail.filterMap itemOf
  let both := rest.filter fun x => 48 ≤ x && x < 64
  let cas := if opn = 0x87 || opn = 0x8C then d.map (· + 1) else []
  let acc := if opn = 0xA3 then rest.filter (· < 48) else []
  let wRel : List Nat := if opn = 0x9A then d else []
  { reads := rest ++ (if readsD opn then d else []) ++ cas ++ (if m.guard = 15 || ignoresGuard opn then [] else [64 + m.guard]) ++ wRel,
    writes := (if readsD.storesD opn then [] else d) ++ both ++ acc }

/-- Two words that may not be exchanged for what they name (R23(b)). -/
def Footprint.hazard (old new : Footprint) : Bool :=
  new.reads.any old.writes.contains || new.writes.any old.reads.contains || new.writes.any old.writes.contains

/-- The registers a word reads (R108). -/
def Footprint.regs (f : Footprint) : List Nat := f.reads.filter (· < 48)

/-! ## The effect of a word -/

/-- What each word does to elements (chapters "Instruction reference"); a node word issued by a strand has none (R414). -/
def wordEffect : Instr → Sem
  | .vadd d a b => effVadd d a b
  | .vaddx d a b => effVaddx d a b
  | .vsub d a b => effVsub d a b
  | .vsubx d a b => effVsubx d a b
  | .vrsubx d a b => effVrsubx d a b
  | .vmul d a b => effVmul d a b
  | .vmulx d a b => effVmulx d a b
  | .vmulh d a b => effVmulh d a b
  | .vmulhu d a b => effVmulhu d a b
  | .vmulhx d a b => effVmulhx d a b
  | .vmac d a b => effVmac d a b
  | .vmacx d a b => effVmacx d a b
  | .vdot2 d a b => effVdot2 d a b
  | .vdot2x d a b => effVdot2x d a b
  | .vdiv d a b => effVdiv d a b
  | .vrem d a b => effVrem d a b
  | .vmin d a b => effVmin d a b
  | .vmax d a b => effVmax d a b
  | .vminx d a b => effVminx d a b
  | .vmaxx d a b => effVmaxx d a b
  | .vand d a b => effVand d a b
  | .vor d a b => effVor d a b
  | .vxor d a b => effVxor d a b
  | .vandx d a b => effVandx d a b
  | .vorx d a b => effVorx d a b
  | .vxorx d a b => effVxorx d a b
  | .vsll d a b => effVsll d a b
  | .vsllx d a b => effVsllx d a b
  | .vsrl d a b => effVsrl d a b
  | .vsrlx d a b => effVsrlx d a b
  | .vsra d a b => effVsra d a b
  | .vsrax d a b => effVsrax d a b
  | .vsrar d a b => effVsrar d a b
  | .vsrarx d a b => effVsrarx d a b
  | .vnarrow d a b => effVnarrow d a b
  | .vwidenl d a _ => effVwidenl d a
  | .vwidenh d a _ => effVwidenh d a
  | .vabs d a _ => effVabs d a
  | .vneg d a _ => effVneg d a
  | .vclz d a _ => effVclz d a
  | .vpopc d a _ => effVpopc d a
  | .vavg d a b => effVavg d a b
  | .vmerge d a b => effVmerge d a b
  | .vsplat d a _ => effVsplat d a
  | .viota d a _ => effViota d a
  | .vcmpeq d a b => effVcmpeq d a b
  | .vcmpne d a b => effVcmpne d a b
  | .vcmplt d a b => effVcmplt d a b
  | .vcmpltu d a b => effVcmpltu d a b
  | .vcmple d a b => effVcmple d a b
  | .vcmpeqx d a b => effVcmpeqx d a b
  | .vcmpltx d a b => effVcmpltx d a b
  | .vcmpltux d a b => effVcmpltux d a b
  | .vcmplex d a b => effVcmplex d a b
  | .vfadd d a b => effVfadd d a b
  | .vfaddx d a b => effVfaddx d a b
  | .vfsub d a b => effVfsub d a b
  | .vfsubx d a b => effVfsubx d a b
  | .vfmul d a b => effVfmul d a b
  | .vfmulx d a b => effVfmulx d a b
  | .vfmac d a b => effVfmac d a b
  | .vfmacx d a b => effVfmacx d a b
  | .vfnms d a b => effVfnms d a b
  | .vfdiv d a b => effVfdiv d a b
  | .vfsqrt d a _ => effVfsqrt d a
  | .vfrcp d a _ => effVfrcp d a
  | .vfrsq d a _ => effVfrsq d a
  | .vfmin d a b => effVfmin d a b
  | .vfmax d a b => effVfmax d a b
  | .vfabs d a _ => effVfabs d a
  | .vfneg d a _ => effVfneg d a
  | .vfrint d a _ => effVfrint d a
  | .vfexp2f d a _ => effVfexp2f d a
  | .vflog2f d a _ => effVflog2f d a
  | .vfldexp d a b => effVfldexp d a b
  | .vfgetexp d a _ => effVfgetexp d a
  | .vfcmpeq d a b => effVfcmpeq d a b
  | .vfcmplt d a b => effVfcmplt d a b
  | .vfcmple d a b => effVfcmple d a b
  | .vfcmpun d a b => effVfcmpun d a b
  | .vfclass d a _ => effVfclass d a
  | .vcvtif d a _ => effVcvtif d a
  | .vcvtfi d a _ => effVcvtfi d a
  | .vcvtff d a _ => effVcvtff d a
  | .vfdot2 d a b => effVfdot2 d a b
  | .vslideup d a b => effVslideup d a b
  | .vslidedn d a b => effVslidedn d a b
  | .vslide1up d a b => effVslide1up d a b
  | .vslide1dn d a b => effVslide1dn d a b
  | .vrgath d a b => effVrgath d a b
  | .vcompress d a b => effVcompress d a b
  | .vexpand d a b => effVexpand d a b
  | .vrev d a _ => effVrev d a
  | .vzip d a b => effVzip d a b
  | .vunzip d a b => effVunzip d a b
  | .vredsum d a b => effVredsum d a b
  | .vredmax d a b => effVredmax d a b
  | .vredmin d a b => effVredmin d a b
  | .vredand d a b => effVredand d a b
  | .vredor d a b => effVredor d a b
  | .vfredsum d a b => effVfredsum d a b
  | .vfredmax d a b => effVfredmax d a b
  | .vfredmin d a b => effVfredmin d a b
  | .vmand d a b => effVmand d a b
  | .vmor d a b => effVmor d a b
  | .vmxor d a b => effVmxor d a b
  | .vmnot d a _ => effVmnot d a
  | .vmpopc d a _ => effVmpopc d a
  | .vmfirst d a _ => effVmfirst d a
  | .vextx d a b => effVextx d a b
  | .vinsx d a b => effVinsx d a b
  | .vmov d a _ => effVmov d a
  | .vmtov d a _ => effVmtov d a
  | .vvtom d a _ => effVvtom d a
  | .vld d a b => effVld d a b
  | .vlds d a b => effVlds d a b
  | .vldx d a b => effVldx d a b
  | .vldb d a b => effVldb d a b
  | .vst d a b => effVst d a b
  | .vsts d a b => effVsts d a b
  | .vstx d a b => effVstx d a b
  | .vstu d a b => effVstu d a b
  | .vstsu d a b => effVstsu d a b
  | .vstxu d a b => effVstxu d a b
  | .vldt d a b => effVldt d a b
  | .vstt d a b => effVstt d a b
  | .vldtx d a b => effVldtx d a b
  | .vsttx d a b => effVsttx d a b
  | .vtaddx d a b => effVtaddx d a b
  | .vtcasx d a b => effVtcasx d a b
  | .vtmaxx d a b => effVtmaxx d a b
  | .vldw d a b => effVldw d a b
  | .vstw d a b => effVstw d a b
  | .vataddx d a b => effVataddx d a b
  | .vatcasx d a b => effVatcasx d a b
  | .vpush d a b => effVpush d a b
  | .varm d a b => effVarm d a b
  | .vpref _ a b => effVpref a b
  | .mldw d a b => effMldw d a b
  | .mrow d a b => effMrow d a b
  | .mrelw d _ _ => effMrelw d
  | .mstat d a _ => effMstat d a
  | .vscacc d a b => effVscacc d a b
  | .vscapply d a b => effVscapply d a b
  | .vbscale d a b => effVbscale d a b
  | .vmxq d a b => effVmxq d a b
  | .vcbdec d a b => effVcbdec d a b
  | .vcbld d a b => effVcbld d a b
  | .vaccrd d a b => effVaccrd d a b
  | .qpushx d a _ => effQpushx d a
  | .qpopx d a _ => effQpopx d a
  | .qstopx d a _ => effQstopx d a
  | .qdone d _ _ => effQdone d
  | .qpeek d a _ => effQpeek d a
  | .qdrain d a _ => effQdrain d a
  | _ => fun e s => (.trap 0 (e.illegal 0), s)

/-! ## Dispatch -/

/-- Vector words that are queued. -/
def Strand.pending (t : Strand) : List Queued := t.lq ++ t.aq ++ t.sq

/-- The CSRs that program order carries. -/
def Strand.csrs (t : Strand) : Csrs :=
  { sstatus := t.sstatus, sie := t.sie, stvec := t.stvec, scounteren := t.scounteren, sscratch := t.sscratch, sepc := t.sepc,
    scause := t.scause, stval := t.stval, ssip := t.ssip, stimecmp := t.stimecmp, satp := t.satp, vcause := t.vcause, tw := t.tw }

/-- Gives CSRs back. -/
def Strand.setCsrs (t : Strand) (r : Csrs) : Strand :=
  { t with sstatus := r.sstatus, sie := r.sie, stvec := r.stvec, scounteren := r.scounteren, sscratch := r.sscratch, sepc := r.sepc,
           scause := r.scause, stval := r.stval, ssip := r.ssip, stimecmp := r.stimecmp, satp := r.satp, vcause := r.vcause, tw := r.tw }

/-- What program order carries at this point. -/
def Strand.front (t : Strand) : Front :=
  { x := t.x, vl := t.vl, vstart := t.vstart, modes := t.modes, instret := t.instret, scalars := SMap.get 0 t.events 1,
    fenceE := t.fenceE, csrs := t.csrs }

/-- What a word of strand `k` of core `c`, at program position `pos`, has at hand. -/
def strandEnv (c k pos : Nat) (raw : BitVec 32) (f : Front) : Env :=
  { c := c, k := k, place := c, vl := f.vl.toNat, vstart := f.vstart.toNat, modes := f.modes, x := f.x, raw := raw,
    run := .strand, base := 0, ins := [], outs := [], fenceE := f.fenceE, pos := pos }

/-! ## The bytes of a memory word (R23(d)) -/

/-- Two runs of bytes share one. -/
def spotsMeet (a b : Spot × Nat) : Bool :=
  match a.1, b.1 with
  | .mem (.dev x), .mem (.dev y) => x < y + b.2 && y < x + a.2
  | .mem (.host w p x), .mem (.host v q y) => w = v && p = q && x < y + b.2 && y < x + a.2
  | .tile u x, .tile v y => u = v && x < y + b.2 && y < x + a.2
  | _, _ => false

/-- `n` bytes from `lo` on, where the pages of a probe place them. -/
def Probe.span (p : Probe) (lo n : Nat) : List (Spot × Nat) :=
  if n = 0 then []
  else
    (List.range ((lo + n - 1) / 4096 - lo / 4096 + 1)).map fun i =>
      let a := max lo ((lo / 4096 + i) * 4096)
      (.mem (p.phys (word a)), min (lo + n) ((lo / 4096 + i + 1) * 4096) - a)

/-- From the lowest to the highest byte of a word whose processed elements, `sz` bytes each, begin at `at_`. -/
def Probe.spanOf (p : Probe) (e : Env) (sz : Nat) (at_ : Nat → Word) : List (Spot × Nat) :=
  if e.memL ≤ e.vstart then []
  else
    let x := (at_ e.vstart).toNat
    let y := (at_ (e.memL - 1)).toNat
    p.span (min x y) (max x y + sz - min x y)

/-- The span of a memory or tile word of a strand (R23(d)): for a word with indices the whole range of its probe, or its tile. -/
def State.spanOf (s : State) (c k pos : Nat) (i : Instr) (f : Front) : List (Spot × Nat) :=
  let e := strandEnv c k pos (encode i) f
  let t := (e.mode gM).t
  let st := s.strand c k
  let probe (b : BitVec 6) : Probe := st.probe b.toNat
  let whole (b : BitVec 6) : List (Spot × Nat) := (probe b).span (probe b).base.toNat ((probe b).lenm1.toNat + 1)
  let rowRun (a b : BitVec 6) : List (Spot × Nat) :=
    [(.mem (.dev ((st.row (rowIndex (e.xval a))).phys + (e.xval b).toNat)), (e.memL * width t + 7) / 8)]
  let tileRun (a b : BitVec 6) : List (Spot × Nat) :=
    let n := handleSlot (e.xval a)
    let x := s.tile c n
    let lo := (offsetAt (e.xval b) e.vstart).toNat * x.w / 8
    [(x.spot c n lo, ((offsetAt (e.xval b) e.memL).toNat * x.w + 7) / 8 - lo)]
  let wholeTile (b : BitVec 6) : List (Spot × Nat) :=
    let n := handleSlot (e.xval b)
    [((s.tile c n).spot c n 0, 64 * (s.tile c n).lines)]
  match i with
  | .vld _ a b | .vst _ a b | .vstu _ a b => (probe b).spanOf e (alignOf t) (unitAddr a s e)
  | .vlds _ a b | .vsts _ a b | .vstsu _ a b => (probe b).spanOf e (alignOf t) (strideAddr a s e)
  | .vldb _ a b => (probe b).span (e.xval a).toNat (alignOf t)
  | .varm _ a b => (probe b).span (e.xval a).toNat 8
  | .vldx _ _ b | .vstx _ _ b | .vstxu _ _ b | .vataddx _ _ b | .vatcasx _ _ b => whole b
  | .vldw _ a b | .vstw _ a b => rowRun a b
  | .vldt _ a b | .vstt _ a b => tileRun a b
  | .vldtx _ _ b | .vsttx _ _ b | .vtaddx _ _ b | .vtcasx _ _ b | .vtmaxx _ _ b => wholeTile b
  | _ => []

/-- A queued word that stores. -/
def Queued.stores (q : Queued) : Bool := queueOf (opnOf (encode q.word)) = .sq

/-- Two queued words, one of them a store, whose spans overlap: the younger is not admitted ahead of the older (R23(d)). -/
def State.memHazard (s : State) (c k : Nat) (o q : Queued) : Bool :=
  (o.stores || q.stores) &&
    (s.spanOf c k o.pos o.word o.front).any fun a => (s.spanOf c k q.pos q.word q.front).any fun b => spotsMeet a b

/-- The front end goes past a vector word that it has dispatched: VSTART is 0 after it (R104, R116). -/
def Strand.pass (t : Strand) : Strand :=
  { t with pc := t.pc + 4, instret := t.instret + 1, vstart := 0, vpos := t.vpos + 1 }

/-- Appends a word to its queue. -/
def Strand.enqueue (t : Strand) (q : Queued) : Strand :=
  match queueOf (opnOf (encode q.word)) with
  | .lq => { t with lq := t.lq ++ [q] }
  | .aq => { t with aq := t.aq ++ [q] }
  | .sq => { t with sq := t.sq ++ [q] }

/-- The queue of a word holds 32 entries (R20). -/
def Strand.queueFull (t : Strand) (opn : Nat) : Bool :=
  match queueOf opn with
  | .lq => 32 ≤ t.lq.length
  | .aq => 32 ≤ t.aq.length
  | .sq => 32 ≤ t.sq.length

/-- The destination registers of a variable-latency word. -/
def Footprint.dest (f : Footprint) : List Nat := f.writes.filter (· < 48)

/-- Admission of a word that processes `n` elements: event 0x02, and the full/empty bits of a variable-latency word's
destination cleared until its walk ends (R25, R108, R279). -/
def Strand.accept (t : Strand) (opn n : Nat) (f : Footprint) : Strand :=
  let t1 := t.count 2 1
  if variableLatency opn && 0 < n then
    { t1 with walks := t1.walks ++ f.dest, feClear := f.dest.foldl (fun m r => SMap.set false m r true) t1.feClear }
  else t1

/-- Every register that a word reads has its full/empty bit set. -/
def Strand.full (t : Strand) (f : Footprint) : Bool := f.regs.all fun r => !SMap.get false t.feClear r

/-- Words that access memory or tiles in the ordinary domain (R180), and those that start an engine operation (R181). -/
def ordinaryWord (opn : Nat) : Bool := 0x78 ≤ opn && opn < 0x90 && opn ≠ 0x8D
def engineWord (opn : Nat) : Bool := opn = 0x98 || opn = 0xA2

/-- A waiting fence keeps a word at program position `pos` from being admitted: an access of a fenced domain that is younger than it
(R180, R182, R322). -/
def Strand.fenceHolds (t : Strand) (pos opn : Nat) : Bool :=
  t.fences.any fun f => f.pos ≤ pos && (ordinaryWord opn || (f.engine && engineWord opn))

/-- An MLDW or VCBLD that finds no FREE entry in the copy table (R237). -/
def State.noEntry (s : State) (c opn : Nat) : Bool := engineWord opn && (s.freeCopy c).isNone

/-! ## Words between a RUN and its CHWAIT (R34, R365) -/

/-- Vector registers and masks among the items of a footprint. -/
def isRegItem (x : Nat) : Bool := x < 48 || (64 ≤ x && x < 76)

/-- The registers and masks that a node of a slot reads and writes. -/
def Slot.nodeItems (y : Slot) (x : NEntry) : Footprint :=
  match x.instr with
  | none => { reads := [], writes := [] }
  | some i =>
    let f := footprint i (x.modesIn y.modes)
    { reads := f.reads.filter isRegItem, writes := f.writes.filter isRegItem }

/-- Those of all its nodes. -/
def Slot.items (y : Slot) : Footprint :=
  let fs := y.rec_.nodes.map y.nodeItems
  { reads := fs.flatMap (·.reads), writes := fs.flatMap (·.writes) }

/-- Those of the chains of strand `k` of core `c` that no CHWAIT has waited for yet. -/
def State.chainItems (s : State) (c k : Nat) : Footprint :=
  let fs := (((s.core c).slots.map (·.2)).filter fun y => y.owner = k && y.unwaited).map Slot.items
  { reads := fs.flatMap (·.reads), writes := fs.flatMap (·.writes) }

/-- Registers and masks of a strand that hold undefined values (R10). -/
def State.blur (s : State) (c k : Nat) (salt : Nat) (items : List Nat) : State :=
  s.onStrand c k fun t => items.foldl (fun (t : Strand) x =>
    if x < 48 then
      { t with v := (List.range 128).foldl (fun m i => SMap.set 0 m (128 * x + i) (t.undefined (s.free (170000 + salt + 128 * x + i)))) t.v }
    else { t with m := SMap.set 0 t.m (x - 64) (freeMask s t (3000 + salt + x)) }) t

/-- Registers and masks that a word of strand `k` of core `c` has written, among those that a chain of the strand that no CHWAIT has
waited for names: a node that writes one later leaves it undefined (R34). -/
def State.noteWrote (s : State) (c k : Nat) (items : List Nat) : State :=
  s.onCore c fun r =>
    { r with slots := r.slots.map fun e =>
        (e.1, if e.2.owner = k && e.2.unwaited then { e.2 with wrote := e.2.wrote ++ items.filter (!e.2.wrote.contains ·) } else e.2) }

/-- After a firing of node `n` of slot `sl`: what it writes of the registers and masks that words of the strand have written since the RUN
is undefined (R34, R365). -/
def State.spoil (s : State) (c sl n : Nat) : State :=
  let y := s.slot c sl
  if y.wrote = [] then s else s.blur c y.owner 20000 ((y.nodeItems (y.rec_.node n)).writes.filter y.wrote.contains)

/-- The effect of a word of strand `k` of core `c` at program position `pos`. What it reads of a register or mask that a chain of the
strand writes, between the RUN and the CHWAIT that waits for it, is undefined, and so is what stands afterwards in one that it writes and
the chain names (R34, R365). -/
def State.wordOf (s : State) (c k pos : Nat) (i : Instr) (f : Front) : Done × State :=
  let e := strandEnv c k pos (encode i) f
  let own := footprint i f.modes
  let chain := s.chainItems c k
  let before := (own.reads ++ own.writes).filter chain.writes.contains
  let after := own.writes.filter (chain.reads ++ chain.writes).contains
  if before = [] && after = [] then wordEffect i e s
  else
    match wordEffect i e (s.blur c k 0 before) with
    | (.stall, _) => (.stall, s)
    | (r, u) => (r, (u.blur c k 10000 after).noteWrote c k after)

/-- Dispatches a word of strand `k` of core `c` (R20). With no older word queued it is admitted at once, if it can be. A full queue, or
a copy table without a FREE entry, keeps it from being issued (R20, R237). -/
def State.dispatch (s : State) (c k : Nat) (i : Instr) : State :=
  let t := s.strand c k
  let raw := encode i
  let opn := opnOf raw
  let f := footprint i t.modes
  let later : State :=
    if t.queueFull opn || s.noEntry c opn then s
    else
      s.onStrand c k fun t =>
        (t.enqueue { word := i, pos := t.vpos, pc := t.pc, front := t.front }).pass
  if t.pending.isEmpty && t.full f && !t.fenceHolds t.vpos opn then
    match s.wordOf c k t.vpos i t.front with
    | (.ok n, s1) => s1.onStrand c k fun t => (t.accept opn n f).pass
    | (.stall, _) => later
    | (.trap e x, s1) => (s1.onStrand c k fun t => { t with vstart := BitVec.ofNat 11 e }).takeTrap c k t.pc x
  else later

/-- A QPOPX that finds its queue empty: the strand waits for a token and issues nothing further (R18, R431). -/
def State.waitQueue (s : State) (c k q : Nat) : State :=
  s.onStrand c k fun t => { t with status := .waiting, wait := some (.queue q) }

/-- Issues a vector word of the acting strand. -/
def issueVector (i : Instr) (s : State) : State :=
  let c := s.who.1
  let k := s.who.2
  match wordRefusal i s.cur.modes with
  | some x => s.raise x
  | none => s.dispatch c k i

/-- A free queue without a token, on which a QPOPX waits (R212, R431). -/
def State.nothingToPop (s : State) (c q : Nat) : Bool := (s.queue c q).owner.isNone && (s.queue c q).held = 0

/-- A QPOPX of the acting strand (R431): on an empty queue the strand waits at once; otherwise it is dispatched to AQ like any other queue
word (R429). -/
def issuePop (i : Instr) (a : BitVec 6) (s : State) : State :=
  let c := s.who.1
  let k := s.who.2
  match wordRefusal i s.cur.modes with
  | some x => s.raise x
  | none => if s.nothingToPop c (a.toNat - 48) then s.waitQueue c k (a.toNat - 48) else s.dispatch c k i

/-- A node word that a strand issues raises ILLEGAL_OPERAND with detail 0, after the checks of R305 (R414). -/
def strandNode (i : Instr) (s : State) : State :=
  match wordRefusal i s.cur.modes with
  | some x => s.raise x
  | none => s.raise (devFault fIllegalOperand 0 ((encode i).setWidth 64))

/-! ## Admission (R23, R224) -/

/-- The queue without its head. -/
def Strand.dequeue (t : Strand) (q : Queued) : Strand :=
  { t with lq := t.lq.filter (·.pos ≠ q.pos), aq := t.aq.filter (·.pos ≠ q.pos), sq := t.sq.filter (·.pos ≠ q.pos) }

/-- The heads of the three queues, the oldest first. -/
def Strand.heads (t : Strand) : List Queued :=
  let hs := t.lq.head?.toList ++ t.aq.head?.toList ++ t.sq.head?.toList
  hs.mergeSort fun a b => a.pos ≤ b.pos

/-- Whether the sequencer may look at a head now: (a) slip, (b) and (d) hazards with older words not yet admitted, and (c) the full/empty
bits (R23); (e) and the waits of a word's own entry are part of its effect. -/
def State.open_ (s : State) (c k : Nat) (q : Queued) : Bool :=
  let t := s.strand c k
  let older := t.pending.filter fun o => o.pos < q.pos
  let f := footprint q.word q.front.modes
  let first := older.foldl (fun m o => min m o.pos) q.pos
  q.pos < first + t.vslip.toNat && t.full f &&
    older.all fun o => !(footprint o.word o.front.modes).hazard f && !s.memHazard c k o q

/-- What program order carried through the front end stands again as it stood at `f`. -/
def Strand.restore (t : Strand) (f : Front) (pc : Word) : Strand :=
  { t.setCsrs f.csrs with x := f.x, vl := f.vl, vstart := f.vstart, modes := f.modes, instret := f.instret,
                          events := SMap.set 0 t.events 1 f.scalars, fenceE := f.fenceE, pc := pc, request := none }

/-- The strand as it stood at a queued word, with every younger word and fence dropped: what a precise trap at the word finds (R87). -/
def Strand.backTo (t : Strand) (q : Queued) (e : Nat) : Strand :=
  { t.restore q.front q.pc with
    vstart := BitVec.ofNat 11 e, fences := t.fences.filter (·.pos ≤ q.pos),
    lq := t.lq.filter (·.pos < q.pos), aq := t.aq.filter (·.pos < q.pos), sq := t.sq.filter (·.pos < q.pos) }

/-- The strand with its oldest waiting fence, and the instructions after it, not yet executed: what an interrupt finds (R320). -/
def Strand.unfence (t : Strand) : Strand :=
  match t.fences with
  | f :: _ => { t.restore f.front f.pc with fences := [] }
  | [] => t

/-- Every older vector word of the strand has completed at queued word `q`, and no fence before it still waits: a fault of it is taken
(R87, R225). -/
def Strand.mayTrap (t : Strand) (q : Queued) : Bool :=
  t.walks.isEmpty && (t.pending.all fun o => q.pos ≤ o.pos) && t.fences.all fun f => q.pos < f.pos

/-- Strand `k` of core `c` as it stands at queued word `q`, from element `e` on: what younger words have changed is undone (R87). -/
def State.backTo (s : State) (c k : Nat) (q : Queued) (e : Nat) : State := (s.undoAfter c k q.pos).onStrand c k fun t => t.backTo q e

/-- Queued word `q` of strand `k` of core `c` has been admitted and has run from `s` to `s1`, `n` elements long. -/
def State.admitted (s s1 : State) (c k : Nat) (q : Queued) (n : Nat) : State :=
  let s2 := s1.onStrand c k fun t => (t.accept (opnOf (encode q.word)) n (footprint q.word q.front.modes)).dequeue q
  (s.noteChanges s2 c k q.pos).pruneUndos c k

/-- Admits the first head of a list that can be: none when no head can. A head that faults waits until everything older has
completed. -/
def State.admitOne (s : State) (c k : Nat) : List Queued → Option State
  | [] => none
  | q :: qs =>
    let t := s.strand c k
    if !s.open_ c k q || t.fenceHolds q.pos (opnOf (encode q.word)) then s.admitOne c k qs
    else
      match s.wordOf c k q.pos q.word q.front with
      | (.ok n, s1) => some (s.admitted s1 c k q n)
      | (.stall, _) => s.admitOne c k qs
      | (.trap e x, s1) => if t.mayTrap q then some ((s1.backTo c k q e).takeTrap c k q.pc x) else s.admitOne c k qs

/-- A queued word of a strand that the sequencer could look at now faults: its trap is due as soon as everything older has completed, and
no younger system word acts before it (R87). -/
def State.trapDue (s : State) (c k : Nat) : Bool :=
  (s.strand c k).pending.any fun q =>
    s.open_ c k q && !(s.strand c k).fenceHolds q.pos (opnOf (encode q.word)) &&
      (match s.wordOf c k q.pos q.word q.front with
        | (.trap _ _, _) => true
        | _ => false)

/-- The oldest queued QPOPX of a strand, and the queue that it pops. -/
def Strand.popAt (t : Strand) : Option (Queued × Nat) :=
  t.aq.findSome? fun q => match q.word with
    | .qpopx _ a _ => some (q, a.toNat - 48)
    | _ => none

/-- The queued QPOPX of a strand whose queue is empty, so that the strand waits for a token (R18, R431). -/
def State.emptyPop (s : State) (c k : Nat) : Option (Queued × Nat) := (s.strand c k).popAt.filter fun x => s.nothingToPop c x.2

/-- The oldest queued word of a strand cannot be admitted now. -/
def State.stuck (s : State) (c k : Nat) : Bool :=
  let t := s.strand c k
  match t.heads.head? with
  | none => true
  | some q =>
    let raw := encode q.word
    if t.fenceHolds q.pos (opnOf raw) then true
    else if t.full (footprint q.word q.front.modes) then
      (match s.wordOf c k q.pos q.word q.front with
        | (.stall, _) => true
        | _ => false)
    else t.walks.isEmpty

/-- The oldest queued word of a strand is a tile word, an MLDW or a VCBLD that waits on a handle (R135). -/
def State.waitsHandle (s : State) (c k : Nat) : Bool :=
  (s.strand c k).heads.head?.any (fun q =>
    let opn := opnOf (encode q.word)
    (0x82 ≤ opn && opn ≤ 0x88) || (engineWord opn && (s.freeCopy c).isSome)) && s.stuck c k

/-! ## Words that wait for older words naming a thing (R121, R158, R380, R404) -/

/-- A queued word names field `n` of class `cls`. -/
def Queued.names (q : Queued) (cls : FieldClass) (n : Nat) : Bool := q.word.fields.any fun f => f.1 = n && f.2 = cls

/-- A queued memory word, MLDW or VCBLD has handle `h` among its x operands. -/
def Queued.namesHandle (q : Queued) (h : Word) : Bool :=
  let opn := opnOf (encode q.word)
  let value (n : Nat) : Word := if n = 0 then 0 else SMap.get 0 q.front.x n
  (ordinaryWord opn || engineWord opn) &&
    q.word.fields.any fun f => f.2 = .x && (value f.1 = h || (opn = 0x98 && value (f.1 + 1) = h))

/-- A queued word names queue `q`. -/
def Queued.namesQueue (w : Queued) (q : Nat) : Bool := w.word.fields.any fun f => f.1 = 48 + q && itemOf f = some (48 + q)

/-- An older vector word that `names` picks out has not completed. -/
def Strand.waitsFor (t : Strand) (names : Queued → Bool) : Bool := t.pending.any names || !t.walks.isEmpty

/-- VECTOR_ADMISSION: the sequencer admits the oldest admissible head of a strand's queues; event 0x04 counts a step in which
none is (R23, R279). -/
def execVectorAdmission (core strand : Nat) (s : State) : Host.Outcome State Fault Refusal :=
  let t := s.strand core strand
  if t.pending.isEmpty then .next s
  else
    match s.admitOne core strand t.heads with
    | some s' => finish (s'.onCore core fun r => { r with lastAdmit := strand })
    | none => .next (s.onStrand core strand fun t => t.count 4 (cyclesOf s (dieOf core)))

/-- VECTOR_WALK_COMPLETE: the word has written its last slot, and the full/empty bit of its destination is set once no other
word walks the register (R25, R108). -/
def execVectorWalkComplete (core strand reg : Nat) (s : State) : Host.Outcome State Fault Refusal :=
  .next (s.onStrand core strand fun t =>
    if t.walks.contains reg then
      let w := t.walks.erase reg
      { t with walks := w, feClear := if w.contains reg then t.feClear else t.feClear.del reg }
    else t)

/-! ## MWAITW (R391) -/

/-- MWAITW: waits, with the strand WAITING, while the buffer is FILLING; reports the ERROR of its load once, with sepc at the
next instruction. Older vector words of the strand that name the buffer are admitted first. -/
def execMwaitw (d a b : BitVec 6) (s : State) : Host.Outcome State Fault Refusal :=
  let c := s.who.1
  let w := s.wbuf c d.toNat
  finish (match wordRefusal (.mwaitw d a b) s.cur.modes with
    | some x => s.raise x
    | none =>
      if s.cur.pending.any (fun q => q.names .w d.toNat) then s
      else if w.state = .filling then s.onCur fun t => { t with status := .waiting, wait := some (.buffer d.toNat) }
      else
        let s1 := s.onCur fun t => (t.accept 0x9B 0 { reads := [], writes := [] }).pass
        if w.state = .empty && w.load = 2 then
          (s1.setWbuf c d.toNat { w with load := 0 }).takeTrap c s.who.2 s1.cur.pc (copyError w.entry w.addr)
        else s1)

/-! ## The vector words -/

/-- VADD (R339). -/
def execVadd (d a b : BitVec 6) (s : State) : Host.Outcome State Fault Refusal :=
  finish (issueVector (.vadd d a b) s)

/-- VADDX (R339). -/
def execVaddx (d a b : BitVec 6) (s : State) : Host.Outcome State Fault Refusal :=
  finish (issueVector (.vaddx d a b) s)

/-- VSUB (R339). -/
def execVsub (d a b : BitVec 6) (s : State) : Host.Outcome State Fault Refusal :=
  finish (issueVector (.vsub d a b) s)

/-- VSUBX (R339). -/
def execVsubx (d a b : BitVec 6) (s : State) : Host.Outcome State Fault Refusal :=
  finish (issueVector (.vsubx d a b) s)

/-- VRSUBX (R339). -/
def execVrsubx (d a b : BitVec 6) (s : State) : Host.Outcome State Fault Refusal :=
  finish (issueVector (.vrsubx d a b) s)

/-- VMUL (R339). -/
def execVmul (d a b : BitVec 6) (s : State) : Host.Outcome State Fault Refusal :=
  finish (issueVector (.vmul d a b) s)

/-- VMULX (R339). -/
def execVmulx (d a b : BitVec 6) (s : State) : Host.Outcome State Fault Refusal :=
  finish (issueVector (.vmulx d a b) s)

/-- VMULH (R339). -/
def execVmulh (d a b : BitVec 6) (s : State) : Host.Outcome State Fault Refusal :=
  finish (issueVector (.vmulh d a b) s)

/-- VMULHU (R339). -/
def execVmulhu (d a b : BitVec 6) (s : State) : Host.Outcome State Fault Refusal :=
  finish (issueVector (.vmulhu d a b) s)

/-- VMULHX (R339). -/
def execVmulhx (d a b : BitVec 6) (s : State) : Host.Outcome State Fault Refusal :=
  finish (issueVector (.vmulhx d a b) s)

/-- VMAC (R340). -/
def execVmac (d a b : BitVec 6) (s : State) : Host.Outcome State Fault Refusal :=
  finish (issueVector (.vmac d a b) s)

/-- VMACX (R340). -/
def execVmacx (d a b : BitVec 6) (s : State) : Host.Outcome State Fault Refusal :=
  finish (issueVector (.vmacx d a b) s)

/-- VDOT2 (R341). -/
def execVdot2 (d a b : BitVec 6) (s : State) : Host.Outcome State Fault Refusal :=
  finish (issueVector (.vdot2 d a b) s)

/-- VDOT2X (R341). -/
def execVdot2x (d a b : BitVec 6) (s : State) : Host.Outcome State Fault Refusal :=
  finish (issueVector (.vdot2x d a b) s)

/-- VDIV (R342). -/
def execVdiv (d a b : BitVec 6) (s : State) : Host.Outcome State Fault Refusal :=
  finish (issueVector (.vdiv d a b) s)

/-- VREM (R342). -/
def execVrem (d a b : BitVec 6) (s : State) : Host.Outcome State Fault Refusal :=
  finish (issueVector (.vrem d a b) s)

/-- VMIN (R339). -/
def execVmin (d a b : BitVec 6) (s : State) : Host.Outcome State Fault Refusal :=
  finish (issueVector (.vmin d a b) s)

/-- VMAX (R339). -/
def execVmax (d a b : BitVec 6) (s : State) : Host.Outcome State Fault Refusal :=
  finish (issueVector (.vmax d a b) s)

/-- VMINX (R339). -/
def execVminx (d a b : BitVec 6) (s : State) : Host.Outcome State Fault Refusal :=
  finish (issueVector (.vminx d a b) s)

/-- VMAXX (R339). -/
def execVmaxx (d a b : BitVec 6) (s : State) : Host.Outcome State Fault Refusal :=
  finish (issueVector (.vmaxx d a b) s)

/-- VAND (R339). -/
def execVand (d a b : BitVec 6) (s : State) : Host.Outcome State Fault Refusal :=
  finish (issueVector (.vand d a b) s)

/-- VOR (R339). -/
def execVor (d a b : BitVec 6) (s : State) : Host.Outcome State Fault Refusal :=
  finish (issueVector (.vor d a b) s)

/-- VXOR (R339). -/
def execVxor (d a b : BitVec 6) (s : State) : Host.Outcome State Fault Refusal :=
  finish (issueVector (.vxor d a b) s)

/-- VANDX (R339). -/
def execVandx (d a b : BitVec 6) (s : State) : Host.Outcome State Fault Refusal :=
  finish (issueVector (.vandx d a b) s)

/-- VORX (R339). -/
def execVorx (d a b : BitVec 6) (s : State) : Host.Outcome State Fault Refusal :=
  finish (issueVector (.vorx d a b) s)

/-- VXORX (R339). -/
def execVxorx (d a b : BitVec 6) (s : State) : Host.Outcome State Fault Refusal :=
  finish (issueVector (.vxorx d a b) s)

/-- VSLL (R343). -/
def execVsll (d a b : BitVec 6) (s : State) : Host.Outcome State Fault Refusal :=
  finish (issueVector (.vsll d a b) s)

/-- VSLLX (R343). -/
def execVsllx (d a b : BitVec 6) (s : State) : Host.Outcome State Fault Refusal :=
  finish (issueVector (.vsllx d a b) s)

/-- VSRL (R343). -/
def execVsrl (d a b : BitVec 6) (s : State) : Host.Outcome State Fault Refusal :=
  finish (issueVector (.vsrl d a b) s)

/-- VSRLX (R343). -/
def execVsrlx (d a b : BitVec 6) (s : State) : Host.Outcome State Fault Refusal :=
  finish (issueVector (.vsrlx d a b) s)

/-- VSRA (R343). -/
def execVsra (d a b : BitVec 6) (s : State) : Host.Outcome State Fault Refusal :=
  finish (issueVector (.vsra d a b) s)

/-- VSRAX (R343). -/
def execVsrax (d a b : BitVec 6) (s : State) : Host.Outcome State Fault Refusal :=
  finish (issueVector (.vsrax d a b) s)

/-- VSRAR (R343). -/
def execVsrar (d a b : BitVec 6) (s : State) : Host.Outcome State Fault Refusal :=
  finish (issueVector (.vsrar d a b) s)

/-- VSRARX (R343). -/
def execVsrarx (d a b : BitVec 6) (s : State) : Host.Outcome State Fault Refusal :=
  finish (issueVector (.vsrarx d a b) s)

/-- VNARROW (R344). -/
def execVnarrow (d a b : BitVec 6) (s : State) : Host.Outcome State Fault Refusal :=
  finish (issueVector (.vnarrow d a b) s)

/-- VWIDENL (R344). -/
def execVwidenl (d a b : BitVec 6) (s : State) : Host.Outcome State Fault Refusal :=
  finish (issueVector (.vwidenl d a b) s)

/-- VWIDENH (R344). -/
def execVwidenh (d a b : BitVec 6) (s : State) : Host.Outcome State Fault Refusal :=
  finish (issueVector (.vwidenh d a b) s)

/-- VABS (R345). -/
def execVabs (d a b : BitVec 6) (s : State) : Host.Outcome State Fault Refusal :=
  finish (issueVector (.vabs d a b) s)

/-- VNEG (R345). -/
def execVneg (d a b : BitVec 6) (s : State) : Host.Outcome State Fault Refusal :=
  finish (issueVector (.vneg d a b) s)

/-- VCLZ (R345). -/
def execVclz (d a b : BitVec 6) (s : State) : Host.Outcome State Fault Refusal :=
  finish (issueVector (.vclz d a b) s)

/-- VPOPC (R345). -/
def execVpopc (d a b : BitVec 6) (s : State) : Host.Outcome State Fault Refusal :=
  finish (issueVector (.vpopc d a b) s)

/-- VAVG (R339). -/
def execVavg (d a b : BitVec 6) (s : State) : Host.Outcome State Fault Refusal :=
  finish (issueVector (.vavg d a b) s)

/-- VMERGE (R346). -/
def execVmerge (d a b : BitVec 6) (s : State) : Host.Outcome State Fault Refusal :=
  finish (issueVector (.vmerge d a b) s)

/-- VSPLAT (R346). -/
def execVsplat (d a b : BitVec 6) (s : State) : Host.Outcome State Fault Refusal :=
  finish (issueVector (.vsplat d a b) s)

/-- VIOTA (R347). -/
def execViota (d a b : BitVec 6) (s : State) : Host.Outcome State Fault Refusal :=
  finish (issueVector (.viota d a b) s)

/-- VCMPEQ (R348). -/
def execVcmpeq (d a b : BitVec 6) (s : State) : Host.Outcome State Fault Refusal :=
  finish (issueVector (.vcmpeq d a b) s)

/-- VCMPNE (R348). -/
def execVcmpne (d a b : BitVec 6) (s : State) : Host.Outcome State Fault Refusal :=
  finish (issueVector (.vcmpne d a b) s)

/-- VCMPLT (R348). -/
def execVcmplt (d a b : BitVec 6) (s : State) : Host.Outcome State Fault Refusal :=
  finish (issueVector (.vcmplt d a b) s)

/-- VCMPLTU (R348). -/
def execVcmpltu (d a b : BitVec 6) (s : State) : Host.Outcome State Fault Refusal :=
  finish (issueVector (.vcmpltu d a b) s)

/-- VCMPLE (R348). -/
def execVcmple (d a b : BitVec 6) (s : State) : Host.Outcome State Fault Refusal :=
  finish (issueVector (.vcmple d a b) s)

/-- VCMPEQX (R348). -/
def execVcmpeqx (d a b : BitVec 6) (s : State) : Host.Outcome State Fault Refusal :=
  finish (issueVector (.vcmpeqx d a b) s)

/-- VCMPLTX (R348). -/
def execVcmpltx (d a b : BitVec 6) (s : State) : Host.Outcome State Fault Refusal :=
  finish (issueVector (.vcmpltx d a b) s)

/-- VCMPLTUX (R348). -/
def execVcmpltux (d a b : BitVec 6) (s : State) : Host.Outcome State Fault Refusal :=
  finish (issueVector (.vcmpltux d a b) s)

/-- VCMPLEX (R348). -/
def execVcmplex (d a b : BitVec 6) (s : State) : Host.Outcome State Fault Refusal :=
  finish (issueVector (.vcmplex d a b) s)

/-- VFADD (R349). -/
def execVfadd (d a b : BitVec 6) (s : State) : Host.Outcome State Fault Refusal :=
  finish (issueVector (.vfadd d a b) s)

/-- VFADDX (R349). -/
def execVfaddx (d a b : BitVec 6) (s : State) : Host.Outcome State Fault Refusal :=
  finish (issueVector (.vfaddx d a b) s)

/-- VFSUB (R349). -/
def execVfsub (d a b : BitVec 6) (s : State) : Host.Outcome State Fault Refusal :=
  finish (issueVector (.vfsub d a b) s)

/-- VFSUBX (R349). -/
def execVfsubx (d a b : BitVec 6) (s : State) : Host.Outcome State Fault Refusal :=
  finish (issueVector (.vfsubx d a b) s)

/-- VFMUL (R349). -/
def execVfmul (d a b : BitVec 6) (s : State) : Host.Outcome State Fault Refusal :=
  finish (issueVector (.vfmul d a b) s)

/-- VFMULX (R349). -/
def execVfmulx (d a b : BitVec 6) (s : State) : Host.Outcome State Fault Refusal :=
  finish (issueVector (.vfmulx d a b) s)

/-- VFMAC (R350). -/
def execVfmac (d a b : BitVec 6) (s : State) : Host.Outcome State Fault Refusal :=
  finish (issueVector (.vfmac d a b) s)

/-- VFMACX (R350). -/
def execVfmacx (d a b : BitVec 6) (s : State) : Host.Outcome State Fault Refusal :=
  finish (issueVector (.vfmacx d a b) s)

/-- VFNMS (R350). -/
def execVfnms (d a b : BitVec 6) (s : State) : Host.Outcome State Fault Refusal :=
  finish (issueVector (.vfnms d a b) s)

/-- VFDIV (R349). -/
def execVfdiv (d a b : BitVec 6) (s : State) : Host.Outcome State Fault Refusal :=
  finish (issueVector (.vfdiv d a b) s)

/-- VFSQRT (R351). -/
def execVfsqrt (d a b : BitVec 6) (s : State) : Host.Outcome State Fault Refusal :=
  finish (issueVector (.vfsqrt d a b) s)

/-- VFRCP (R351). -/
def execVfrcp (d a b : BitVec 6) (s : State) : Host.Outcome State Fault Refusal :=
  finish (issueVector (.vfrcp d a b) s)

/-- VFRSQ (R351). -/
def execVfrsq (d a b : BitVec 6) (s : State) : Host.Outcome State Fault Refusal :=
  finish (issueVector (.vfrsq d a b) s)

/-- VFMIN (R349). -/
def execVfmin (d a b : BitVec 6) (s : State) : Host.Outcome State Fault Refusal :=
  finish (issueVector (.vfmin d a b) s)

/-- VFMAX (R349). -/
def execVfmax (d a b : BitVec 6) (s : State) : Host.Outcome State Fault Refusal :=
  finish (issueVector (.vfmax d a b) s)

/-- VFABS (R351). -/
def execVfabs (d a b : BitVec 6) (s : State) : Host.Outcome State Fault Refusal :=
  finish (issueVector (.vfabs d a b) s)

/-- VFNEG (R351). -/
def execVfneg (d a b : BitVec 6) (s : State) : Host.Outcome State Fault Refusal :=
  finish (issueVector (.vfneg d a b) s)

/-- VFRINT (R80). -/
def execVfrint (d a b : BitVec 6) (s : State) : Host.Outcome State Fault Refusal :=
  finish (issueVector (.vfrint d a b) s)

/-- VFEXP2F (R351). -/
def execVfexp2f (d a b : BitVec 6) (s : State) : Host.Outcome State Fault Refusal :=
  finish (issueVector (.vfexp2f d a b) s)

/-- VFLOG2F (R351). -/
def execVflog2f (d a b : BitVec 6) (s : State) : Host.Outcome State Fault Refusal :=
  finish (issueVector (.vflog2f d a b) s)

/-- VFLDEXP (R352). -/
def execVfldexp (d a b : BitVec 6) (s : State) : Host.Outcome State Fault Refusal :=
  finish (issueVector (.vfldexp d a b) s)

/-- VFGETEXP (R351). -/
def execVfgetexp (d a b : BitVec 6) (s : State) : Host.Outcome State Fault Refusal :=
  finish (issueVector (.vfgetexp d a b) s)

/-- VFCMPEQ (R353). -/
def execVfcmpeq (d a b : BitVec 6) (s : State) : Host.Outcome State Fault Refusal :=
  finish (issueVector (.vfcmpeq d a b) s)

/-- VFCMPLT (R353). -/
def execVfcmplt (d a b : BitVec 6) (s : State) : Host.Outcome State Fault Refusal :=
  finish (issueVector (.vfcmplt d a b) s)

/-- VFCMPLE (R353). -/
def execVfcmple (d a b : BitVec 6) (s : State) : Host.Outcome State Fault Refusal :=
  finish (issueVector (.vfcmple d a b) s)

/-- VFCMPUN (R353). -/
def execVfcmpun (d a b : BitVec 6) (s : State) : Host.Outcome State Fault Refusal :=
  finish (issueVector (.vfcmpun d a b) s)

/-- VFCLASS (R354). -/
def execVfclass (d a b : BitVec 6) (s : State) : Host.Outcome State Fault Refusal :=
  finish (issueVector (.vfclass d a b) s)

/-- VCVTIF (R355). -/
def execVcvtif (d a b : BitVec 6) (s : State) : Host.Outcome State Fault Refusal :=
  finish (issueVector (.vcvtif d a b) s)

/-- VCVTFI (R355). -/
def execVcvtfi (d a b : BitVec 6) (s : State) : Host.Outcome State Fault Refusal :=
  finish (issueVector (.vcvtfi d a b) s)

/-- VCVTFF (R355). -/
def execVcvtff (d a b : BitVec 6) (s : State) : Host.Outcome State Fault Refusal :=
  finish (issueVector (.vcvtff d a b) s)

/-- VFDOT2 (R356). -/
def execVfdot2 (d a b : BitVec 6) (s : State) : Host.Outcome State Fault Refusal :=
  finish (issueVector (.vfdot2 d a b) s)

/-- VSLIDEUP (R357). -/
def execVslideup (d a b : BitVec 6) (s : State) : Host.Outcome State Fault Refusal :=
  finish (issueVector (.vslideup d a b) s)

/-- VSLIDEDN (R357). -/
def execVslidedn (d a b : BitVec 6) (s : State) : Host.Outcome State Fault Refusal :=
  finish (issueVector (.vslidedn d a b) s)

/-- VSLIDE1UP (R357). -/
def execVslide1up (d a b : BitVec 6) (s : State) : Host.Outcome State Fault Refusal :=
  finish (issueVector (.vslide1up d a b) s)

/-- VSLIDE1DN (R357). -/
def execVslide1dn (d a b : BitVec 6) (s : State) : Host.Outcome State Fault Refusal :=
  finish (issueVector (.vslide1dn d a b) s)

/-- VRGATH (R358). -/
def execVrgath (d a b : BitVec 6) (s : State) : Host.Outcome State Fault Refusal :=
  finish (issueVector (.vrgath d a b) s)

/-- VCOMPRESS (R359). -/
def execVcompress (d a b : BitVec 6) (s : State) : Host.Outcome State Fault Refusal :=
  finish (issueVector (.vcompress d a b) s)

/-- VEXPAND (R359). -/
def execVexpand (d a b : BitVec 6) (s : State) : Host.Outcome State Fault Refusal :=
  finish (issueVector (.vexpand d a b) s)

/-- VREV (R358). -/
def execVrev (d a b : BitVec 6) (s : State) : Host.Outcome State Fault Refusal :=
  finish (issueVector (.vrev d a b) s)

/-- VZIP (R358). -/
def execVzip (d a b : BitVec 6) (s : State) : Host.Outcome State Fault Refusal :=
  finish (issueVector (.vzip d a b) s)

/-- VUNZIP (R358). -/
def execVunzip (d a b : BitVec 6) (s : State) : Host.Outcome State Fault Refusal :=
  finish (issueVector (.vunzip d a b) s)

/-- VREDSUM (R360). -/
def execVredsum (d a b : BitVec 6) (s : State) : Host.Outcome State Fault Refusal :=
  finish (issueVector (.vredsum d a b) s)

/-- VREDMAX (R360). -/
def execVredmax (d a b : BitVec 6) (s : State) : Host.Outcome State Fault Refusal :=
  finish (issueVector (.vredmax d a b) s)

/-- VREDMIN (R360). -/
def execVredmin (d a b : BitVec 6) (s : State) : Host.Outcome State Fault Refusal :=
  finish (issueVector (.vredmin d a b) s)

/-- VREDAND (R360). -/
def execVredand (d a b : BitVec 6) (s : State) : Host.Outcome State Fault Refusal :=
  finish (issueVector (.vredand d a b) s)

/-- VREDOR (R360). -/
def execVredor (d a b : BitVec 6) (s : State) : Host.Outcome State Fault Refusal :=
  finish (issueVector (.vredor d a b) s)

/-- VFREDSUM (R360). -/
def execVfredsum (d a b : BitVec 6) (s : State) : Host.Outcome State Fault Refusal :=
  finish (issueVector (.vfredsum d a b) s)

/-- VFREDMAX (R360). -/
def execVfredmax (d a b : BitVec 6) (s : State) : Host.Outcome State Fault Refusal :=
  finish (issueVector (.vfredmax d a b) s)

/-- VFREDMIN (R360). -/
def execVfredmin (d a b : BitVec 6) (s : State) : Host.Outcome State Fault Refusal :=
  finish (issueVector (.vfredmin d a b) s)

/-- VMAND (R361). -/
def execVmand (d a b : BitVec 6) (s : State) : Host.Outcome State Fault Refusal :=
  finish (issueVector (.vmand d a b) s)

/-- VMOR (R361). -/
def execVmor (d a b : BitVec 6) (s : State) : Host.Outcome State Fault Refusal :=
  finish (issueVector (.vmor d a b) s)

/-- VMXOR (R361). -/
def execVmxor (d a b : BitVec 6) (s : State) : Host.Outcome State Fault Refusal :=
  finish (issueVector (.vmxor d a b) s)

/-- VMNOT (R361). -/
def execVmnot (d a b : BitVec 6) (s : State) : Host.Outcome State Fault Refusal :=
  finish (issueVector (.vmnot d a b) s)

/-- VMPOPC (R362). -/
def execVmpopc (d a b : BitVec 6) (s : State) : Host.Outcome State Fault Refusal :=
  finish (issueVector (.vmpopc d a b) s)

/-- VMFIRST (R362). -/
def execVmfirst (d a b : BitVec 6) (s : State) : Host.Outcome State Fault Refusal :=
  finish (issueVector (.vmfirst d a b) s)

/-- VEXTX (R363). -/
def execVextx (d a b : BitVec 6) (s : State) : Host.Outcome State Fault Refusal :=
  finish (issueVector (.vextx d a b) s)

/-- VINSX (R363). -/
def execVinsx (d a b : BitVec 6) (s : State) : Host.Outcome State Fault Refusal :=
  finish (issueVector (.vinsx d a b) s)

/-- VMOV (R346). -/
def execVmov (d a b : BitVec 6) (s : State) : Host.Outcome State Fault Refusal :=
  finish (issueVector (.vmov d a b) s)

/-- VMTOV (R364). -/
def execVmtov (d a b : BitVec 6) (s : State) : Host.Outcome State Fault Refusal :=
  finish (issueVector (.vmtov d a b) s)

/-- VVTOM (R364). -/
def execVvtom (d a b : BitVec 6) (s : State) : Host.Outcome State Fault Refusal :=
  finish (issueVector (.vvtom d a b) s)

/-- VLD (R369). -/
def execVld (d a b : BitVec 6) (s : State) : Host.Outcome State Fault Refusal :=
  finish (issueVector (.vld d a b) s)

/-- VLDS (R369). -/
def execVlds (d a b : BitVec 6) (s : State) : Host.Outcome State Fault Refusal :=
  finish (issueVector (.vlds d a b) s)

/-- VLDX (R369). -/
def execVldx (d a b : BitVec 6) (s : State) : Host.Outcome State Fault Refusal :=
  finish (issueVector (.vldx d a b) s)

/-- VLDB (R369). -/
def execVldb (d a b : BitVec 6) (s : State) : Host.Outcome State Fault Refusal :=
  finish (issueVector (.vldb d a b) s)

/-- VST (R369). -/
def execVst (d a b : BitVec 6) (s : State) : Host.Outcome State Fault Refusal :=
  finish (issueVector (.vst d a b) s)

/-- VSTS (R369). -/
def execVsts (d a b : BitVec 6) (s : State) : Host.Outcome State Fault Refusal :=
  finish (issueVector (.vsts d a b) s)

/-- VSTX (R369). -/
def execVstx (d a b : BitVec 6) (s : State) : Host.Outcome State Fault Refusal :=
  finish (issueVector (.vstx d a b) s)

/-- VSTU (R369). -/
def execVstu (d a b : BitVec 6) (s : State) : Host.Outcome State Fault Refusal :=
  finish (issueVector (.vstu d a b) s)

/-- VSTSU (R369). -/
def execVstsu (d a b : BitVec 6) (s : State) : Host.Outcome State Fault Refusal :=
  finish (issueVector (.vstsu d a b) s)

/-- VSTXU (R369). -/
def execVstxu (d a b : BitVec 6) (s : State) : Host.Outcome State Fault Refusal :=
  finish (issueVector (.vstxu d a b) s)

/-- VLDT (R371). -/
def execVldt (d a b : BitVec 6) (s : State) : Host.Outcome State Fault Refusal :=
  finish (issueVector (.vldt d a b) s)

/-- VSTT (R371). -/
def execVstt (d a b : BitVec 6) (s : State) : Host.Outcome State Fault Refusal :=
  finish (issueVector (.vstt d a b) s)

/-- VLDTX (R371). -/
def execVldtx (d a b : BitVec 6) (s : State) : Host.Outcome State Fault Refusal :=
  finish (issueVector (.vldtx d a b) s)

/-- VSTTX (R371). -/
def execVsttx (d a b : BitVec 6) (s : State) : Host.Outcome State Fault Refusal :=
  finish (issueVector (.vsttx d a b) s)

/-- VTADDX (R372). -/
def execVtaddx (d a b : BitVec 6) (s : State) : Host.Outcome State Fault Refusal :=
  finish (issueVector (.vtaddx d a b) s)

/-- VTCASX (R372). -/
def execVtcasx (d a b : BitVec 6) (s : State) : Host.Outcome State Fault Refusal :=
  finish (issueVector (.vtcasx d a b) s)

/-- VTMAXX (R372). -/
def execVtmaxx (d a b : BitVec 6) (s : State) : Host.Outcome State Fault Refusal :=
  finish (issueVector (.vtmaxx d a b) s)

/-- VLDW (R373). -/
def execVldw (d a b : BitVec 6) (s : State) : Host.Outcome State Fault Refusal :=
  finish (issueVector (.vldw d a b) s)

/-- VSTW (R373). -/
def execVstw (d a b : BitVec 6) (s : State) : Host.Outcome State Fault Refusal :=
  finish (issueVector (.vstw d a b) s)

/-- VATADDX (R372). -/
def execVataddx (d a b : BitVec 6) (s : State) : Host.Outcome State Fault Refusal :=
  finish (issueVector (.vataddx d a b) s)

/-- VATCASX (R372). -/
def execVatcasx (d a b : BitVec 6) (s : State) : Host.Outcome State Fault Refusal :=
  finish (issueVector (.vatcasx d a b) s)

/-- VPUSH (R374). -/
def execVpush (d a b : BitVec 6) (s : State) : Host.Outcome State Fault Refusal :=
  finish (issueVector (.vpush d a b) s)

/-- VARM (R375). -/
def execVarm (d a b : BitVec 6) (s : State) : Host.Outcome State Fault Refusal :=
  finish (issueVector (.varm d a b) s)

/-- VPREF (R370). -/
def execVpref (d a b : BitVec 6) (s : State) : Host.Outcome State Fault Refusal :=
  finish (issueVector (.vpref d a b) s)

/-- MLDW (R390). -/
def execMldw (d a b : BitVec 6) (s : State) : Host.Outcome State Fault Refusal :=
  finish (issueVector (.mldw d a b) s)

/-- MROW (R393). -/
def execMrow (d a b : BitVec 6) (s : State) : Host.Outcome State Fault Refusal :=
  finish (issueVector (.mrow d a b) s)

/-- MRELW (R391). -/
def execMrelw (d a b : BitVec 6) (s : State) : Host.Outcome State Fault Refusal :=
  finish (issueVector (.mrelw d a b) s)

/-- MSTAT (R392). -/
def execMstat (d a b : BitVec 6) (s : State) : Host.Outcome State Fault Refusal :=
  finish (issueVector (.mstat d a b) s)

/-- VSCACC (R397). -/
def execVscacc (d a b : BitVec 6) (s : State) : Host.Outcome State Fault Refusal :=
  finish (issueVector (.vscacc d a b) s)

/-- VSCAPPLY (R398). -/
def execVscapply (d a b : BitVec 6) (s : State) : Host.Outcome State Fault Refusal :=
  finish (issueVector (.vscapply d a b) s)

/-- VBSCALE (R396). -/
def execVbscale (d a b : BitVec 6) (s : State) : Host.Outcome State Fault Refusal :=
  finish (issueVector (.vbscale d a b) s)

/-- VMXQ (R398). -/
def execVmxq (d a b : BitVec 6) (s : State) : Host.Outcome State Fault Refusal :=
  finish (issueVector (.vmxq d a b) s)

/-- VCBDEC (R400). -/
def execVcbdec (d a b : BitVec 6) (s : State) : Host.Outcome State Fault Refusal :=
  finish (issueVector (.vcbdec d a b) s)

/-- VCBLD (R399). -/
def execVcbld (d a b : BitVec 6) (s : State) : Host.Outcome State Fault Refusal :=
  finish (issueVector (.vcbld d a b) s)

/-- VACCRD (R401). -/
def execVaccrd (d a b : BitVec 6) (s : State) : Host.Outcome State Fault Refusal :=
  finish (issueVector (.vaccrd d a b) s)

/-- QPUSHX (R430). -/
def execQpushx (d a b : BitVec 6) (s : State) : Host.Outcome State Fault Refusal :=
  finish (issueVector (.qpushx d a b) s)

/-- QPOPX (R431). -/
def execQpopx (d a b : BitVec 6) (s : State) : Host.Outcome State Fault Refusal :=
  finish (issuePop (.qpopx d a b) a s)

/-- QSTOPX (R430). -/
def execQstopx (d a b : BitVec 6) (s : State) : Host.Outcome State Fault Refusal :=
  finish (issueVector (.qstopx d a b) s)

/-- QDONE (R430). -/
def execQdone (d a b : BitVec 6) (s : State) : Host.Outcome State Fault Refusal :=
  finish (issueVector (.qdone d a b) s)

/-- QPEEK (R432). -/
def execQpeek (d a b : BitVec 6) (s : State) : Host.Outcome State Fault Refusal :=
  finish (issueVector (.qpeek d a b) s)

/-- QDRAIN (R433). -/
def execQdrain (d a b : BitVec 6) (s : State) : Host.Outcome State Fault Refusal :=
  finish (issueVector (.qdrain d a b) s)

end Sys2Proof.Machine
end

