-- ==== Sys2Proof/Machine/Scalar.lean ====
section
/-!
DEFINITION. The RISC-V subset (R82, R85, R315 to R318): the integer instructions, loads, stores, atomics, branches and the
privileged and ordering instructions, one meaning each.
-/
namespace Sys2Proof.Machine

/-- A 32-bit result sign-extended, as every W form delivers it. -/
def sx32 (v : BitVec 32) : Word := v.signExtend 64

/-- The low 32 bits. -/
def lo32 (w : Word) : BitVec 32 := w.setWidth 32

/-- A sign-extended 12-bit immediate. -/
def simm (i : BitVec 12) : Word := i.signExtend 64

/-- The value of a U-form immediate. -/
def uimm (i : BitVec 20) : Word := sx32 (i ++ 0#12)

/-- The high half of a product, of numbers as the caller reads them. -/
def highHalf (p : Int) : Word := BitVec.ofInt 64 (p / 2 ^ 64)

/-- DIV and DIVW: all ones for a zero divisor, the minimum for the minimum by −1 (R317). -/
def sdivide {w : Nat} (a b : BitVec w) : BitVec w := if b = 0 then BitVec.allOnes w else BitVec.ofInt w (a.toInt.tdiv b.toInt)

/-- DIVU and DIVUW: all ones for a zero divisor (R317). -/
def udivide {w : Nat} (a b : BitVec w) : BitVec w := if b = 0 then BitVec.allOnes w else a / b

/-- REM and REMW: the dividend for a zero divisor (R317). -/
def sremainder {w : Nat} (a b : BitVec w) : BitVec w := if b = 0 then a else BitVec.ofInt w (a.toInt.tmod b.toInt)

/-- REMU and REMUW: the dividend for a zero divisor (R317). -/
def uremainder {w : Nat} (a b : BitVec w) : BitVec w := if b = 0 then a else a % b

/-- Zero bits above the highest set bit. -/
def leadingZeros {w : Nat} (a : BitVec w) : Nat := if a = 0 then w else w - 1 - Nat.log2 a.toNat

/-- Zero bits below the lowest set bit, found from bit `i` upward. -/
def trailingFrom (v : Nat) : Nat → Nat → Nat
  | 0, i => i
  | n + 1, i => if v / 2 ^ i % 2 = 1 then i else trailingFrom v n (i + 1)

/-- Zero bits below the lowest set bit. -/
def trailingZeros {w : Nat} (a : BitVec w) : Nat := trailingFrom a.toNat w 0

/-- ORC.B on the low `n` bytes: each nonzero byte becomes all ones. -/
def orcBytes : Nat → Nat → Nat
  | 0, _ => 0
  | n + 1, v => (if v % 256 = 0 then 0 else 255) + 256 * orcBytes n (v / 256)

/-- REV8. -/
def rev8 (v : Word) : Word := word (ofBytes (toBytes v.toNat 8).reverse)

/-- The acting strand's x register. -/
def rx (s : State) (r : BitVec 5) : Word := s.cur.readX r

/-- A jump or branch to `target`: misaligned, it raises scause 0 with stval the target (R82); otherwise `rd` receives the
address after it. -/
def jump (rd : BitVec 5) (target : Word) (s : State) : State :=
  if target.toNat % 4 != 0 then s.raise (exc 0 target)
  else s.onCur fun t => (t.writeX rd (t.pc + 4)).retireTo target

/-- A conditional branch of offset `imm`, in units of two bytes. -/
def branch (taken : Bool) (imm : BitVec 12) (s : State) : State :=
  if taken then jump 0 (s.cur.pc + (imm ++ 0#1).signExtend 64) s else s.onCur Strand.retire

/-- A scalar load of `n` bytes at x[rs1] + imm, extended by `ext` into rd (R316). -/
def loadInto (n : Nat) (ext : Nat → Word) (rd rs1 : BitVec 5) (imm : BitVec 12) (s : State) : State :=
  match s.load s.who.1 s.who.2 (rx s rs1 + simm imm) n true with
  | (.ok v, s') => scalar rd (ext v) s'
  | (.error e, s') => s'.raise e

/-- A scalar store of the low `n` bytes of x[rs2] at x[rs1] + imm (R316). -/
def storeFrom (n : Nat) (rs1 rs2 : BitVec 5) (imm : BitVec 12) (s : State) : State :=
  match s.storeAt s.who.1 s.who.2 (rx s rs1 + simm imm) n (rx s rs2).toNat with
  | (.ok (), s') => s'.onCur Strand.retire
  | (.error e, s') => s'.raise e

/-- A value of `n` bytes sign-extended. -/
def sextN (n : Nat) (v : Nat) : Word := if n = 4 then sx32 (BitVec.ofNat 32 v) else word v

/-- The address an atomic reaches: aligned, translated for `a`, and not on a host window page, which raises scause 7
(R316). -/
def State.atomicAt (s : State) (va : Word) (n : Nat) (a : Access) : Except Exc Phys × State :=
  if va.toNat % n != 0 then (.error (exc (match a with | .load => 4 | _ => 6) va), s)
  else
    match s.translate s.who.1 s.who.2 va a with
    | (.error e, s') => (.error e, s')
    | (.ok p, s') => if p.isHost then (.error (exc 7 va), s') else (.ok p, s')

/-- The scalar data cache of a core forgets everything (R185). -/
def State.dropCache (s : State) (c : Nat) : State := s.onCore c fun r => { r with dcache := [] }

/-- The ordering bits of an atomic. DESIGN CHOICE (log 103): with either bit, a failing SC included, the core's scalar data cache is
emptied, so that the strand's younger loads are performed after it (R197); R185 does not name atomics among its invalidations. -/
def State.acquire (s : State) (aq rl : BitVec 1) : State := if aq = 1 || rl = 1 then s.dropCache s.who.1 else s

/-- LR: reads at memory and reserves the line (R197, R318). -/
def loadReserved (n : Nat) (rd rs1 : BitVec 5) (aq rl : BitVec 1) (s : State) : State :=
  let va := rx s rs1
  match s.atomicAt va n .load with
  | (.error e, s') => s'.raise e
  | (.ok p, s1) =>
    match s1.readMem s.who.1 s.who.2 va p n with
    | (.error e, s') => s'.raise e
    | (.ok v, s2) =>
      let s3 := (s2.refresh s.who.1 p).acquire aq rl
      scalar rd (sextN n v) (s3.onCur fun t => { t with resv := some p.line })

/-- SC: writes and returns 0 while the strand's reservation of the line stands, and otherwise writes nothing and returns 1
(R197, R318). -/
def storeConditional (n : Nat) (rd rs1 rs2 : BitVec 5) (aq rl : BitVec 1) (s : State) : State :=
  match s.atomicAt (rx s rs1) n .store with
  | (.error e, s') => s'.raise e
  | (.ok p, s1) =>
    let held := s.cur.resv = some p.line
    let s2 :=
      if held then (s1.touch p).store (.strand s.who.1 s.who.2) (piecesOf p (toBytes (rx s rs2).toNat n)) else s1
    let s3 := s2.acquire aq rl
    scalar rd (if held then 0 else 1) (s3.onCur fun t => { t with resv := none })

/-- An AMO: one read and one write at memory, atomic; `f` takes the old value and the operand, both sign-extended to 64 bits
(R197). -/
def atomic (n : Nat) (f : Word → Word → Word) (rd rs1 rs2 : BitVec 5) (aq rl : BitVec 1) (s : State) : State :=
  let va := rx s rs1
  match s.atomicAt va n .store with
  | (.error e, s') => s'.raise e
  | (.ok p, s1) =>
    match s1.readMem s.who.1 s.who.2 va p n with
    | (.error e, s') => s'.raise e
    | (.ok v, s2) =>
      let old := sextN n v
      let new := f old (sextN n ((rx s rs2).toNat % 2 ^ (8 * n)))
      let s3 := (s2.refresh s.who.1 p).store (.strand s.who.1 s.who.2) (piecesOf p (toBytes new.toNat n))
      scalar rd old (s3.acquire aq rl)

/-- The unsigned order on `n` bytes of values that were sign-extended to 64 bits agrees with their own. -/
def minU (a b : Word) : Word := if a.toNat ≤ b.toNat then a else b
def maxU (a b : Word) : Word := if a.toNat ≤ b.toNat then b else a
def minS (a b : Word) : Word := if a.toInt ≤ b.toInt then a else b
def maxS (a b : Word) : Word := if a.toInt ≤ b.toInt then b else a

/-- A privileged instruction in U mode is illegal (R85). -/
def inSMode (w : BitVec 32) (f : State → State) (s : State) : State :=
  match s.cur.priv with
  | .u => s.raise (exc 2 (w.setWidth 64))
  | .s => f s

/-! ## Register and immediate instructions -/

def execAdd (rd rs1 rs2 : BitVec 5) (s : State) : Host.Outcome State Fault Refusal :=
  .next (scalar rd (rx s rs1 + rx s rs2) s)

def execSub (rd rs1 rs2 : BitVec 5) (s : State) : Host.Outcome State Fault Refusal :=
  .next (scalar rd (rx s rs1 - rx s rs2) s)

def execSll (rd rs1 rs2 : BitVec 5) (s : State) : Host.Outcome State Fault Refusal :=
  .next (scalar rd (rx s rs1 <<< ((rx s rs2).toNat % 64)) s)

def execSlt (rd rs1 rs2 : BitVec 5) (s : State) : Host.Outcome State Fault Refusal :=
  .next (scalar rd (if (rx s rs1).toInt < (rx s rs2).toInt then 1 else 0) s)

def execSltu (rd rs1 rs2 : BitVec 5) (s : State) : Host.Outcome State Fault Refusal :=
  .next (scalar rd (if (rx s rs1).toNat < (rx s rs2).toNat then 1 else 0) s)

def execXor (rd rs1 rs2 : BitVec 5) (s : State) : Host.Outcome State Fault Refusal :=
  .next (scalar rd (rx s rs1 ^^^ rx s rs2) s)

def execSrl (rd rs1 rs2 : BitVec 5) (s : State) : Host.Outcome State Fault Refusal :=
  .next (scalar rd (rx s rs1 >>> ((rx s rs2).toNat % 64)) s)

def execSra (rd rs1 rs2 : BitVec 5) (s : State) : Host.Outcome State Fault Refusal :=
  .next (scalar rd ((rx s rs1).sshiftRight ((rx s rs2).toNat % 64)) s)

def execOr (rd rs1 rs2 : BitVec 5) (s : State) : Host.Outcome State Fault Refusal :=
  .next (scalar rd (rx s rs1 ||| rx s rs2) s)

def execAnd (rd rs1 rs2 : BitVec 5) (s : State) : Host.Outcome State Fault Refusal :=
  .next (scalar rd (rx s rs1 &&& rx s rs2) s)

def execAddw (rd rs1 rs2 : BitVec 5) (s : State) : Host.Outcome State Fault Refusal :=
  .next (scalar rd (sx32 (lo32 (rx s rs1) + lo32 (rx s rs2))) s)

def execSubw (rd rs1 rs2 : BitVec 5) (s : State) : Host.Outcome State Fault Refusal :=
  .next (scalar rd (sx32 (lo32 (rx s rs1) - lo32 (rx s rs2))) s)

def execSllw (rd rs1 rs2 : BitVec 5) (s : State) : Host.Outcome State Fault Refusal :=
  .next (scalar rd (sx32 (lo32 (rx s rs1) <<< ((rx s rs2).toNat % 32))) s)

def execSrlw (rd rs1 rs2 : BitVec 5) (s : State) : Host.Outcome State Fault Refusal :=
  .next (scalar rd (sx32 (lo32 (rx s rs1) >>> ((rx s rs2).toNat % 32))) s)

def execSraw (rd rs1 rs2 : BitVec 5) (s : State) : Host.Outcome State Fault Refusal :=
  .next (scalar rd (sx32 ((lo32 (rx s rs1)).sshiftRight ((rx s rs2).toNat % 32))) s)

def execMul (rd rs1 rs2 : BitVec 5) (s : State) : Host.Outcome State Fault Refusal :=
  .next (scalar rd (rx s rs1 * rx s rs2) s)

def execMulh (rd rs1 rs2 : BitVec 5) (s : State) : Host.Outcome State Fault Refusal :=
  .next (scalar rd (highHalf ((rx s rs1).toInt * (rx s rs2).toInt)) s)

def execMulhsu (rd rs1 rs2 : BitVec 5) (s : State) : Host.Outcome State Fault Refusal :=
  .next (scalar rd (highHalf ((rx s rs1).toInt * (rx s rs2).toNat)) s)

def execMulhu (rd rs1 rs2 : BitVec 5) (s : State) : Host.Outcome State Fault Refusal :=
  .next (scalar rd (highHalf ((rx s rs1).toNat * (rx s rs2).toNat)) s)

def execDiv (rd rs1 rs2 : BitVec 5) (s : State) : Host.Outcome State Fault Refusal :=
  .next (scalar rd (sdivide (rx s rs1) (rx s rs2)) s)

def execDivu (rd rs1 rs2 : BitVec 5) (s : State) : Host.Outcome State Fault Refusal :=
  .next (scalar rd (udivide (rx s rs1) (rx s rs2)) s)

def execRem (rd rs1 rs2 : BitVec 5) (s : State) : Host.Outcome State Fault Refusal :=
  .next (scalar rd (sremainder (rx s rs1) (rx s rs2)) s)

def execRemu (rd rs1 rs2 : BitVec 5) (s : State) : Host.Outcome State Fault Refusal :=
  .next (scalar rd (uremainder (rx s rs1) (rx s rs2)) s)

def execMulw (rd rs1 rs2 : BitVec 5) (s : State) : Host.Outcome State Fault Refusal :=
  .next (scalar rd (sx32 (lo32 (rx s rs1) * lo32 (rx s rs2))) s)

def execDivw (rd rs1 rs2 : BitVec 5) (s : State) : Host.Outcome State Fault Refusal :=
  .next (scalar rd (sx32 (sdivide (lo32 (rx s rs1)) (lo32 (rx s rs2)))) s)

def execDivuw (rd rs1 rs2 : BitVec 5) (s : State) : Host.Outcome State Fault Refusal :=
  .next (scalar rd (sx32 (udivide (lo32 (rx s rs1)) (lo32 (rx s rs2)))) s)

def execRemw (rd rs1 rs2 : BitVec 5) (s : State) : Host.Outcome State Fault Refusal :=
  .next (scalar rd (sx32 (sremainder (lo32 (rx s rs1)) (lo32 (rx s rs2)))) s)

def execRemuw (rd rs1 rs2 : BitVec 5) (s : State) : Host.Outcome State Fault Refusal :=
  .next (scalar rd (sx32 (uremainder (lo32 (rx s rs1)) (lo32 (rx s rs2)))) s)

def execAddUw (rd rs1 rs2 : BitVec 5) (s : State) : Host.Outcome State Fault Refusal :=
  .next (scalar rd ((lo32 (rx s rs1)).setWidth 64 + rx s rs2) s)

def execSh1add (rd rs1 rs2 : BitVec 5) (s : State) : Host.Outcome State Fault Refusal :=
  .next (scalar rd ((rx s rs1 <<< 1) + rx s rs2) s)

def execSh2add (rd rs1 rs2 : BitVec 5) (s : State) : Host.Outcome State Fault Refusal :=
  .next (scalar rd ((rx s rs1 <<< 2) + rx s rs2) s)

def execSh3add (rd rs1 rs2 : BitVec 5) (s : State) : Host.Outcome State Fault Refusal :=
  .next (scalar rd ((rx s rs1 <<< 3) + rx s rs2) s)

def execSh1addUw (rd rs1 rs2 : BitVec 5) (s : State) : Host.Outcome State Fault Refusal :=
  .next (scalar rd (((lo32 (rx s rs1)).setWidth 64 <<< 1) + rx s rs2) s)

def execSh2addUw (rd rs1 rs2 : BitVec 5) (s : State) : Host.Outcome State Fault Refusal :=
  .next (scalar rd (((lo32 (rx s rs1)).setWidth 64 <<< 2) + rx s rs2) s)

def execSh3addUw (rd rs1 rs2 : BitVec 5) (s : State) : Host.Outcome State Fault Refusal :=
  .next (scalar rd (((lo32 (rx s rs1)).setWidth 64 <<< 3) + rx s rs2) s)

def execAndn (rd rs1 rs2 : BitVec 5) (s : State) : Host.Outcome State Fault Refusal :=
  .next (scalar rd (rx s rs1 &&& ~~~(rx s rs2)) s)

def execOrn (rd rs1 rs2 : BitVec 5) (s : State) : Host.Outcome State Fault Refusal :=
  .next (scalar rd (rx s rs1 ||| ~~~(rx s rs2)) s)

def execXnor (rd rs1 rs2 : BitVec 5) (s : State) : Host.Outcome State Fault Refusal :=
  .next (scalar rd (~~~(rx s rs1 ^^^ rx s rs2)) s)

def execMax (rd rs1 rs2 : BitVec 5) (s : State) : Host.Outcome State Fault Refusal :=
  .next (scalar rd (maxS (rx s rs1) (rx s rs2)) s)

def execMaxu (rd rs1 rs2 : BitVec 5) (s : State) : Host.Outcome State Fault Refusal :=
  .next (scalar rd (maxU (rx s rs1) (rx s rs2)) s)

def execMin (rd rs1 rs2 : BitVec 5) (s : State) : Host.Outcome State Fault Refusal :=
  .next (scalar rd (minS (rx s rs1) (rx s rs2)) s)

def execMinu (rd rs1 rs2 : BitVec 5) (s : State) : Host.Outcome State Fault Refusal :=
  .next (scalar rd (minU (rx s rs1) (rx s rs2)) s)

def execRol (rd rs1 rs2 : BitVec 5) (s : State) : Host.Outcome State Fault Refusal :=
  .next (scalar rd ((rx s rs1).rotateLeft ((rx s rs2).toNat % 64)) s)

def execRolw (rd rs1 rs2 : BitVec 5) (s : State) : Host.Outcome State Fault Refusal :=
  .next (scalar rd (sx32 ((lo32 (rx s rs1)).rotateLeft ((rx s rs2).toNat % 32))) s)

def execRor (rd rs1 rs2 : BitVec 5) (s : State) : Host.Outcome State Fault Refusal :=
  .next (scalar rd ((rx s rs1).rotateRight ((rx s rs2).toNat % 64)) s)

def execRorw (rd rs1 rs2 : BitVec 5) (s : State) : Host.Outcome State Fault Refusal :=
  .next (scalar rd (sx32 ((lo32 (rx s rs1)).rotateRight ((rx s rs2).toNat % 32))) s)

def execCzeroEqz (rd rs1 rs2 : BitVec 5) (s : State) : Host.Outcome State Fault Refusal :=
  .next (scalar rd (if rx s rs2 = 0 then 0 else rx s rs1) s)

def execCzeroNez (rd rs1 rs2 : BitVec 5) (s : State) : Host.Outcome State Fault Refusal :=
  .next (scalar rd (if rx s rs2 = 0 then rx s rs1 else 0) s)

def execAddi (rd rs1 : BitVec 5) (imm : BitVec 12) (s : State) : Host.Outcome State Fault Refusal :=
  .next (scalar rd (rx s rs1 + simm imm) s)

def execSlti (rd rs1 : BitVec 5) (imm : BitVec 12) (s : State) : Host.Outcome State Fault Refusal :=
  .next (scalar rd (if (rx s rs1).toInt < (simm imm).toInt then 1 else 0) s)

def execSltiu (rd rs1 : BitVec 5) (imm : BitVec 12) (s : State) : Host.Outcome State Fault Refusal :=
  .next (scalar rd (if (rx s rs1).toNat < (simm imm).toNat then 1 else 0) s)

def execXori (rd rs1 : BitVec 5) (imm : BitVec 12) (s : State) : Host.Outcome State Fault Refusal :=
  .next (scalar rd (rx s rs1 ^^^ simm imm) s)

def execOri (rd rs1 : BitVec 5) (imm : BitVec 12) (s : State) : Host.Outcome State Fault Refusal :=
  .next (scalar rd (rx s rs1 ||| simm imm) s)

def execAndi (rd rs1 : BitVec 5) (imm : BitVec 12) (s : State) : Host.Outcome State Fault Refusal :=
  .next (scalar rd (rx s rs1 &&& simm imm) s)

def execAddiw (rd rs1 : BitVec 5) (imm : BitVec 12) (s : State) : Host.Outcome State Fault Refusal :=
  .next (scalar rd (sx32 (lo32 (rx s rs1) + lo32 (simm imm))) s)

def execSlli (rd rs1 : BitVec 5) (sh : BitVec 6) (s : State) : Host.Outcome State Fault Refusal :=
  .next (scalar rd (rx s rs1 <<< sh.toNat) s)

def execSrli (rd rs1 : BitVec 5) (sh : BitVec 6) (s : State) : Host.Outcome State Fault Refusal :=
  .next (scalar rd (rx s rs1 >>> sh.toNat) s)

def execSrai (rd rs1 : BitVec 5) (sh : BitVec 6) (s : State) : Host.Outcome State Fault Refusal :=
  .next (scalar rd ((rx s rs1).sshiftRight sh.toNat) s)

def execSlliUw (rd rs1 : BitVec 5) (sh : BitVec 6) (s : State) : Host.Outcome State Fault Refusal :=
  .next (scalar rd ((lo32 (rx s rs1)).setWidth 64 <<< sh.toNat) s)

def execRori (rd rs1 : BitVec 5) (sh : BitVec 6) (s : State) : Host.Outcome State Fault Refusal :=
  .next (scalar rd ((rx s rs1).rotateRight sh.toNat) s)

def execSlliw (rd rs1 sh : BitVec 5) (s : State) : Host.Outcome State Fault Refusal :=
  .next (scalar rd (sx32 (lo32 (rx s rs1) <<< sh.toNat)) s)

def execSrliw (rd rs1 sh : BitVec 5) (s : State) : Host.Outcome State Fault Refusal :=
  .next (scalar rd (sx32 (lo32 (rx s rs1) >>> sh.toNat)) s)

def execSraiw (rd rs1 sh : BitVec 5) (s : State) : Host.Outcome State Fault Refusal :=
  .next (scalar rd (sx32 ((lo32 (rx s rs1)).sshiftRight sh.toNat)) s)

def execRoriw (rd rs1 sh : BitVec 5) (s : State) : Host.Outcome State Fault Refusal :=
  .next (scalar rd (sx32 ((lo32 (rx s rs1)).rotateRight sh.toNat)) s)

def execClz (rd rs1 : BitVec 5) (s : State) : Host.Outcome State Fault Refusal :=
  .next (scalar rd (word (leadingZeros (rx s rs1))) s)

def execClzw (rd rs1 : BitVec 5) (s : State) : Host.Outcome State Fault Refusal :=
  .next (scalar rd (word (leadingZeros (lo32 (rx s rs1)))) s)

def execCtz (rd rs1 : BitVec 5) (s : State) : Host.Outcome State Fault Refusal :=
  .next (scalar rd (word (trailingZeros (rx s rs1))) s)

def execCtzw (rd rs1 : BitVec 5) (s : State) : Host.Outcome State Fault Refusal :=
  .next (scalar rd (word (trailingZeros (lo32 (rx s rs1)))) s)

def execCpop (rd rs1 : BitVec 5) (s : State) : Host.Outcome State Fault Refusal :=
  .next (scalar rd (word (popBits 64 (rx s rs1).toNat)) s)

def execCpopw (rd rs1 : BitVec 5) (s : State) : Host.Outcome State Fault Refusal :=
  .next (scalar rd (word (popBits 32 (lo32 (rx s rs1)).toNat)) s)

def execSextB (rd rs1 : BitVec 5) (s : State) : Host.Outcome State Fault Refusal :=
  .next (scalar rd (((rx s rs1).setWidth 8).signExtend 64) s)

def execSextH (rd rs1 : BitVec 5) (s : State) : Host.Outcome State Fault Refusal :=
  .next (scalar rd (((rx s rs1).setWidth 16).signExtend 64) s)

def execZextH (rd rs1 : BitVec 5) (s : State) : Host.Outcome State Fault Refusal :=
  .next (scalar rd (((rx s rs1).setWidth 16).setWidth 64) s)

def execOrcB (rd rs1 : BitVec 5) (s : State) : Host.Outcome State Fault Refusal :=
  .next (scalar rd (word (orcBytes 8 (rx s rs1).toNat)) s)

def execRev8 (rd rs1 : BitVec 5) (s : State) : Host.Outcome State Fault Refusal :=
  .next (scalar rd (rev8 (rx s rs1)) s)

def execLui (rd : BitVec 5) (imm : BitVec 20) (s : State) : Host.Outcome State Fault Refusal :=
  .next (scalar rd (uimm imm) s)

def execAuipc (rd : BitVec 5) (imm : BitVec 20) (s : State) : Host.Outcome State Fault Refusal :=
  .next (scalar rd (s.cur.pc + uimm imm) s)

/-! ## Jumps and branches (R82) -/

def execJal (rd : BitVec 5) (imm : BitVec 20) (s : State) : Host.Outcome State Fault Refusal :=
  finish (jump rd (s.cur.pc + (imm ++ 0#1).signExtend 64) s)

def execJalr (rd rs1 : BitVec 5) (imm : BitVec 12) (s : State) : Host.Outcome State Fault Refusal :=
  finish (jump rd ((rx s rs1 + simm imm) &&& ~~~1#64) s)

def execBeq (rs1 rs2 : BitVec 5) (imm : BitVec 12) (s : State) : Host.Outcome State Fault Refusal :=
  finish (branch (decide (rx s rs1 = rx s rs2)) imm s)

def execBne (rs1 rs2 : BitVec 5) (imm : BitVec 12) (s : State) : Host.Outcome State Fault Refusal :=
  finish (branch (decide (rx s rs1 ≠ rx s rs2)) imm s)

def execBlt (rs1 rs2 : BitVec 5) (imm : BitVec 12) (s : State) : Host.Outcome State Fault Refusal :=
  finish (branch (decide ((rx s rs1).toInt < (rx s rs2).toInt)) imm s)

def execBge (rs1 rs2 : BitVec 5) (imm : BitVec 12) (s : State) : Host.Outcome State Fault Refusal :=
  finish (branch (decide ((rx s rs2).toInt ≤ (rx s rs1).toInt)) imm s)

def execBltu (rs1 rs2 : BitVec 5) (imm : BitVec 12) (s : State) : Host.Outcome State Fault Refusal :=
  finish (branch (decide ((rx s rs1).toNat < (rx s rs2).toNat)) imm s)

def execBgeu (rs1 rs2 : BitVec 5) (imm : BitVec 12) (s : State) : Host.Outcome State Fault Refusal :=
  finish (branch (decide ((rx s rs2).toNat ≤ (rx s rs1).toNat)) imm s)

/-! ## Loads and stores (R316) -/

def execLb (rd rs1 : BitVec 5) (imm : BitVec 12) (s : State) : Host.Outcome State Fault Refusal :=
  finish (loadInto 1 (fun v => (BitVec.ofNat 8 v).signExtend 64) rd rs1 imm s)

def execLh (rd rs1 : BitVec 5) (imm : BitVec 12) (s : State) : Host.Outcome State Fault Refusal :=
  finish (loadInto 2 (fun v => (BitVec.ofNat 16 v).signExtend 64) rd rs1 imm s)

def execLw (rd rs1 : BitVec 5) (imm : BitVec 12) (s : State) : Host.Outcome State Fault Refusal :=
  finish (loadInto 4 (fun v => sx32 (BitVec.ofNat 32 v)) rd rs1 imm s)

def execLd (rd rs1 : BitVec 5) (imm : BitVec 12) (s : State) : Host.Outcome State Fault Refusal :=
  finish (loadInto 8 word rd rs1 imm s)

def execLbu (rd rs1 : BitVec 5) (imm : BitVec 12) (s : State) : Host.Outcome State Fault Refusal :=
  finish (loadInto 1 word rd rs1 imm s)

def execLhu (rd rs1 : BitVec 5) (imm : BitVec 12) (s : State) : Host.Outcome State Fault Refusal :=
  finish (loadInto 2 word rd rs1 imm s)

def execLwu (rd rs1 : BitVec 5) (imm : BitVec 12) (s : State) : Host.Outcome State Fault Refusal :=
  finish (loadInto 4 word rd rs1 imm s)

def execSb (rs1 rs2 : BitVec 5) (imm : BitVec 12) (s : State) : Host.Outcome State Fault Refusal :=
  finish (storeFrom 1 rs1 rs2 imm s)

def execSh (rs1 rs2 : BitVec 5) (imm : BitVec 12) (s : State) : Host.Outcome State Fault Refusal :=
  finish (storeFrom 2 rs1 rs2 imm s)

def execSw (rs1 rs2 : BitVec 5) (imm : BitVec 12) (s : State) : Host.Outcome State Fault Refusal :=
  finish (storeFrom 4 rs1 rs2 imm s)

def execSd (rs1 rs2 : BitVec 5) (imm : BitVec 12) (s : State) : Host.Outcome State Fault Refusal :=
  finish (storeFrom 8 rs1 rs2 imm s)

/-! ## Atomics (R197, R318) -/

def execLrW (rd rs1 : BitVec 5) (aq rl : BitVec 1) (s : State) : Host.Outcome State Fault Refusal :=
  finish (loadReserved 4 rd rs1 aq rl s)

def execScW (rd rs1 rs2 : BitVec 5) (aq rl : BitVec 1) (s : State) : Host.Outcome State Fault Refusal :=
  finish (storeConditional 4 rd rs1 rs2 aq rl s)

def execAmoswapW (rd rs1 rs2 : BitVec 5) (aq rl : BitVec 1) (s : State) : Host.Outcome State Fault Refusal :=
  finish (atomic 4 (fun _ b => b) rd rs1 rs2 aq rl s)

def execAmoaddW (rd rs1 rs2 : BitVec 5) (aq rl : BitVec 1) (s : State) : Host.Outcome State Fault Refusal :=
  finish (atomic 4 (fun a b => a + b) rd rs1 rs2 aq rl s)

def execAmoxorW (rd rs1 rs2 : BitVec 5) (aq rl : BitVec 1) (s : State) : Host.Outcome State Fault Refusal :=
  finish (atomic 4 (fun a b => a ^^^ b) rd rs1 rs2 aq rl s)

def execAmoandW (rd rs1 rs2 : BitVec 5) (aq rl : BitVec 1) (s : State) : Host.Outcome State Fault Refusal :=
  finish (atomic 4 (fun a b => a &&& b) rd rs1 rs2 aq rl s)

def execAmoorW (rd rs1 rs2 : BitVec 5) (aq rl : BitVec 1) (s : State) : Host.Outcome State Fault Refusal :=
  finish (atomic 4 (fun a b => a ||| b) rd rs1 rs2 aq rl s)

def execAmominW (rd rs1 rs2 : BitVec 5) (aq rl : BitVec 1) (s : State) : Host.Outcome State Fault Refusal :=
  finish (atomic 4 minS rd rs1 rs2 aq rl s)

def execAmomaxW (rd rs1 rs2 : BitVec 5) (aq rl : BitVec 1) (s : State) : Host.Outcome State Fault Refusal :=
  finish (atomic 4 maxS rd rs1 rs2 aq rl s)

def execAmominuW (rd rs1 rs2 : BitVec 5) (aq rl : BitVec 1) (s : State) : Host.Outcome State Fault Refusal :=
  finish (atomic 4 minU rd rs1 rs2 aq rl s)

def execAmomaxuW (rd rs1 rs2 : BitVec 5) (aq rl : BitVec 1) (s : State) : Host.Outcome State Fault Refusal :=
  finish (atomic 4 maxU rd rs1 rs2 aq rl s)

def execLrD (rd rs1 : BitVec 5) (aq rl : BitVec 1) (s : State) : Host.Outcome State Fault Refusal :=
  finish (loadReserved 8 rd rs1 aq rl s)

def execScD (rd rs1 rs2 : BitVec 5) (aq rl : BitVec 1) (s : State) : Host.Outcome State Fault Refusal :=
  finish (storeConditional 8 rd rs1 rs2 aq rl s)

def execAmoswapD (rd rs1 rs2 : BitVec 5) (aq rl : BitVec 1) (s : State) : Host.Outcome State Fault Refusal :=
  finish (atomic 8 (fun _ b => b) rd rs1 rs2 aq rl s)

def execAmoaddD (rd rs1 rs2 : BitVec 5) (aq rl : BitVec 1) (s : State) : Host.Outcome State Fault Refusal :=
  finish (atomic 8 (fun a b => a + b) rd rs1 rs2 aq rl s)

def execAmoxorD (rd rs1 rs2 : BitVec 5) (aq rl : BitVec 1) (s : State) : Host.Outcome State Fault Refusal :=
  finish (atomic 8 (fun a b => a ^^^ b) rd rs1 rs2 aq rl s)

def execAmoandD (rd rs1 rs2 : BitVec 5) (aq rl : BitVec 1) (s : State) : Host.Outcome State Fault Refusal :=
  finish (atomic 8 (fun a b => a &&& b) rd rs1 rs2 aq rl s)

def execAmoorD (rd rs1 rs2 : BitVec 5) (aq rl : BitVec 1) (s : State) : Host.Outcome State Fault Refusal :=
  finish (atomic 8 (fun a b => a ||| b) rd rs1 rs2 aq rl s)

def execAmominD (rd rs1 rs2 : BitVec 5) (aq rl : BitVec 1) (s : State) : Host.Outcome State Fault Refusal :=
  finish (atomic 8 minS rd rs1 rs2 aq rl s)

def execAmomaxD (rd rs1 rs2 : BitVec 5) (aq rl : BitVec 1) (s : State) : Host.Outcome State Fault Refusal :=
  finish (atomic 8 maxS rd rs1 rs2 aq rl s)

def execAmominuD (rd rs1 rs2 : BitVec 5) (aq rl : BitVec 1) (s : State) : Host.Outcome State Fault Refusal :=
  finish (atomic 8 minU rd rs1 rs2 aq rl s)

def execAmomaxuD (rd rs1 rs2 : BitVec 5) (aq rl : BitVec 1) (s : State) : Host.Outcome State Fault Refusal :=
  finish (atomic 8 maxU rd rs1 rs2 aq rl s)

/-! ## Ordering and privileged instructions (R85) -/

/-- Invalidates the core's instruction cache (R85). -/
def execFenceI (_rd _rs1 : BitVec 5) (_imm : BitVec 12) (s : State) : Host.Outcome State Fault Refusal :=
  .next ((s.onCore s.who.1 fun r => { r with icache := [] }).onCur Strand.retire)

/-- In U mode scause 8; in S mode the strand waits for Titania's reply (R18, R85). -/
def execEcall (s : State) : Host.Outcome State Fault Refusal :=
  match s.cur.priv with
  | .u => finish (s.raise (exc 8 0))
  | .s => .next ((s.onCur fun t => { t with status := .waiting, wait := some .titania }).emit (.monitorCall s.who.1 s.who.2))

/-- scause 3 with stval the pc (R85). -/
def execEbreak (s : State) : Host.Outcome State Fault Refusal :=
  finish (s.raise (exc 3 s.cur.pc))

/-- The return of R85; the slots whose break trap is in service enter TEMPORAL (R27, R282). -/
def execSret (s : State) : Host.Outcome State Fault Refusal :=
  finish (inSMode 0x10200073 (fun s =>
    (s.onCur Strand.sret).onCore s.who.1 fun r => { r with slots := r.slots.map (sretSlot s.who.2) }) s)

/-- The strand waits until a bit of sip & sie is set, whatever SIE holds, and then goes on (R85). -/
def execWfi (s : State) : Host.Outcome State Fault Refusal :=
  finish (inSMode 0x10500073 (fun s =>
    if s.sip s.who.1 s.who.2 &&& s.cur.sie = 0 then s.onCur fun t => { t with status := .waiting, wait := some .interrupt }
    else s.onCur Strand.retire) s)

/-- Invalidates the strand's scalar translations; probes are unaffected (R85). -/
def execSfenceVma (rs1 : BitVec 5) (s : State) : Host.Outcome State Fault Refusal :=
  finish (inSMode (encodeR 0x73 0x09 0 0 rs1 0) (fun s => s.onCur fun t => { t with tlb := [] }.retire) s)

/-! ## What is no instruction (R86, R170, R301, R305) -/

/-- custom-2, a reserved OPN or f7 and a nonzero f3 raise ILLEGAL_OP; every other word raises scause 2 (R301, R305, R308). -/
def execReservedEncoding (w : BitVec 32) (s : State) : Host.Outcome State Fault Refusal :=
  let op := w.toNat % 128
  finish (s.raise (if op = 0x0B || op = 0x2B || op = 0x5B || op = 0x7B then devFault fIllegalOp 0 (w.setWidth 64)
    else exc 2 (w.setWidth 64)))

/-- A fetch that fails: scause 12 or 1 at the pc, or POISON whatever the poison-trap setting, with PSN (R86, R170). -/
def execInstructionFetchFault (why : FetchFault) (s : State) : Host.Outcome State Fault Refusal :=
  match why with
  | .page => finish (s.raise (exc 12 s.cur.pc))
  | .access => finish (s.raise (exc 1 s.cur.pc))
  | .poison line => finish ((s.poisonRead s.who.1 s.who.2).raise (devFault fPoison 0 (word line)))

end Sys2Proof.Machine
end

