-- ==== Sys2Proof/Machine/System.lean ====
section
/-!
DEFINITION. The system-space words of modes, probes, tiles, rows, fences, hints, event counters, helper strands and software
traps (R320 to R324, R329, R330, R332, R333, R377 to R381).
-/
namespace Sys2Proof.Machine

/-! ## The frame of a system word (R305, R320) -/

/-- ILLEGAL_OPERAND of a word. -/
def illegalWord (raw : BitVec 32) (field : Nat) : Exc := devFault fIllegalOperand field (raw.setWidth 64)

/-- A system word of the acting strand: its fields are checked in the order rd, rs1, rs2, and then it acts. -/
def xr (f7 : BitVec 7) (rd rs1 rs2 : BitVec 5) (c0 c1 c2 : FieldClass) (f : BitVec 32 → State → State) (s : State) :
    Host.Outcome State Fault Refusal :=
  let raw := encodeXR f7 rd rs1 rs2
  finish (match badField [(rd.toNat, c0), (rs1.toNat, c1), (rs2.toNat, c2)] 0 with
    | some n => s.raise (illegalWord raw n)
    | none => f raw s)

/-- PRIVILEGE, for a word that only S mode may execute (R305 check 3). -/
def monitorOnly (f : BitVec 32 → State → State) (raw : BitVec 32) (s : State) : State :=
  match s.cur.priv with
  | .u => s.raise (devFault fPrivilege 0 (raw.setWidth 64))
  | .s => f raw s

/-- A word that acts once every older vector word of the strand that `names` picks out has completed. -/
def afterNaming (names : Queued → Bool) (f : BitVec 32 → State → State) (raw : BitVec 32) (s : State) : State :=
  if s.cur.waitsFor names then s else f raw s

/-- The acting strand retires without a result. -/
def State.done (s : State) : State := s.onCur Strand.retire

/-! ## Modes and lengths (R321) -/

/-- SETMODE. -/
def execSetmode (rd rs1 rs2 : BitVec 5) (s : State) : Host.Outcome State Fault Refusal :=
  xr 0x00 rd rs1 rs2 .z .x .g (fun raw s =>
    let v := rx s rs1
    if badMode v then s.raise (illegalWord raw 4)
    else (s.onCur fun t => { t with modes := t.modes.put rs2.toNat (v.setWidth 32) }).done) s

/-- GETMODE. -/
def execGetmode (rd rs1 rs2 : BitVec 5) (s : State) : Host.Outcome State Fault Refusal :=
  xr 0x01 rd rs1 rs2 .x .z .g (fun _ s => scalar rd ((s.cur.modes.at rs2.toNat).setWidth 64) s) s

/-- SETVL. -/
def execSetvl (rd rs1 rs2 : BitVec 5) (s : State) : Host.Outcome State Fault Refusal :=
  xr 0x02 rd rs1 rs2 .x .x .g (fun _ s =>
    let n := min (rx s rs1).toNat (vlmax (modeOf (s.cur.modes.at rs2.toNat)).t)
    scalar rd (word n) (s.onCur fun t => { t with vl := BitVec.ofNat 12 n })) s

/-- SETVSTART. -/
def execSetvstart (rd rs1 rs2 : BitVec 5) (s : State) : Host.Outcome State Fault Refusal :=
  xr 0x03 rd rs1 rs2 .z .x .z (fun raw s =>
    let v := rx s rs1
    if 2047 < v.toNat then s.raise (illegalWord raw 1)
    else (s.onCur fun t => { t with vstart := v.setWidth 11 }).done) s

/-! ## Probes (R120, R121, R377, R378) -/

/-- A canonical Sv57 address: bits 63 to 56 are equal. -/
def canonical (va : Word) : Bool := bits va 63 56 == 0 || bits va 63 56 == 0xFF

/-- A range of `lenm1 + 1` bytes that stays in one canonical half. -/
def canonicalRange (base : Word) (lenm1 : Nat) : Bool :=
  let last := base.toNat + lenm1
  canonical base && last < 2 ^ 64 && bits (word last) 63 56 == bits base 63 56

/-- Pages that a range touches. -/
def pageCount (base : Word) (lenm1 : Nat) : Nat := (base.toNat + lenm1) / 4096 - base.toNat / 4096 + 1

/-- Whether a leaf forbids what a probe asks: detail 0 for a missing R or U, 1 for a missing W alone (R377). -/
def probeCheck (u r w : Bool) (f : Leaf) : Option Nat :=
  if (r && !f.r) || (u && !f.u) then some 0 else if w && !f.w then some 1 else none

/-- Replaces probe `p` of the strand, and moves its pins from the old pages to the new. -/
def State.setProbe (s : State) (c k p : Nat) (x : Probe) : State :=
  let old := (s.strand c k).probe p
  ((s.pinAll x.pages).unpinAll old.pages).onStrand c k fun t => { t with probes := t.probes.put p x }

/-- Translates and pins the range of a request for strand `k` of core `c` (R377 steps 4 and 5): the exception, or none, and the
state with the probe as the request leaves it. -/
def State.probeRange (s : State) (c k p : Nat) (base : Word) (lenm1 : Nat) (r w : Bool) : Option Exc × State :=
  let t := s.strand c k
  let start : Word := word (base.toNat / 4096 * 4096)
  let (res, s1) := State.walkRange (dieOf c) t.satp (fun f => f.d || !f.w || !w) (probeCheck (t.priv = .u) r w)
    (pageCount base lenm1) start s [] []
  let x : Probe := { base := base, live := res.exc.isNone, w := w, r := r, lenm1 := BitVec.ofNat 32 lenm1, pages := res.pages }
  (res.exc, s1.setProbe c k p x)

/-- PROBE. -/
def execProbe (rd rs1 rs2 : BitVec 5) (s : State) : Host.Outcome State Fault Refusal :=
  xr 0x04 rd rs1 rs2 .p .x .x (fun raw s =>
    let base := rx s rs1
    let v := rx s rs2
    let w := bit v 62
    let r := bit v 61
    if bit v 63 || bits v 60 32 ≠ 0 || (!w && !r) then s.raise (illegalWord raw 2)
    else if !canonicalRange base (bits v 31 0) then s.raise (illegalWord raw 1)
    else
      afterNaming (fun q => q.names .p rd.toNat) (fun _ s =>
        match s.probeRange s.who.1 s.who.2 rd.toNat base (bits v 31 0) r w with
        | (some x, s1) => s1.raise x
        | (none, s1) => s1.done) raw s) s

/-- PSTAT. -/
def execPstat (rd rs1 rs2 : BitVec 5) (s : State) : Host.Outcome State Fault Refusal :=
  xr 0x06 rd rs1 rs2 .x .p .z (fun _ s => scalar rd (s.cur.probe rs1.toNat).ps s) s

/-! ## Tiles (R130 to R139, R379, R380) -/

/-- TALLOC. -/
def execTalloc (rd rs1 rs2 : BitVec 5) (s : State) : Host.Outcome State Fault Refusal :=
  xr 0x07 rd rs1 rs2 .x .x .z (fun raw s =>
    let v := rx s rs1
    if bits v 63 36 ≠ 0 || 4 < bits v 34 32 then s.raise (illegalWord raw 1)
    else
      let (h, s1) := s.talloc s.who.1 v
      scalar rd h s1) s

/-- TFREE. -/
def execTfree (rd rs1 rs2 : BitVec 5) (s : State) : Host.Outcome State Fault Refusal :=
  xr 0x08 rd rs1 rs2 .z .x .z (fun raw s =>
    let c := s.who.1
    let h := rx s rs1
    let n := handleSlot h
    let t := s.tile c n
    if !s.handleOk c h then s.raise (handleStale h)
    else if t.state = .filling || t.state = .draining then s.raise (handleState h t.state)
    else afterNaming (fun q => q.namesHandle h) (fun _ s => (s.setTile c n t.freed).done) raw s) s

/-- TSTATE. -/
def execTstate (rd rs1 rs2 : BitVec 5) (s : State) : Host.Outcome State Fault Refusal :=
  xr 0x09 rd rs1 rs2 .x .x .z (fun _ s =>
    let h := rx s rs1
    if !s.handleOk s.who.1 h then s.raise (handleStale h)
    else scalar rd (word (s.tile s.who.1 (handleSlot h)).state.code) s) s

/-- A spot lies in the tile of slot `n` that core `p` reaches. -/
def State.inTile (s : State) (p n : Nat) (x : Spot) : Bool :=
  let t := s.tile p n
  spotsMeet (t.spot p n 0, 64 * t.lines) (x, 1)

/-- TSETST to FULL releases the strand's older writes to the handle: an engine operation that passes its check on FULL sees them (R139,
R183). -/
def State.releaseTile (s : State) (c k p n : Nat) : State :=
  s.onStrand c k fun t => { t with stores := t.stores.filter fun u => !s.inTile p n u.spot }

/-- TSETST. -/
def execTsetst (rd rs1 rs2 : BitVec 5) (s : State) : Host.Outcome State Fault Refusal :=
  xr 0x0A rd rs1 rs2 .z .x .x (fun raw s =>
    let c := s.who.1
    let h := rx s rs1
    let v := rx s rs2
    let n := handleSlot h
    let t := s.tile c n
    if !s.handleOk c h then s.raise (handleStale h)
    else if v ≠ 0 && v ≠ 2 then s.raise (illegalWord raw 2)
    else if t.state = .filling || t.state = .draining then s.raise (handleState h t.state)
    else
      afterNaming (fun q => q.namesHandle h) (fun _ s =>
        let s1 := s.setTile c n { t with state := if v = 0 then .empty else .full }
        (if v = 0 then s1 else s1.releaseTile s.who.1 s.who.2 c n).done) raw s) s

/-- The shape word of a slot (R379). -/
def Tile.shape (t : Tile) (n : Nat) (current : Bool) : Word :=
  word ((if current then 2 ^ 63 else 0) + t.state.code * 2 ^ 44 + t.gen.toNat * 2 ^ 36 + (if n < 2048 then 0 else 2 ^ 35) +
    t.wc.toNat * 2 ^ 32 + t.colsm1.toNat * 2 ^ 16 + t.rowsm1.toNat)

/-- TGEN. -/
def execTgen (rd rs1 rs2 : BitVec 5) (s : State) : Host.Outcome State Fault Refusal :=
  xr 0x0B rd rs1 rs2 .x .x .z (fun _ s =>
    let c := s.who.1
    let h := rx s rs1
    let n := handleSlot h
    let t := s.tile c n
    scalar rd (if t.allocated && t.job == (s.core c).jobid then t.shape n (s.handleOk c h) else 0) s) s

/-! ## Rows (R149, R155 to R158, R381) -/

/-- The fast-tier row of an address, or none where it lies in no row (R149, R152). -/
def State.rowOf (s : State) : Phys → Option Nat
  | .dev a =>
    match s.place a with
    | some (.fast, o) => some (o / 1024)
    | _ => none
  | .host .. => none

/-- The bank of a row: 8 stacks, 32 channels, 2 pseudo-channels, 16 banks (R149). -/
def bankOf (b : Nat) : Nat := b % 8192

/-- A strand's held rows: those of its eight entries that are HELD. -/
def Strand.held (t : Strand) : List HeldRow := (t.rows.filter fun e => e.2.held).map (·.2)

/-- Every held row, with the job that its strand runs for; a freeze-scan leaves the rows of its region held (R293). -/
def State.allHeld (s : State) : List (BitVec 32 × HeldRow) :=
  (s.strands.flatMap fun e => e.2.held.map fun r => ((s.core (e.1 / 4)).jobid, r)) ++
  s.jobs.flatMap fun e =>
    match e.2 with
    | some j =>
      if j.resume = .frozen then j.savedStrands.flatMap fun x => x.2.held.map fun r => (BitVec.ofNat 32 e.1, r) else []
    | none => []

/-- The distinct rows that strands of job `j` hold (R157). -/
def State.rowsOf (s : State) (j : BitVec 32) : List Nat :=
  ((s.allHeld.filter fun x => x.1 = j).filterMap fun x => s.rowOf (.dev x.2.phys)).eraseDups

/-- Rows that strands of any job hold. -/
def State.rowsAll (s : State) : List Nat := (s.allHeld.filterMap fun x => s.rowOf (.dev x.2.phys)).eraseDups

/-- Row slot `i` of bank `b`. -/
def State.rowSlot (s : State) (b i : Nat) : RowSlot := SMap.get RowSlot.reset s.rowSlots (4 * b + i)

/-- The slot of the row's bank that satisfies `p`, lowest first. -/
def State.findRowSlot (s : State) (b : Nat) (p : RowSlot → Bool) : Option Nat :=
  (List.range 4).find? fun i => p (s.rowSlot b i)

/-- The lowest held-row entry that ROWOPEN may take. -/
def Strand.freeRow (t : Strand) : Option Nat := (List.range 8).find? fun i => !(t.row i).held && !(t.row i).retired

/-- Rows of a strand that count toward its eight: held ones and retired entries (R158). -/
def Strand.rowCount (t : Strand) : Nat := ((List.range 8).filter fun i => (t.row i).held || (t.row i).retired).length

/-- A row handle (R156). -/
def rowHandle (i : Nat) (r : HeldRow) : Word := word (r.epoch.toNat * 256 + 8 + i)

/-- Entry `i` of strand `k` takes a row: HELD, with its epoch raised (R158). -/
def State.takeRow (s : State) (c k i : Nat) (va : Word) (w : Bool) (phys : Nat) : Word × State :=
  let e := ((s.strand c k).row i).epoch + 1
  let r : HeldRow := { held := true, epoch := e, retired := e = BitVec.allOnes 56, vaddr := va, w := w, phys := phys, known := true }
  (rowHandle i r, s.onStrand c k fun t => { t with rows := t.rows.put i r })

/-- ROW_QUOTA of R157. -/
def rowQuota (quota : Nat) (va : Word) : Exc := devFault fRowQuota quota va

/-- ROWOPEN of row `b` at device physical address `phys` (R157). -/
def State.openRow (s : State) (c k : Nat) (va block : Word) (w : Bool) (phys b : Nat) : Except Exc Word × State :=
  let t := s.strand c k
  let j := (s.core c).jobid
  let quota : Nat := match s.jobOf c with
    | some x => x.quota
    | none => 0
  let bank := bankOf b
  let take (s : State) (i : Nat) : Except Exc Word × State := let (h, s1) := s.takeRow c k i block w phys; (.ok h, s1)
  match (List.range 8).find? fun i => (t.row i).held && s.rowOf (.dev (t.row i).phys) = some b with
  | some i => (.ok (rowHandle i (t.row i)), s)
  | none =>
    match t.freeRow with
    | none => (.error (rowQuota quota va), s)
    | some i =>
      if (s.rowsOf j).contains b then take s i
      else if quota ≤ (s.rowsOf j).length then (.error (rowQuota quota va), s)
      else if s.rowsAll.contains b then take s i
      else
        match s.findRowSlot bank fun r => r.block.isNone with
        | none => (.ok 0, s)
        | some n => take { s with rowSlots := s.rowSlots.put (4 * bank + n) { block := some b, breaks := 0 } } i

/-- The channel of row `b` lends its lanes, or is in a handshake (R153, R154). -/
def State.isLending (s : State) (b : Nat) : Bool := bits ((SMap.get 0 s.lend (chanOf b)).setWidth 64) 1 0 % 2 = 1

/-- ROWOPEN: a channel that lends its lanes, or that is in a handshake, is waited for (R153). -/
def execRowopen (rd rs1 rs2 : BitVec 5) (s : State) : Host.Outcome State Fault Refusal :=
  xr 0x0C rd rs1 rs2 .x .x .p (fun raw s =>
    let c := s.who.1
    let k := s.who.2
    let va := rx s rs1
    let block : Word := word (va.toNat / 1024 * 1024)
    let p := s.cur.probe rs2.toNat
    match probeFault p rs2.toNat raw block 1024 true false with
    | some x => s.raise x
    | none =>
      let q := p.phys block
      match s.rowOf q, q with
      | some b, .dev a =>
        if s.isLending b then s
        else
          match s.openRow c k va block p.w a b with
          | (.ok h, s1) => scalar rd h s1
          | (.error x, s1) => s1.raise x
      | _, _ => scalar rd 0 (s.touch q)) s

/-- Entry `i` of strand `k` lets its row go; the slot is freed when no strand holds the row (R158). -/
def State.releaseRow (s : State) (c k i : Nat) : State :=
  let r := (s.strand c k).row i
  let s1 := s.onStrand c k fun t => { t with rows := t.rows.put i { r with held := false } }
  match s.rowOf (.dev r.phys) with
  | none => s1
  | some b =>
    if s1.rowsAll.contains b then s1
    else
      match s1.findRowSlot (bankOf b) fun x => x.block = some b with
      | some n => { s1 with rowSlots := s1.rowSlots.del (4 * bankOf b + n) }
      | none => s1

/-- ROWREL. -/
def execRowrel (rd rs1 rs2 : BitVec 5) (s : State) : Host.Outcome State Fault Refusal :=
  xr 0x0D rd rs1 rs2 .z .x .z (fun raw s =>
    let h := rx s rs1
    if !s.cur.rowOk h then s.done
    else afterNaming (fun q => q.namesHandle h) (fun _ s => (s.releaseRow s.who.1 s.who.2 (rowIndex h)).done) raw s) s

/-- The refresh-break count of a held row (R276). -/
def State.rowBreaks (s : State) (r : HeldRow) : Nat :=
  match s.rowOf (.dev r.phys) with
  | none => 0
  | some b =>
    match s.findRowSlot (bankOf b) fun x => x.block = some b with
    | some n => (s.rowSlot (bankOf b) n).breaks.toNat
    | none => 0

/-- ROWSTAT. -/
def execRowstat (rd rs1 rs2 : BitVec 5) (s : State) : Host.Outcome State Fault Refusal :=
  xr 0x0E rd rs1 rs2 .x .x .z (fun _ s =>
    let h := rx s rs1
    let i := rowIndex h
    scalar rd (if s.cur.rowOk h then
        word (2 ^ 63 + s.rowBreaks (s.cur.row i) * 2 ^ 32 + (s.rowsOf (s.core s.who.1).jobid).length * 2 ^ 16 + 8 + i)
      else 0) s) s

/-! ## Fences (R177 to R182, R322) -/

/-- SCOPE: host scope without a host window, fabric or system scope without a Herez circuit (R178). -/
def State.scopeDenied (s : State) (c code : Nat) : Bool :=
  match s.jobOf c with
  | some j => (code = 6 && !j.hostScope) || (7 ≤ code && j.tagCount = 0)
  | none => 6 ≤ code

/-- A fence word: class K of its scope, SCOPE, then its effect at scope code `k`. -/
def fence (f7 : BitVec 7) (f : Nat → State → State) (rd rs1 rs2 : BitVec 5) (s : State) : Host.Outcome State Fault Refusal :=
  xr f7 rd rs1 rs2 .k .z .z (fun raw s =>
    let k := rd.toNat
    if s.scopeDenied s.who.1 k then s.raise (devFault fScope k (raw.setWidth 64)) else f k s) s

/-- A copy that still has accesses to perform. -/
def Copy.busy (x : Copy) : Bool :=
  match x.state with
  | .free | .done => false
  | _ => !x.beatsDone

/-- Copies of strand `k` of core `c` that still have accesses to perform, below an issue order. -/
def State.copiesBusy (s : State) (c k below : Nat) : Bool :=
  (s.core c).copies.any fun e => e.2.busy && e.2.strand = k && e.2.order < below

/-- What a fence waits for has come about: every older access of its domains has been performed (R180, R182). -/
def State.fenceMet (s : State) (c k : Nat) (f : Fence) : Bool :=
  ((s.strand c k).pending.all fun q =>
      f.pos ≤ q.pos || !(ordinaryWord (opnOf (encode q.word)) || (f.engine && engineWord (opnOf (encode q.word))))) &&
    !(f.engine && s.copiesBusy c k f.order)

/-- Everything that the strand has stored comes before its later engine operations (R184). -/
def State.orderStores (s : State) (c k : Nat) : State := s.onStrand c k fun t => { t with stores := [] }

/-- One fence is met: the scalar data cache of the core is invalidated where the fence asks for it (R180, R182, R185), and after FENCEX the
strand's stores come before its engine operations (R184). -/
def State.endFence (s : State) (c k : Nat) (f : Fence) : State :=
  let s1 := if f.inval then s.dropCache c else s
  if f.engine then s1.orderStores c k else s1

/-- The waiting fences of a strand that are met end. -/
def State.settleFence (s : State) (c k : Nat) : State :=
  match (s.strand c k).fences.filter (s.fenceMet c k) with
  | [] => s
  | met => (met.foldl (fun (u : State) f => u.endFence c k f) s).onStrand c k fun t => { t with fences := t.fences.filter fun f => !met.contains f }

/-- The acting strand goes past a fence, which waits in the strand until it is met (R322). -/
def State.passFence (s : State) (engine inval : Bool) : State :=
  let t := s.cur
  let f : Fence :=
    { pc := t.pc, front := t.front, pos := t.vpos, engine := engine, order := (s.core s.who.1).copyOrder, inval := inval, clean := true }
  ((s.onCur fun t => { t with fences := t.fences ++ [f] }).settleFence s.who.1 s.who.2).done

/-- FENCEO: the strand's older accesses have been performed; region scope and wider invalidate the scalar data cache (R180,
R185). -/
def execFenceo (rd rs1 rs2 : BitVec 5) (s : State) : Host.Outcome State Fault Refusal :=
  fence 0x1D (fun k s => if k = 0 then s.done else s.passFence false (3 ≤ k)) rd rs1 rs2 s

/-- FENCEE: the strand's younger copies start only after its older ones have performed all their accesses (R181). -/
def execFencee (rd rs1 rs2 : BitVec 5) (s : State) : Host.Outcome State Fault Refusal :=
  fence 0x1E (fun k s => if k = 0 then s.done else (s.onCur fun t => { t with fenceE := t.fenceE + 1 }).done) rd rs1 rs2 s

/-- FENCEX: waits for the strand's older accesses of both domains, and invalidates the scalar data cache at any scope (R182). -/
def execFencex (rd rs1 rs2 : BitVec 5) (s : State) : Host.Outcome State Fault Refusal :=
  fence 0x1F (fun k s => if k = 0 then (s.dropCache s.who.1).done else s.passFence true true) rd rs1 rs2 s

/-- As FENCEO at device scope: every older access of the strand has been performed, and the scalar data cache of its core is
invalidated (R85, R180, R185). The fields of the encoding name no other effect. -/
def execFence (_rd _rs1 : BitVec 5) (_imm : BitVec 12) (s : State) : Host.Outcome State Fault Refusal :=
  .next (s.passFence false true)

/-! ## HINTNEXT and WAITVIS (R323, R324) -/

/-- HINTNEXT. -/
def execHintnext (rd rs1 rs2 : BitVec 5) (s : State) : Host.Outcome State Fault Refusal :=
  xr 0x20 rd rs1 rs2 .z .z .z (fun _ s =>
    (match s.jobOf s.who.1 with
      | some j => s.setJob (s.core s.who.1).jobid.toNat { j with hint := true }
      | none => s).done) s

/-- A pending completion word. -/
def pendingWord : Word := BitVec.allOnes 64

/-- The bytes of `n` doublewords from `va` on, where the strand's translations place them. -/
def State.wordSpan (s : State) (c k : Nat) (va : Word) (n : Nat) : List (Spot × Nat) :=
  (List.range n).filterMap fun i =>
    match s.translate c k (va + word (8 * i)) .load with
    | (.ok p, _) => some (.mem p, 8)
    | (.error _, _) => none

/-- A queued store of strand `k` of core `c` reaches some of these bytes: a word that reads them as scalar loads comes after it (R24). -/
def State.storeQueued (s : State) (c k : Nat) (bytes : List (Spot × Nat)) : Bool :=
  (s.strand c k).sq.any fun q => (s.spanOf c k q.pos q.word q.front).any fun a => bytes.any fun b => spotsMeet a b

/-- WAITVIS: its read comes after the strand's older stores to the word (R24). -/
def execWaitvis (rd rs1 rs2 : BitVec 5) (s : State) : Host.Outcome State Fault Refusal :=
  xr 0x21 rd rs1 rs2 .x .x .z (fun _ s =>
    let c := s.who.1
    let k := s.who.2
    let va := rx s rs1
    if va.toNat % 8 ≠ 0 then s.raise (exc 4 va)
    else if s.storeQueued c k (s.wordSpan c k va 1) then s
    else
      match s.translate c k va .load with
      | (.error x, s1) => s1.raise x
      | (.ok p, s1) =>
        let s2 := s1.touch p
        if s2.poisonAt p then (s2.poisonRead c k).raise (devFault fPoison 0 (lineAddr va))
        else
          let v := word (s2.numAt p 8)
          if v = pendingWord then s2.onCur fun t => { t with status := .waiting, wait := some (.completion va) }
          else scalar rd v (s2.dropCache c)) s

/-! ## Events, time, traps (R274, R279, R329, R332) -/

/-- The event counter of a number, as strand `k` of core `c` reads it. -/
def State.eventCount (s : State) (c k : Nat) (n : Word) : Word :=
  if n.toNat < 0x0C then SMap.get 0 (s.strand c k).events n.toNat
  else if 0x10 ≤ n.toNat && n.toNat < 0x16 then SMap.get 0 (s.core c).events n.toNat
  else 0

/-- EVRD. -/
def execEvrd (rd rs1 rs2 : BitVec 5) (s : State) : Host.Outcome State Fault Refusal :=
  xr 0x27 rd rs1 rs2 .x .x .z (fun _ s => scalar rd (s.eventCount s.who.1 s.who.2 (rx s rs1)) s) s

/-- TSNOW. -/
def execTsnow (rd rs1 rs2 : BitVec 5) (s : State) : Host.Outcome State Fault Refusal :=
  xr 0x28 rd rs1 rs2 .x .z .z (fun _ s =>
    scalar rd (word (s.timeFor s.who.1 s.who.2)) (s.noteTime s.who.1 s.who.2)) s

/-- TRAPX. -/
def execTrapx (rd rs1 rs2 : BitVec 5) (s : State) : Host.Outcome State Fault Refusal :=
  xr 0x2B rd rs1 rs2 .z .x .x (fun _ s => s.raise (devFault fSoftware (rx s rs1).toNat (rx s rs2))) s

/-! ## Helper strands (R43, R330) -/

/-- The vslip of a kernel: its .slip directive, or 32 (R43). -/
def slipOf (entry : Word) : BitVec 6 :=
  let n := Config.kernelSlip entry.toNat
  if 1 ≤ n && n ≤ 32 then BitVec.ofNat 6 n else 32

/-- Entry of a strand into a step: ACTIVE in U mode at `pc`, with sp and a0 to a3 given, other registers 0, lengths, flags and
modes at their step-entry values, vector registers and masks undefined, and every full/empty bit set (R43). -/
def Strand.stepEntry (s : State) (t : Strand) (pc sp : Word) (args : List Word) (slip : BitVec 6) : Strand :=
  let regs : SMap Word := [(2, sp), (10, args.getD 0 0), (11, args.getD 1 0), (12, args.getD 2 0), (13, args.getD 3 0)]
  { t with
    x := regs.filter fun e => e.2 ≠ 0, pc := pc, priv := .u, status := .active, wait := none,
    modes := .reset, vl := 0, vstart := 0, vflags := 0, vslip := slip,
    hwm := [], feClear := [], m := (List.range 12).map fun j => (j, freeMask s t j),
    lq := [], aq := [], sq := [], walks := [], resv := none, fault := none, fences := [], stores := [],
    request := none, kept := false, inStep := true }

/-- STRSTART. -/
def execStrstart (rd rs1 rs2 : BitVec 5) (s : State) : Host.Outcome State Fault Refusal :=
  xr 0x29 rd rs1 rs2 .x .x .x (fun raw s =>
    let c := s.who.1
    let v := rx s rs1
    let k := bits v 1 0
    let e := rx s rs2
    if bits v 3 2 ≠ 0 then s.raise (illegalWord raw 1)
    else if k = s.who.2 then s.raise (illegalWord raw 1)
    else if bits e 1 0 ≠ 0 then s.raise (illegalWord raw 2)
    else
      let t := s.strand c k
      if t.status ≠ .idle || t.ctxSaved || t.heldBy.isSome then scalar rd 0 s
      else
        let args := (List.range 4).map fun i => SMap.get 0 (s.core c).args i
        let slip := slipOf (SMap.get 0 (s.core c).args 4)
        scalar rd 1 (s.setStrand c k (t.stepEntry s e (word (v.toNat / 16 * 16)) args slip))) s

/-! ## RLIMSET (R236, R273, R333) -/

/-- Replaces region `r`. -/
def State.setRegion (s : State) (r : Nat) (x : Region) : State := { s with regions := s.regions.put r (some x) }

/-- A window begins at the input ports of some cores under a limiter: both counts start from 0 (R273). -/
def State.startWindows (s : State) (l : Option (Nat × Nat)) (cores : List Nat) : State :=
  cores.foldl (fun s c => s.onCore c fun x => { x with limit := l, window := 0, admitted := [] }) s

/-- The limiter of region `r` as RLIMSET asks: at once at the ports where none is in force, and otherwise at the next window
boundary. -/
def State.setLimit (s : State) (r : Nat) (l : Option (Nat × Nat)) : State :=
  match SMap.get none s.regions r with
  | none => s
  | some x => (s.setRegion r { x with limit := l }).startWindows l (x.cores.filter fun c => (s.core c).limit.isNone)

/-- RLIMSET. -/
def execRlimset (rd rs1 rs2 : BitVec 5) (s : State) : Host.Outcome State Fault Refusal :=
  xr 0x2C rd rs1 rs2 .z .x .z (fun raw s =>
    let v := rx s rs1
    let t := bits v 15 0
    let w := bits v 31 16
    if bits v 63 32 != 0 || (t == 0) != (w == 0) then s.raise (illegalWord raw 1)
    else (s.setLimit ((s.core s.who.1).region.getD 64) (if t = 0 then none else some (t, w))).done) s

end Sys2Proof.Machine
end

