-- ==== Sys2Proof/Machine/Copies.lean ====
section
/-!
DEFINITION. The copy engine: ACOPY, AWAIT, ACANCEL and ASTAT, the copy table and its beats, arrival and completion tokens
(R133 to R138, R181, R237 to R240, R382 to R385, R389, R390, R399), and the watches of VARM (R375).
-/
namespace Sys2Proof.Machine

/-! ## The command (R382) -/

/-- Word `i` of a copy's command. -/
def Copy.w (x : Copy) (i : Nat) : Word := x.cmd.getD i 0

/-- Fields of word 0. -/
def Copy.form (x : Copy) : Nat := bits (x.w 0) 2 0
def Copy.skind (x : Copy) : Nat := bits (x.w 0) 5 3
def Copy.dkind (x : Copy) : Nat := bits (x.w 0) 8 6
def Copy.sprobe (x : Copy) : Nat := bits (x.w 0) 11 9
def Copy.dprobe (x : Copy) : Nat := bits (x.w 0) 14 12
def Copy.rsz (x : Copy) : Nat := bits (x.w 0) 18 15
def Copy.wantsToken (x : Copy) : Bool := bit (x.w 0) 19
def Copy.tq (x : Copy) : Nat := bits (x.w 0) 23 20

/-- The index handle and the count, in word 5. -/
def Copy.idx (x : Copy) : Word := word (bits (x.w 5) 59 40)
def Copy.n (x : Copy) : Nat := bits (x.w 5) 39 0

/-- Bytes of a record, and of the whole copy. -/
def Copy.record (x : Copy) : Nat := 2 ^ x.rsz
def Copy.total (x : Copy) : Nat := if x.form = 0 then x.n else x.n * x.record

/-- The copy writes into a tile. -/
def Copy.intoTile (x : Copy) : Bool := x.kind = .acopy && x.dkind = 1

/-- One end of a copy: DRAM through a probe as it stood at issue, a tile, or a row resolved to its bytes. -/
structure End where
  kind : Nat
  addr : Word
  off : Nat
  probe : Probe
  rowPhys : Nat
  rowVa : Word
  deriving DecidableEq, Repr

/-- A probe from PB, PS and its pages. -/
def probeOf (pb ps : Word) (pages : List PPage) : Probe :=
  { base := pb, live := bit ps 63, w := bit ps 62, r := bit ps 61, lenm1 := ps.extractLsb' 0 32, pages := pages }

/-- The source and the destination. -/
def Copy.src (x : Copy) : End :=
  { kind := x.skind, addr := x.w 1, off := (x.w 2).toNat, probe := probeOf (x.w 6) (x.w 7) x.srcPages,
    rowPhys := (x.w 10).toNat, rowVa := x.w 11 }
def Copy.dst (x : Copy) : End :=
  { kind := x.dkind, addr := x.w 3, off := (x.w 4).toNat, probe := probeOf (x.w 8) (x.w 9) x.dstPages,
    rowPhys := (x.w 12).toNat, rowVa := x.w 13 }

/-- The virtual address of byte `b` of an end; of a tile, which has none, nothing. -/
def End.va (e : End) (b : Nat) : Option Word :=
  match e.kind with
  | 0 => some (e.addr + word b)
  | 2 => some (e.rowVa + word b)
  | _ => none

/-- The address of byte `b` of a DRAM or row end. -/
def End.phys (e : End) (b : Nat) : Phys := if e.kind = 2 then .dev (e.rowPhys + b) else e.probe.phys (e.addr + word b)

/-- The line of byte `b` of an end, for counting lines. -/
def End.lineKey (e : End) (b : Nat) : Nat :=
  match e.kind with
  | 0 => (e.addr + word b).toNat / 64
  | 2 => (e.rowPhys + b) / 64
  | _ => b / 64

/-- Where a device byte lies among bytes `b` to `b + len − 1` of a DRAM or row end: its place in the end. -/
def End.within (e : End) (b len : Nat) (p : Phys) : Option Nat :=
  let hit (va : Word) : Option Nat := let d := (va - e.addr - word b).toNat; if d < len then some (b + d) else none
  match e.kind, p with
  | 0, _ =>
    (List.range e.probe.pages.length).findSome? fun i =>
      let page := (e.probe.base.toNat / 4096 + i) * 4096
      match e.probe.pages.getD i (.dev 0), p with
      | .dev g, .dev a => if a / 4096 = g then hit (word (page + a % 4096)) else none
      | .host w g, .host w' g' o => if w = w' && g = g' then hit (word (page + o)) else none
      | _, _ => none
  | 2, .dev a => if e.rowPhys + b ≤ a && a < e.rowPhys + b + len then some (a - e.rowPhys) else none
  | _, _ => none

/-- The copy was issued in U mode, which may not write a step record (R44). -/
def Copy.user (x : Copy) : Bool := x.w 14 = 1

/-! ## Ends of a copy (R136, R239) -/

/-- The payload of R239. -/
def Copy.payload (x : Copy) (n : Nat) : Word :=
  word (x.moved % 2 ^ 32 * 2 ^ 32 + min x.poisoned 0xFFFF * 2 ^ 16 + x.status.toNat * 2 ^ 8 + n)

/-- The copies out that an entry counts on its source and index tiles end (R136). -/
def State.letGo (s : State) (c : Nat) (x : Copy) : State :=
  let handles : List Word := match x.kind with
    | .acopy => (if x.srcHeld then [x.w 1] else []) ++ (if x.idxHeld then [x.idx] else [])
    | .mldw _ => [x.w 0] ++ (if x.w 1 = 0 then [] else [x.w 1])
    | .vcbld _ => [x.w 0]
  handles.foldl (fun s h => s.undrain c h) s

/-- Moves a handle that a copy fills to `st`. -/
def State.settleFill (s : State) (c : Nat) (h : Word) (st : HState) : State :=
  let n := handleSlot h
  let t := s.tile c n
  if s.handleOk c h && t.state = .filling then s.setTile c n { t with state := st } else s

/-- A copy whose beats are over enters DONE, with the push of its completion token where it asks for one; while that token's
queue is full the entry stays ACTIVE. A token that falls due on a latched or claimed queue is not stored, and the status is then
ERROR with address 0 (R239). -/
def State.endCopy (s : State) (c n : Nat) (x : Copy) : State :=
  let done (x : Copy) : Copy := { x with state := .done, beatsDone := true, arrived := true }
  if !x.wantsToken then s.setCopy c n (done x)
  else
    let q := s.queue c x.tq
    let r : QRef := { field := 48 + x.tq, core := c, q := x.tq, entry := 0 }
    if q.doneLatch || q.owner.isSome then s.setCopy c n { done x with status := 2, addr := 0 }
    else if s.roomIn r = 0 then s.setCopy c n { x with state := .active, beatsDone := true, arrived := true }
    else (s.setQueue c x.tq (q.push (.tok { kind := kVal, data := x.payload n }))).setCopy c n (done x)

/-- A load of a w buffer or codebook table ends with a status (R143, R390, R399); its entry is FREE at once (R237). -/
def State.endLoad (s : State) (c n : Nat) (x : Copy) (status : BitVec 2) (addr : Word) : State :=
  let s1 := s.setCopy c n { Copy.reset with order := x.order }
  match x.kind with
  | .mldw b =>
    s1.setWbuf c b { s1.wbuf c b with state := if status = 0 then .full else .empty, load := status, addr := addr }
  | .vcbld b =>
    let t := s1.cb c b
    s1.setCb c b { t with filling := false, loaded := status = 0, load := status, addr := addr }
  | .acopy => s1

/-- A copy that is not over ends with status 1 CANCELLED or 2 ERROR: its handles are let go, and a handle that it fills is
EMPTY again (R133, R136, R239). -/
def State.failCopy (s : State) (c n : Nat) (status : BitVec 2) (addr : Word) : State :=
  let x := s.copy c n
  let s1 := if x.beatsDone then s else s.letGo c x
  match x.kind with
  | .acopy =>
    let s2 := if x.dkind = 1 && !x.arrived then s1.settleFill c (x.w 3) .empty else s1
    s2.endCopy c n { x with status := status, addr := addr }
  | _ => s1.endLoad c n x status addr

/-! ## ACOPY (R383) -/

/-- Reads the 48 bytes of a command as scalar loads. -/
def State.readWords (c k : Nat) : Nat → Word → State → List Word → Except Exc (List Word) × State
  | 0, _, s, acc => (.ok acc.reverse, s)
  | n + 1, va, s, acc =>
    match s.load c k va 8 true with
    | (.ok v, s1) => State.readWords c k n (va + 8) s1 (word v :: acc)
    | (.error x, s1) => (.error x, s1)

/-- Step 3 of R383: a refused or nonzero field. -/
def State.badCommand (s : State) (c : Nat) (x : Copy) : Bool :=
  let narrow : Bool := x.form ≠ 0 && s.handleOk c x.idx && (s.tile c (handleSlot x.idx)).wc = 0
  bits (x.w 0) 63 24 ≠ 0 || 2 < x.form || 2 < x.skind || 2 < x.dkind || 8 < x.rsz || (x.form = 0 && x.rsz ≠ 0) ||
    bits (x.w 5) 63 60 ≠ 0 || (x.form = 0 && x.idx ≠ 0) || narrow || (x.wantsToken && (s.queue c x.tq).owner.isSome)

/-- The row-handle checks of step 5, in order: each handle is current, the destination's probe permitted writing, and the ranges of a
linear copy lie inside the rows. -/
def rowEndFaults (t : Strand) (raw : BitVec 32) (x : Copy) : List (Option Exc) :=
  let lost (kind : Nat) (h off : Word) : Option Exc := if kind = 2 && !t.rowOk h then some (t.rowLost h off) else none
  let past (kind : Nat) (off : Word) : Option Exc :=
    if kind = 2 && x.form = 0 && 1024 < off.toNat + x.n then some (illegalWord raw 1) else none
  let r := t.row (rowIndex (x.w 3))
  [lost x.skind (x.w 1) (x.w 2), lost x.dkind (x.w 3) (x.w 4),
    if x.dkind = 2 && !r.w then some (devFault fProtection 1 (r.vaddr + x.w 4)) else none,
    past x.skind (x.w 2), past x.dkind (x.w 4)]

/-- PROBE_OK of step 6 for one end of a linear copy. -/
def probeEndFault (t : Strand) (raw : BitVec 32) (x : Copy) (kind p : Nat) (addr : Word) (write : Bool) : Option Exc :=
  if kind ≠ 0 || x.form ≠ 0 then none else probeFault (t.probe p) p raw addr x.n (!write) write

/-- The state check of a copy out of a handle: HANDLE_STATE, or none when it is legal or waits. -/
def State.outFault (s : State) (c : Nat) (h : Word) : Option Exc :=
  let t := s.tile c (handleSlot h)
  if gateCopyOut t.state = .fault then some (handleState h t.state) else none

/-- The bytes from `b` on that a copy in U mode may not write, since a step record holds them (R44): the address to report. -/
def State.recordIn (s : State) (x : Copy) (b len : Nat) : Option Word :=
  if !x.user || x.dkind = 1 then none
  else
    (s.cores.filterMap fun e => e.2.record).findSome? fun r =>
      ((List.range 64).find? fun i => (x.dst.within b len (r.plus i)).isSome).bind fun i =>
        (x.dst.within b len (r.plus i)).bind x.dst.va

/-- Steps 3 to 7 of R383, in order; a linear copy of U mode into a step record fails at issue (R44, log 54). -/
def State.commandFault (s : State) (c k : Nat) (raw : BitVec 32) (x : Copy) : Option Exc :=
  let t := s.strand c k
  let stale (use : Bool) (h : Word) : Option Exc := if use && !s.handleOk c h then some (handleStale h) else none
  let dt := s.tile c (handleSlot (x.w 3))
  if s.badCommand c x then some (illegalWord raw 1)
  else
    firstExc [stale (x.skind = 1) (x.w 1), stale (x.dkind = 1) (x.w 3), stale (x.form ≠ 0) x.idx,
      firstExc (rowEndFaults t raw x),
      probeEndFault t raw x x.skind x.sprobe (x.w 1 + x.w 2) false,
      probeEndFault t raw x x.dkind x.dprobe (x.w 3 + x.w 4) true,
      if x.form = 0 then (s.recordIn x x.dst.off x.n).map (devFault fProtection 1) else none,
      if x.dkind = 1 && gateCopyIn dt.state = .fault then some (handleState (x.w 3) dt.state) else none,
      if x.skind = 1 then s.outFault c (x.w 1) else none,
      if x.form ≠ 0 then s.outFault c x.idx else none]

/-- Takes a copy out of a handle into its drain count where that is legal now (R134, R258): whether it is taken. -/
def State.tryDrain (s : State) (c : Nat) (use : Bool) (h : Word) : Bool × State :=
  let t := s.tile c (handleSlot h)
  if use && s.handleOk c h && copyOut t t.state = .legal then (true, s.drain c h) else (false, s)

/-- What a command keeps beside its six words: its probes and its resolved rows. -/
def commandTail (t : Strand) (x : Copy) : List Word :=
  let sp := t.probe x.sprobe
  let dp := t.probe x.dprobe
  let sr := t.row (rowIndex (x.w 1))
  let dr := t.row (rowIndex (x.w 3))
  [sp.base, sp.ps, dp.base, dp.ps, word sr.phys, sr.vaddr, word dr.phys, dr.vaddr, if t.priv = .u then 1 else 0]

/-- The copy that strand `k` of core `c` issues, before it has an entry, from a command with all that it keeps beside its words. -/
def State.commandOf (s : State) (c k : Nat) (cmd : List Word) : Copy :=
  let t := s.strand c k
  let x : Copy := { Copy.reset with state := .waiting, cmd := cmd }
  { x with strand := k, after := t.fenceE, srcPages := (t.probe x.sprobe).pages, dstPages := (t.probe x.dprobe).pages }

/-- The copy that the six words of a command ask for. -/
def State.command (s : State) (c k : Nat) (ws : List Word) : Copy :=
  s.commandOf c k (ws ++ commandTail (s.strand c k) { Copy.reset with cmd := ws })

/-- Step 8 of R383 and what follows it: a command takes the lowest FREE entry, or the strand waits for one with what it has read. -/
def State.issueCopy (s : State) (c k : Nat) (rd : BitVec 5) (x : Copy) : State :=
  match s.freeCopy c with
  | none => s.onStrand c k fun t => { t with request := some { pc := t.pc, words := x.cmd, place := .dev 0 } }
  | some n =>
    let o := (s.core c).copyOrder
    let x1 := { x with order := o }
    let h := handleSlot (x.w 3)
    let fill (s : State) (st : HState) : State :=
      if x.dkind = 1 && (s.tile c h).state = .empty then s.setTile c h { s.tile c h with state := st } else s
    let s2 := s.onCore c fun r => { r with copyOrder := o + 1 }
    let s3 :=
      if x.n = 0 then (fill s2 .full).endCopy c n x1
      else
        let (a, sA) := (fill s2 .filling).tryDrain c (x.skind = 1) (x.w 1)
        let (b, sB) := sA.tryDrain c (x.form ≠ 0) x.idx
        sB.setCopy c n { x1 with srcHeld := a, idxHeld := b }
    scalar rd (word n) s3

/-- What a command that has waited for an entry finds of its handles: another strand may have freed or moved them meanwhile, and a copy
takes a handle only where it stands as step 4 and step 7 ask (R136, log 125). -/
def State.retryFault (s : State) (c : Nat) (x : Copy) : Option Exc :=
  let dt := s.tile c (handleSlot (x.w 3))
  let stale (use : Bool) (h : Word) : Option Exc := if use && !s.handleOk c h then some (handleStale h) else none
  firstExc [stale (x.skind = 1) (x.w 1), stale (x.dkind = 1) (x.w 3), stale (x.form ≠ 0) x.idx,
    if x.dkind = 1 && gateCopyIn dt.state = .fault then some (handleState (x.w 3) dt.state) else none,
    if x.skind = 1 then s.outFault c (x.w 1) else none,
    if x.form ≠ 0 then s.outFault c x.idx else none]

/-- ACOPY: its reads come after the strand's older stores to the command (R24). -/
def execAcopy (rd rs1 rs2 : BitVec 5) (s : State) : Host.Outcome State Fault Refusal :=
  xr 0x0F rd rs1 rs2 .x .x .z (fun raw s =>
    let c := s.who.1
    let k := s.who.2
    let va := rx s rs1
    match s.cur.request.filter (fun r => r.pc = s.cur.pc) with
    | some r =>
      let x := s.commandOf c k r.words
      match s.retryFault c x with
      | some e => s.raise e
      | none => (s.onStrand c k fun t => { t with request := none }).issueCopy c k rd x
    | none =>
      if va.toNat % 8 ≠ 0 then s.raise (exc 4 va)
      else if s.storeQueued c k (s.wordSpan c k va 6) then s
      else
        match State.readWords c k 6 va s [] with
        | (.error x, s1) => s1.raise x
        | (.ok ws, s1) =>
          let x := s1.command c k ws
          match s1.commandFault c k raw x with
          | some e => s1.raise e
          | none => s1.issueCopy c k rd x) s

/-! ## COPY_ACTIVATE (R135, R181, R237, R238) -/

/-- A copy that a FENCEE orders before this one, in the table or still queued, has accesses to perform (R181). -/
def State.fenced (s : State) (c : Nat) (x : Copy) : Bool :=
  ((s.core c).copies.any fun e => e.2.busy && e.2.strand = x.strand && e.2.after < x.after) ||
    (s.strand c x.strand).pending.any fun q => engineWord (opnOf (encode q.word)) && q.front.fenceE < x.after

/-- Handles of a copy that a tile access needs resident and current. -/
def Copy.handles (x : Copy) : List Word :=
  match x.kind with
  | .acopy => (if x.skind = 1 then [x.w 1] else []) ++ (if x.dkind = 1 then [x.w 3] else []) ++ (if x.form = 0 then [] else [x.idx])
  | .mldw _ => [x.w 0] ++ (if x.w 1 = 0 then [] else [x.w 1])
  | .vcbld _ => [x.w 0]

/-- Every handle of a copy is current, or the copy fails (R133). -/
def State.copyStale (s : State) (c : Nat) (x : Copy) : Bool := x.handles.any fun h => !s.handleOk c h

/-- A tile of the copy is not resident, so its beats wait (R140). -/
def State.copyAway (s : State) (c : Nat) (x : Copy) : Bool := x.handles.any fun h => (s.tile c (handleSlot h)).res ≠ 0

/-- The address of the beat at which a copy stands, where an end has one; else a free value, since a tile has no address. -/
def State.beatAddr (s : State) (x : Copy) : Word :=
  match x.kind with
  | .acopy =>
    match x.src.va (x.src.off + x.offset), x.dst.va (x.dst.off + x.offset) with
    | some a, _ => a
    | none, some a => a
    | none, none => s.free 131001
  | _ => s.free 131001

/-- A WAITING entry whose state check passes now, one way or the other. -/
def State.copyReady (s : State) (c : Nat) (x : Copy) : Bool :=
  let out (use held : Bool) (h : Word) : Bool :=
    !use || held || copyOut (s.tile c (handleSlot h)) (s.tile c (handleSlot h)).state ≠ .waits
  x.state = .waiting && !s.fenced c x && (s.copyStale c x || (!s.copyAway c x &&
    (x.kind ≠ .acopy || (out (x.skind = 1) x.srcHeld (x.w 1) && out (x.form ≠ 0) x.idxHeld x.idx))))

/-- An older entry could start now, so this one does not start before it (R238). -/
def State.copyBehind (s : State) (c : Nat) (x : Copy) : Bool :=
  (s.core c).copies.any fun e => e.2.order < x.order && s.copyReady c e.2

/-- COPY_ACTIVATE: a WAITING entry whose state check passes starts, in issue order. A source that has left FILLING for EMPTY fails the
copy. -/
def execCopyActivate (core entry : Nat) (s : State) : Host.Outcome State Fault Refusal :=
  let x := s.copy core entry
  .next (if x.state ≠ .waiting || s.fenced core x || s.copyBehind core x then s
    else if s.copyStale core x then s.failCopy core entry 2 (s.beatAddr x)
    else if s.copyAway core x then s
    else
      match x.kind with
      | .acopy =>
        let out := (if x.skind = 1 && !x.srcHeld then [x.w 1] else []) ++ (if x.form ≠ 0 && !x.idxHeld then [x.idx] else [])
        if out.any fun h => (s.outFault core h).isSome then s.failCopy core entry 2 (s.beatAddr x)
        else
          let (a, s1) := s.tryDrain core (x.skind = 1 && !x.srcHeld) (x.w 1)
          let (b, s2) := s1.tryDrain core (x.form ≠ 0 && !x.idxHeld) x.idx
          let src := x.srcHeld || a
          let idx := x.idxHeld || b
          let ready : Bool := (x.skind ≠ 1 || src) && (x.form = 0 || idx)
          s2.setCopy core entry { x with state := if ready then .active else .waiting, srcHeld := src, idxHeld := idx }
      | _ => s.setCopy core entry { x with state := .active })

/-! ## COPY_BEAT (R141, R167 to R170, R384) -/

/-- A byte of a beat: its value, and whether it came from a poisoned line. -/
abbrev Moved := Nat × Bool

/-- Byte `b` of a tile lies inside the shape, wholly or in part. -/
def Tile.hasByte (t : Tile) (b : Nat) : Bool := 8 * b < t.size * t.w

/-- Only the low nibble of byte `b` lies inside the shape (R141). -/
def Tile.halfByte (t : Tile) (b : Nat) : Bool := t.hasByte b && t.size * t.w < 8 * b + 8

/-- Byte `b` of a tile, where it lies. -/
def Tile.byteLine (t : Tile) (b : Nat) : Nat := t.base + b / 64

/-- Where byte `b` of an end lies. -/
def State.endSpot (s : State) (c : Nat) (e : End) (b : Nat) : Spot :=
  if e.kind = 1 then (s.tile c (handleSlot e.addr)).spot c (handleSlot e.addr) b else .mem (e.phys b)

/-- Reads byte `b` of an end for a copy of strand `k`; what lies outside a tile reads as zero. -/
def State.readEnd (s : State) (c k : Nat) (e : End) (b : Nat) : Moved :=
  let t := s.tile c (handleSlot e.addr)
  if e.kind = 1 then
    if !t.hasByte b then (0, false)
    else if s.linePoison c (handleSlot e.addr) (t.byteLine b) then (0, true)
    else ((s.engineByte c k (s.endSpot c e b)).toNat % (if t.halfByte b then 16 else 256), false)
  else if s.poisonAt (e.phys b) then (0, true)
  else ((s.engineByte c k (s.endSpot c e b)).toNat, false)

/-- The offsets of the elements of a tile end that `len` bytes from `b` on touch outside the shape, each once. -/
def outside (t : Tile) (b len : Nat) : List Nat :=
  (((List.range len).flatMap fun i => if t.w = 4 then [2 * (b + i), 2 * (b + i) + 1] else [8 * (b + i) / t.w]).filter
    fun j => t.size ≤ j).eraseDups

/-- OOR of a tile end, in the strand that issued the copy (R141). -/
def State.markOutside (s : State) (c k : Nat) (e : End) (b len : Nat) (write : Bool) : State :=
  if e.kind ≠ 1 then s
  else
    let t := s.tile c (handleSlot e.addr)
    (outside t b len).foldl (fun (s : State) (off : Nat) => s.onStrand c k fun st => st.oor e.addr write off) s

/-- The channel of a tier address: of 256 in the fast tier, then of 16 in the capacity tier (R149). -/
def channelOf (t : Tier) (o : Nat) : Nat :=
  match t with
  | .fast => chanOf (o / 1024)
  | .capacity => 256 + o / 256 % 16

/-- The unit of a tile bank: 31 banks of each core's L0, 127 of each die's L1 (R126). -/
def bankUnit (l : Level) (unit bank : Nat) : Nat :=
  match l with
  | .l0 => 256 * unit + bank % 31
  | .l1 => 65536 + 256 * unit + bank % 127

/-- Writes a line of the tile of slot `n`, poisoned or not; a line that becomes poisoned is counted (R277). -/
def State.putLine (s : State) (c n l : Nat) (v : BitVec 512) (bad : Bool) : State :=
  let u := (s.setLine c n l v).setLinePoison c n l bad
  if bad && !s.linePoison c n l then
    u.countErr errTilePoisoned (if n < 2048 then bankUnit .l0 c l else bankUnit .l1 (dieOf c) l)
  else u

/-- Writes bytes from byte `b` of a tile, line by line: a write to part of a poisoned line is dropped (R169), and a line that is
filled from a poisoned source line is written as poisoned (R170). -/
def State.writeTileBytes (s : State) (c : Nat) (h : Word) (b : Nat) (ms : List Moved) : State :=
  let n := handleSlot h
  let t := s.tile c n
  let at_ : List (Nat × Moved) := (List.range ms.length).zip ms |>.map fun x => (b + x.1, x.2)
  let inside := at_.filter fun x => t.hasByte x.1
  ((inside.map fun x => t.byteLine x.1).eraseDups).foldl (fun (s : State) l =>
    let mine := inside.filter fun x => t.byteLine x.1 = l
    let bad : Bool := mine.any fun x => x.2.2
    if s.linePoison c n l && (mine.length < 64 || mine.any fun x => t.halfByte x.1) then s.countErr errPartialDrop (dieOf c)
    else
      let v := mine.foldl (fun v x => setLineBits v (8 * (x.1 % 64)) (if t.halfByte x.1 then 4 else 8) x.2.1) (s.line c n l)
      s.putLine c n l v bad) s

/-- Poisons the line of an address, and counts it where it was not poisoned (R168, R277). -/
def State.poisonLine (s : State) : Phys → State
  | .dev a =>
    match s.place a with
    | some (t, o) => if s.tierPoison t o then s else (s.setTierPoison t o true).countErr errDramPoisoned (channelOf t o)
    | none => s
  | .host .. => s

/-- Writes bytes from byte `b` of a DRAM or row end as one transaction, and poisons the lines filled from poisoned ones. -/
def State.writeDramBytes (s : State) (d : Nat) (e : End) (b : Nat) (ms : List Moved) : State :=
  let at_ : List (Phys × Moved) := (List.range ms.length).zip ms |>.map fun x => (e.phys (b + x.1), x.2)
  let s1 := at_.foldl (fun (u : State) x => u.touch x.1) s
  let s2 := s1.store (.other d) (at_.map fun x => (x.1, BitVec.ofNat 8 x.2.1))
  ((at_.filter fun x => x.2.2).map fun x => x.1.line).eraseDups.foldl (fun (u : State) l => u.poisonLine l) s2

/-- The record of an ACOPY that its next beat lies in, and the byte inside it. -/
def Copy.at_ (x : Copy) : Nat × Nat := if x.form = 0 then (0, x.offset) else (x.offset / x.record, x.offset % x.record)

/-- Element `j` of the index tile; outside the tile it is 0 (R141, R384). The read orders the strand's stores to it (R176). -/
def State.indexOf (s : State) (c k : Nat) (x : Copy) (j : Nat) : Nat × State :=
  if x.form = 0 then (0, s)
  else
    let n := handleSlot x.idx
    let t := s.tile c n
    if t.size ≤ j then (0, s.onStrand c k fun st => st.oor x.idx false j)
    else if s.tilePoison c n t j then (0, s.poisonRead c k)
    else (s.engineBits c k n t j, s.settleSpot c k false (t.spot c n (j * t.w / 8)))

/-- The index of the record that the next beat lies in: the record's first beat reads it, and it is kept for the others. -/
def State.indexNow (s : State) (c : Nat) (x : Copy) : Nat × State :=
  match x.index with
  | some i => (i, s)
  | none => s.indexOf c x.strand x x.at_.1

/-- The range check of a record at a DRAM or row end (R384): the address to report when it fails. -/
def End.recordFault (e : End) (b len : Nat) (write : Bool) : Option Word :=
  match e.kind with
  | 0 => (probeFault e.probe 0 0 (e.addr + word b) len (!write) write).map fun _ => e.addr + word b
  | 2 => if 1024 < b + len then some (e.rowVa + word b) else none
  | _ => none

/-- Bytes up to the next 4 KiB page of a DRAM end. -/
def End.pageLeft (e : End) (b : Nat) : Nat := if e.kind = 0 then 4096 - (e.addr + word b).toNat % 4096 else 4096

/-- Bytes up to the next aligned 256 bytes of a destination. -/
def End.beatLeft (e : End) (b : Nat) : Nat :=
  256 - (match e.kind with
    | 0 => (e.addr + word b).toNat
    | 2 => e.rowPhys + b
    | _ => b) % 256

/-- Counts bytes moved: the entry's, and event 0x13. -/
def State.movedBytes (s : State) (c len : Nat) : State :=
  s.onCore c fun r => { r with events := SMap.set 0 r.events 0x13 (SMap.get 0 r.events 0x13 + word len) }

/-- A byte that a copy writes lies among the bytes that it reads, so its value is undefined (R384). -/
def State.overlaps (s : State) (c : Nat) (x : Copy) (p : Phys) : Bool :=
  if x.skind = 1 then false
  else if x.form = 0 then (x.src.within x.src.off x.n p).isSome
  else (List.range x.n).any fun j =>
    let i := if x.form = 1 then (s.indexOf c x.strand x j).1 else j
    (x.src.within (x.src.off + i * x.record) x.record p).isSome

/-- The last beat of a copy has been moved: its sources are let go, and it goes on to its arrival token or ends. -/
def State.afterLast (s : State) (c n : Nat) (x : Copy) : State :=
  let s1 := s.letGo c x
  let x1 := { x with beatsDone := true }
  if x.kind = .acopy && !x.intoTile then s1.endCopy c n x1 else s1.setCopy c n x1

/-- The next beat of an ACOPY: the records that it lies in, and the first byte and the length that it moves, from the start of each end. -/
structure Beat where
  srec : Nat
  drec : Nat
  sb : Nat
  db : Nat
  len : Nat
  deriving DecidableEq, Repr

/-- The next beat of an ACOPY whose record takes index `i`: a beat ends with its record, with a page and with the lines of a beat. -/
def Copy.beat (x : Copy) (i : Nat) : Beat :=
  let (j, r) := x.at_
  let sRec := x.src.off + (if x.form = 1 then i else j) * x.record
  let dRec := x.dst.off + (if x.form = 2 then i else j) * x.record
  let sb := (if x.form = 0 then x.src.off else sRec) + r
  let db := (if x.form = 0 then x.dst.off else dRec) + r
  let left := if x.form = 0 then x.n - r else x.record - r
  { srec := sRec, drec := dRec, sb := sb, db := db,
    len := min (min left (x.dst.beatLeft db)) (min (x.src.pageLeft sb) (x.dst.pageLeft db)) }

/-- The next beat of a copy of core `c`. -/
def State.beatOf (s : State) (c : Nat) (x : Copy) : Beat × State :=
  let (i, s1) := s.indexNow c x
  (x.beat i, s1)

/-- The index that an ACOPY keeps after a beat of `len` bytes: that of its record, until the record is over. -/
def State.indexAfter (s : State) (c : Nat) (x : Copy) (len : Nat) : Option Nat :=
  if x.form = 0 || (x.offset + len) % x.record = 0 then none else some (s.indexNow c x).1

/-- The value of a byte that a copy reads and writes over (R384): the byte read, zero, or a byte that the job wrote (R10, log 9). -/
def State.overlapByte (s : State) (c k j v : Nat) : Nat :=
  if (s.free (140000 + j)).getLsbD 0 then v
  else byteOf ((s.strand c k).undefined (s.free (150000 + j))).toNat (bits (s.free (140000 + j)) 3 1) |>.toNat

/-- The address at which a beat fails: a record that leaves its end, or a step record (R44, R240). -/
def State.beatFault (s : State) (x : Copy) (b : Beat) : Option Word :=
  if x.form = 0 then s.recordIn x b.db b.len
  else
    match x.src.recordFault b.srec x.record false with
    | some a => some a
    | none =>
      match x.dst.recordFault b.drec x.record true with
      | some a => some a
      | none => (s.recordIn x b.drec x.record).bind fun _ => x.dst.va b.drec

/-- A containment reset cuts the packet of a beat to DRAM that the core's egress has partly injected: the lines that it carried whole are
written, and the lines that the padding reaches become poisoned (R168, R291). How far the packet had got is a free choice (log 112). -/
def State.cutBeat (s : State) (c n : Nat) (x : Copy) : State :=
  let (b, s1) := s.beatOf c x
  if x.state ≠ .active || x.beatsDone || x.kind ≠ .acopy || x.dst.kind = 1 || (s.beatFault x b).isSome then s
  else
    let line (i : Nat) : Phys := (x.dst.phys (b.db + i)).line
    let ls := ((List.range b.len).map line).eraseDups
    let cut := Config.choice (16 * s.tick + n) % (ls.length + 2)
    if cut = 0 then s
    else
      let whole := ls.take (cut - 1)
      let ms := ((List.range b.len).filter fun i => whole.contains (line i)).map fun i => s1.readEnd c x.strand x.src (b.sb + i)
      (ls.drop (cut - 1)).foldl State.poisonLine (s.writeDramBytes (dieOf c) x.dst b.db ms)

/-- One beat of an ACOPY. -/
def State.acopyBeat (s : State) (c n : Nat) (x : Copy) : State :=
  let k := x.strand
  let (beat, s1) := s.beatOf c x
  let sb := beat.sb
  let db := beat.db
  let len := beat.len
  match s.beatFault x beat with
  | some a => s1.failCopy c n 2 a
  | none =>
    let ms := (List.range len).map fun b => s1.readEnd c k x.src (sb + b)
    let at_ := (List.range len).zip ms
    let poisoned := (at_.filter fun y => y.2.2).map fun y => y.1
    let s2 := at_.foldl (fun (u : State) y =>
      if x.src.kind = 1 then u.settleSpot c k false (s.endSpot c x.src (sb + y.1))
      else (u.touch (x.src.phys (sb + y.1))).settleSpot c k false (s.endSpot c x.src (sb + y.1))) s1
    let s3 := ((poisoned.map fun b => x.src.lineKey (sb + b)).eraseDups).foldl (fun (u : State) _ => u.poisonRead c k)
      ((s2.markOutside c k x.src sb len false).markOutside c k x.dst db len true)
    let given : List Moved := at_.map fun y =>
      let v := if x.dkind ≠ 1 && s1.overlaps c x (x.dst.phys (db + y.1)) then s.overlapByte c k y.1 y.2.1 else y.2.1
      ((s3.overwritten c k (s.endSpot c x.dst (db + y.1)) (BitVec.ofNat 8 v)).toNat, y.2.2)
    let s4 := if x.dst.kind = 1 then s3.writeTileBytes c x.dst.addr db given else s3.writeDramBytes (dieOf c) x.dst db given
    let s5 := at_.foldl (fun (u : State) y => u.settleSpot c k true (s.endSpot c x.dst (db + y.1))) s4
    let filled := if x.dst.kind = 1 then poisoned.filter fun b => (s.tile c (handleSlot x.dst.addr)).hasByte (db + b) else poisoned
    let fresh := (filled.map fun b => x.dst.lineKey (db + b)).eraseDups.filter fun l => !SMap.get false x.lines l
    let x1 := { x with offset := x.offset + len, moved := x.moved + len, poisoned := x.poisoned + fresh.length,
                       lines := fresh.foldl (fun m l => m.put l true) x.lines, index := s.indexAfter c x len }
    let s6 := (s5.movedBytes c len).setCopy c n x1
    if x.total ≤ x1.offset then s6.afterLast c n x1 else s6

/-- An element of a tile at a row and a column, for a load: zero outside the shape, with OOR; zero with PSN from a poisoned line, which
the second result tells. -/
def State.loadElem (s : State) (c k : Nat) (h : Word) (row col : Nat) : Nat × Bool × State :=
  let n := handleSlot h
  let t := s.tile c n
  let off := row * t.cols + col
  if t.rows ≤ row || t.cols ≤ col then (0, false, s.onStrand c k fun st => st.oor h false off)
  else if s.tilePoison c n t off then (0, true, s.poisonRead c k)
  else (s.engineBits c k n t off, false, s.settleSpot c k false (t.spot c n (off * t.w / 8)))

/-- A run of elements. -/
def State.loadElems (c k : Nat) (h : Word) (at_ : Nat → Nat × Nat) : Nat → Nat → State → List Nat → Bool → List Nat × Bool × State
  | 0, _, s, acc, bad => (acc.reverse, bad, s)
  | m + 1, i, s, acc, bad =>
    let (v, p, s1) := s.loadElem c k h (at_ i).1 (at_ i).2
    State.loadElems c k h at_ m (i + 1) s1 (v :: acc) (bad || p)

/-- Lists values from a key on. -/
def putRun {α : Type} (m : SMap α) : Nat → List α → SMap α
  | _, [] => m
  | i, v :: vs => putRun (m.put i v) (i + 1) vs

/-- One beat of an MLDW: row `offset` of B, or at 32 the scales (R390). -/
def State.mldwBeat (s : State) (c n : Nat) (x : Copy) (b : Nat) : State :=
  let pos := x.w 2
  let r0 := bits pos 15 0
  let c0 := bits pos 31 16
  let w := s.wbuf c b
  let j := x.offset
  let (vs, bad, s1) :=
    if j < 32 then State.loadElems c x.strand (x.w 0) (fun i => (r0 + j, c0 + i)) 128 0 s [] false
    else if x.w 1 = 0 then (List.replicate 128 0x7F, false, s)
    else State.loadElems c x.strand (x.w 1) (fun i => (bits pos 47 32, c0 + i)) 128 0 s [] false
  let w1 :=
    if j < 32 then { w with elems := putRun w.elems (128 * j) (vs.map fun v => BitVec.ofNat 16 v) }
    else { w with scales := putRun w.scales 0 (vs.map fun v => BitVec.ofNat 8 v) }
  let len := if j < 32 then 128 * width (BitVec.ofNat 4 (x.w 3).toNat) / 8 else if x.w 1 = 0 then 0 else 128
  let x1 := { x with offset := j + 1, moved := x.moved + len, poisoned := x.poisoned + (if bad then 1 else 0) }
  let s2 := ((s1.setWbuf c b w1).movedBytes c len).setCopy c n x1
  if 32 ≤ j then s2.afterLast c n x1 else s2

/-- One beat of a VCBLD: 64 rows of the table (R399). -/
def State.vcbldBeat (s : State) (c n : Nat) (x : Copy) (b : Nat) : State :=
  let t := s.tile c (handleSlot (x.w 0))
  let first := (x.w 1).toNat + 64 * x.offset
  let at_ : Nat → Nat × Nat := fun i => ((first + i) / t.cols, (first + i) % t.cols)
  let (vs, bad, s1) := State.loadElems c x.strand (x.w 0) at_ 64 0 s [] false
  let y := s1.cb c b
  let x1 := { x with offset := x.offset + 1, moved := x.moved + 256, poisoned := x.poisoned + (if bad then 1 else 0) }
  let s2 := ((s1.setCb c b { y with rows := putRun y.rows (64 * x.offset) (vs.map fun v => BitVec.ofNat 32 v) }).movedBytes
    c 256).setCopy c n x1
  if 1 ≤ x.offset then s2.afterLast c n x1 else s2

/-- COPY_BEAT: an ACTIVE entry moves one beat of at most 256 bytes. A beat whose handle is no longer current is dropped, and
the copy ends with ERROR (R133). -/
def execCopyBeat (core entry : Nat) (s : State) : Host.Outcome State Fault Refusal :=
  let x := s.copy core entry
  finish (if x.state ≠ .active || x.beatsDone then s
    else if s.copyStale core x then s.failCopy core entry 2 (s.beatAddr x)
    else if s.copyAway core x then s
    else
      match x.kind with
      | .acopy => s.acopyBeat core entry x
      | .mldw b => s.mldwBeat core entry x b
      | .vcbld b => s.vcbldBeat core entry x b)

/-- ARRIVAL_TOKEN: the target of a copy whose last beat has been written becomes FULL, and the entry ends (R138, R143). -/
def execArrivalToken (core entry : Nat) (s : State) : Host.Outcome State Fault Refusal :=
  let x := s.copy core entry
  .next (if x.state ≠ .active || !x.beatsDone || x.arrived then s
    else
      match x.kind with
      | .acopy => (s.settleFill core (x.w 3) .full).endCopy core entry { x with arrived := true }
      | _ => s.endLoad core entry x 0 0)

/-- COPY_COMPLETION_TOKEN: the token that a full queue held back is pushed, and the entry enters DONE (R239). -/
def execCopyCompletionToken (core entry : Nat) (s : State) : Host.Outcome State Fault Refusal :=
  let x := s.copy core entry
  .next (if x.state ≠ .active || !x.beatsDone || !x.arrived || !x.wantsToken then s else s.endCopy core entry x)

/-! ## AWAIT, ACANCEL, ASTAT (R385) -/

/-- AWAIT. -/
def execAwait (rd rs1 rs2 : BitVec 5) (s : State) : Host.Outcome State Fault Refusal :=
  xr 0x10 rd rs1 rs2 .x .x .z (fun raw s =>
    let c := s.who.1
    let n := (rx s rs1).toNat
    let x := s.copy c n
    if 31 < n then s.raise (illegalWord raw 1)
    else
      match x.state with
      | .free => scalar rd (BitVec.allOnes 64) s
      | .done =>
        let s1 := scalar rd (x.payload n) (s.setCopy c n { Copy.reset with order := x.order })
        if x.status = 2 then s1.takeTrap c s.who.2 s1.cur.pc (copyError n x.addr) else s1
      | _ => s.onCur fun t => { t with status := .waiting, wait := some (.copy n) }) s

/-- ACANCEL. -/
def execAcancel (rd rs1 rs2 : BitVec 5) (s : State) : Host.Outcome State Fault Refusal :=
  xr 0x11 rd rs1 rs2 .z .x .z (fun raw s =>
    let c := s.who.1
    let n := (rx s rs1).toNat
    if 31 < n then s.raise (illegalWord raw 1)
    else
      match (s.copy c n).state with
      | .free | .done => s.done
      | _ => (s.failCopy c n 1 0).done) s

/-- The state codes of ASTAT. -/
def CopyState.code : CopyState → Nat
  | .free => 0
  | .waiting => 1
  | .active => 2
  | .suspended => 3
  | .done => 4

/-- ASTAT. -/
def execAstat (rd rs1 rs2 : BitVec 5) (s : State) : Host.Outcome State Fault Refusal :=
  xr 0x12 rd rs1 rs2 .x .x .z (fun raw s =>
    let n := (rx s rs1).toNat
    let x := s.copy s.who.1 n
    if 31 < n then s.raise (illegalWord raw 1)
    else
      let shown : Copy := { x with status := if x.state = .done then x.status else 0 }
      scalar rd (shown.payload n + word (x.state.code * 32)) s) s

/-! ## Watches (R375) -/

/-- Removes watch `i` of a strand. -/
def State.dropWatch (s : State) (c k i : Nat) : State := s.onStrand c k fun t => { t with watches := t.watches.eraseIdx i }

/-- The value of a watched unit now. -/
def State.watched (s : State) (w : Watch) : Word := word (s.numAt w.unit 8)

/-- Ends watch `i` with a token of the unit's value, where the queue takes it. -/
def State.fireWatch (s : State) (c k i : Nat) (w : Watch) : State :=
  let q := s.queue c w.q
  let s1 := s.dropWatch c k i
  if q.doneLatch then s1 else s1.setQueue c w.q (q.push (.tok { kind := kVal, data := s.watched w }))

/-- WATCH_FIRE: a write has left a watched unit different from the value kept, and the queue has room or its DONE latch is set. A unit in
a poisoned line holds what no write left there, and its watch waits for the write that clears the poison. -/
def execWatchFire (core strand index : Nat) (s : State) : Host.Outcome State Fault Refusal :=
  .next (match (s.strand core strand).watches[index]? with
    | none => s
    | some w =>
      let r : QRef := { field := 48 + w.q, core := core, q := w.q, entry := 0 }
      if s.poisonAt w.unit || s.watched w = w.v0 then s
      else if !(s.queue core w.q).doneLatch && s.roomIn r = 0 then s
      else s.fireWatch core strand index w)

end Sys2Proof.Machine
end

