-- ==== Sys2Proof/Machine/Records.lean ====
section
/-!
DEFINITION. What chain configuration records say of queues, nodes, ports and routes, and the validator (R219, R220, R253).
-/
namespace Sys2Proof.Machine

/-! ## Formats (R247 to R253, first codes) -/

/-- The param of a fibre word (R251, R414, R415). -/
def fibreParamOk (opn p : Nat) : Bool :=
  if opn = 0xB0 || opn = 0xB7 || opn = 0xC4 then p < 2 ^ 20
  else if opn = 0xB1 || opn = 0xC0 then true
  else if opn = 0xB5 then p < 3
  else if [0xB6, 0xB8, 0xBE, 0xBF].contains opn then p < 2 ^ 20 || (2 ^ 31 ≤ p && p < 2 ^ 31 + 8)
  else if [0xB9, 0xBC, 0xBD].contains opn then p < 2
  else if opn = 0xBB then 0 < p
  else p = 0

/-- The param of a node. -/
def NEntry.paramOk (x : NEntry) : Bool :=
  match x.kind with
  | 1 => x.param % 2 ^ 30 ≠ 0
  | 2 => fibreParamOk x.opn x.param
  | _ => x.param = 0

/-- The word at an offset. -/
def at_ (ws : List Word) (i : Nat) : Word := ws.getD i 0

/-- FORMAT of the header, of the tile's size, and of each entry: the offset of the first word at fault. DESIGN CHOICE: so is a route index
that no route of the record has (log 136), and a node VL above 2,048 (log 137). -/
def badFormat (ws : List Word) (size : Nat) : Option Nat :=
  let h := at_ ws 0
  let r := parseRecord ws
  let nn := headNodes h
  let badQ (i : Nat) : Bool :=
    let w := at_ ws (r.qOff i)
    let e := queueEntry w
    bit w 24 || bits w 11 0 ≠ 0 || e.xport = 3 || (if e.xport = 2 then headRoutes h ≤ e.route else e.route ≠ 0) ||
      (nn ≤ e.prod && e.prod ≠ 63) || (nn ≤ e.cons && e.cons ≠ 63)
  let badA (n : Nat) : Bool := bits (at_ ws (r.aOff n)) 16 0 ≠ 0 || 3 < (r.node n).kind
  let badB (n : Nat) : Bool :=
    bits (at_ ws (r.bOff n)) 33 32 ≠ 0 || 2048 < (r.node n).vl || !(r.node n).paramOk
  if bits h 55 49 ≠ 0 || bits h 32 0 ≠ 0 || nn = 64 || 16 < headQueues h || 16 < headRoutes h then some 0
  else if size < recordWords h then some size
  else
    match (List.range (headQueues h)).find? badQ with
    | some i => some (r.qOff i)
    | none =>
      match (List.range nn).find? fun n => badA n || badB n with
      | some n => some (if badA n then r.aOff n else r.bOff n)
      | none =>
        ((List.range (headRoutes h)).find? fun i => bits (at_ ws (r.rOff i)) 51 0 ≠ 0).map r.rOff

/-- A node's word is accepted on its kind (R250). -/
def NEntry.wordOk (x : NEntry) : Bool :=
  let o := x.opn
  let fits : Bool := match x.instr with
    | some w => (badField w.fields 0).isNone && x.class_ 0 != .x
    | none => false
  match x.kind with
  | 0 => fits && (o < 0x6E || (0x71 ≤ o && o < 0x78) || (0x9D ≤ o && o < 0xA2))
  | 1 => fits && o = 0x99
  | 2 => fits && 0xB0 ≤ o && o < 0xC7
  | _ => x.word = 0

/-- A node's mode is legal, and its word accepts the types in force (R118, R119, R253). -/
def NEntry.modesOk (x : NEntry) (captured : Modes) : Bool :=
  let m := modeOf ((x.modesIn captured).at (groupOf x.opn))
  !(x.mv && badMode (x.mode.setWidth 64)) && (x.kind = 3 || accepts x.opn m.t m.s)

/-! ## Placement (R253) -/

/-- The buffers of an MN node. -/
def NEntry.buffers (x : NEntry) : List Nat := (List.range (x.param / 2 ^ 30 + 1)).map fun i => 4 * x.unit + i

/-- Two MN nodes whose buffers overlap. -/
def NEntry.overlaps (x y : NEntry) : Bool :=
  x.kind = 1 && y.kind = 1 && x.core = y.core && x.buffers.any y.buffers.contains

/-- The other configured slots of the device, with their records. -/
def State.otherRecs (s : State) (c n : Nat) : List (Nat × Rec) :=
  s.cores.flatMap fun e => (e.2.slots.filter fun x => (e.1, x.1) ≠ (c, n) && x.2.state ≠ .free).map fun x => (e.1, x.2.rec_)

/-- Node `n` of a record for slot `k` of core `c` is well placed. -/
def State.placeOk (s : State) (c k : Nat) (r : Rec) (n : Nat) : Bool :=
  let x := r.node n
  let reach : Nat := match x.kind with
    | 0 | 3 => 8
    | _ => 4
  (s.core x.core).region.isSome && (s.core x.core).region == (s.core c).region && x.unit < reach &&
    (x.kind ≠ 1 || x.b = 4 * x.unit) && (r.nodes.take n).all (fun y => !x.overlaps y) &&
    (s.otherRecs c k).all fun o => o.2.nodes.all fun y => !x.overlaps y

/-! ## Links between nodes and queues (R219) -/

/-- An entry's end at a node is one that the node's word names. A port's ends are checked under PORT. -/
def Rec.consNamed (r : Rec) (e : QEntry) : Bool :=
  e.cons = 63 || (r.node e.cons).kind = 3 || (r.node e.cons).sources.contains (48 + e.q)
def Rec.prodNamed (r : Rec) (e : QEntry) : Bool :=
  e.prod = 63 || (r.node e.prod).kind = 3 || (r.node e.prod).dests.contains (48 + e.q)

/-- PRODUCER for entry `i`: both ends outside, an end that its node does not name, a queue claimed twice, a destination linked
twice, or a queue that another slot owns. DEDUCED (log 116): a destination of a word is linked by one entry, whatever cores hold the
consumers. -/
def State.badProducer (s : State) (c k : Nat) (r : Rec) (i : Nat) : Bool :=
  let e := r.entry i
  let core := r.queueCore e
  let earlier := r.queues.take i
  (e.prod = 63 && e.cons = 63) || !r.consNamed e || !r.prodNamed e ||
    (core < 256 && earlier.any fun x => r.queueCore x = core && x.q = e.q) ||
    (e.prod ≠ 63 && earlier.any fun x => x.prod = e.prod && x.q = e.q) ||
    (core < 256 && (match (s.queue core e.q).owner with
      | some o => o ≠ 4 * c + k
      | none => false))

/-- A node whose word names a queue that no entry links to it. -/
def Rec.unlinked (r : Rec) (n : Nat) : Bool :=
  let x := r.node n
  x.sources.any (fun f => !(r.ins n).any fun i => 48 + (r.entry i).q = f) ||
    x.dests.any fun f => !(r.outs n).any fun i => 48 + (r.entry i).q = f

/-- STRIP_DEPTH of entry `i` (R211, R428). -/
def Rec.shallow (r : Rec) (vl : Nat) (i : Nat) : Bool :=
  let e := r.entry i
  let short (n : Nat) : Bool := n ≠ 63 && (r.node n).strip && e.d < (r.node n).vlIn vl
  short e.prod || short e.cons ||
    (e.cons ≠ 63 && (r.node e.cons).kind = 2 && (r.node e.cons).opn = 0xC6 && (r.node e.cons).a = 48 + e.q && e.d < 33)

/-! ## Ports (R214 to R216, R219) -/

/-- Fields of a port's descriptor. -/
def Port.w (p : Port) (i : Nat) : Word := p.desc.getD i 0
def Port.q (p : Port) : Nat := bits (p.w 1) 15 12
def Port.probe (p : Port) : Nat := bits (p.w 1) 10 8
def Port.signed (p : Port) : Bool := bit (p.w 1) 7
def Port.dims (p : Port) : Nat := bits (p.w 1) 6 5 + 1
def Port.sink (p : Port) : Bool := bit (p.w 1) 4
def Port.tiled (p : Port) : Bool := bit (p.w 1) 3
def Port.esz (p : Port) : Nat := bits (p.w 1) 2 0

/-- Port `u` of core `c`. -/
def State.port (s : State) (c u : Nat) : Port := SMap.get Port.reset (s.core c).ports u

/-- Replaces port `u`. -/
def State.setPort (s : State) (c u : Nat) (p : Port) : State := s.onCore c fun r => { r with ports := r.ports.put u p }

/-- A record names port `u` of core `c`. -/
def Rec.namesPort (r : Rec) (c u : Nat) : Bool := r.nodes.any fun x => x.kind = 3 && x.core = c && x.unit = u

/-- PORT for node `n` of a record that strand `k` of core `c` configures in slot `sl`. DESIGN CHOICE (log 117): the reason also stands for
a port whose descriptor names another queue or direction than its queue entry, and for one that two nodes of the record name. -/
def State.badPort (s : State) (c k sl : Nat) (r : Rec) (n : Nat) : Bool :=
  let x := r.node n
  let p := s.port x.core x.unit
  let es := if p.sink then r.ins n else r.outs n
  let other := if p.sink then r.outs n else r.ins n
  x.kind = 3 &&
    (x.core ≠ c || p.state = .unbound || p.strand ≠ k || es.length ≠ 1 || other ≠ [] ||
      es.any (fun i => (r.entry i).q ≠ p.q || (0 < (r.entry i).n && (r.entry i).n ≠ p.dims)) ||
      (r.nodes.take n).any (fun y => y.kind = 3 && y.core = x.core && y.unit = x.unit) ||
      (s.otherRecs c sl).any fun o => o.2.namesPort x.core x.unit)

/-! ## The graph (R219) -/

/-- An FLOOPC. -/
def NEntry.loop (x : NEntry) : Bool := x.kind = 2 && x.opn = 0xBB

/-- Entry `i` is the back edge of an FLOOPC: its b input. -/
def Rec.backEdge (r : Rec) (i : Nat) : Bool :=
  let e := r.entry i
  e.cons ≠ 63 && (r.node e.cons).loop && (r.node e.cons).b = 48 + e.q

/-- The edges inside the record, as producer, consumer and entry. -/
def Rec.edges (r : Rec) : List (Nat × Nat × Nat) :=
  ((List.range r.queues.length).map fun i => ((r.entry i).prod, (r.entry i).cons, i)).filter fun e => e.1 ≠ 63 && e.2.1 ≠ 63

/-- Nodes reached from a list of nodes in at most `k` edges, the start included. -/
def reachFrom (es : List (Nat × Nat × Nat)) : Nat → List Nat → List Nat
  | 0, l => l
  | k + 1, l => reachFrom es k ((l ++ (es.filter fun e => l.contains e.1).map (·.2.1)).eraseDups)

/-- A node reaches another by at least one edge. -/
def reaches (es : List (Nat × Nat × Nat)) (a b : Nat) : Bool :=
  (reachFrom es es.length ((es.filter fun e => e.1 = a).map (·.2.1))).contains b

/-- CYCLE: a cycle that enters no FLOOPC by a queue of depth 2 or more. -/
def Rec.badCycle (r : Rec) : Bool :=
  let es := r.edges.filter fun e => !((r.node e.2.1).loop && 2 ≤ (r.entry e.2.2).d)
  (List.range r.nodes.length).any fun n => reaches es n n

/-- The edges without the back edges. -/
def Rec.forward (r : Rec) : List (Nat × Nat × Nat) := r.edges.filter fun e => !r.backEdge e.2.2

/-- ORDER_POINTS: the record's order is no topological order. -/
def Rec.badOrder (r : Rec) : Bool := r.forward.any fun e => e.2.1 ≤ e.1

/-! ## Balance (R220) -/

/-- A count that may be unbounded. -/
abbrev Count := Option Nat

/-- Sum and product of counts; 0 times anything is 0. -/
def Count.plus : Count → Count → Count
  | some a, some b => some (a + b)
  | _, _ => none
def Count.times (a b : Count) : Count :=
  if a = some 0 ∨ b = some 0 then some 0
  else
    match a, b with
    | some x, some y => some (x * y)
    | _, _ => none

/-- A fibre bound, 0 standing for none. -/
def boundCount (b : Nat) : Count := if b = 0 then none else some b

/-- The entry that feeds the field `f` of node `n`. -/
def Rec.inAt (r : Rec) (n f : Nat) : QEntry :=
  match (r.ins n).find? fun i => 48 + (r.entry i).q = f with
  | some i => r.entry i
  | none => .none_

/-- Gain of node `n` (R220). -/
def Rec.gain (r : Rec) (n : Nat) : Count :=
  let x := r.node n
  if x.kind = 1 then some 4
  else if x.kind = 2 && x.opn = 0xB4 then boundCount (r.inAt n x.b).bound
  else if x.kind = 2 && (x.opn = 0xB0 || x.opn = 0xB1) then
    Count.plus (boundCount (r.entry ((r.outs n).headD 16)).bound) (some 1)
  else some 1

/-- Paths from an edge to a node, as lists of edges. -/
def pathsTo (es : List (Nat × Nat × Nat)) (goal : Nat) : Nat → Nat × Nat × Nat → List (List (Nat × Nat × Nat))
  | 0, e => if e.2.1 = goal then [[e]] else []
  | k + 1, e =>
    if e.2.1 = goal then [[e]]
    else (es.filter fun x => x.1 = e.2.1).flatMap fun x => (pathsTo es goal k x).map fun p => e :: p

/-- The edges that enter the nodes inside a path. -/
def inside (p : List (Nat × Nat × Nat)) : List (Nat × Nat × Nat) := p.dropLast

/-- The greater of two counts. -/
def Count.top : Count → Count → Count
  | some a, some b => some (max a b)
  | _, _ => none

/-- A node with two input queues that the hold of R220 takes from the paths before it: FUNION, FMERGE and FJOIN; and, DESIGN CHOICE
(log 118), an elementwise LG node of two queues, which the first row of R220's table names as well. -/
def Rec.joins (r : Rec) (n : Nat) : Bool :=
  let x := r.node n
  2 ≤ (r.ins n).length &&
    ((x.kind = 0 && !x.strip) || (x.kind = 2 && (x.opn = 0xB3 || x.opn = 0xBA || x.opn = 0xBC)))

/-- The nearest fork upstream of node `n` from which two of its inputs descend: DESIGN CHOICE (log 118), the one latest in the order of
the record. -/
def Rec.forkOf (r : Rec) (es : List (Nat × Nat × Nat)) (n : Nat) : Option Nat :=
  let feeds (f : Nat) : Nat :=
    ((es.filter fun e => e.2.1 = n && (e.1 = f || reaches es f e.1)).map (·.2.2)).eraseDups.length
  ((List.range n).reverse).find? fun f => 2 ≤ (r.outs f).length && 2 ≤ feeds f

/-- Hold of the node that edge `e` enters (R220); `k` bounds the joins seen on the way up. -/
def Rec.hold (r : Rec) (vl : Nat) (es : List (Nat × Nat × Nat)) : Nat → Nat × Nat × Nat → Count
  | 0, _ => none
  | k + 1, e =>
    let n := e.2.1
    let x := r.node n
    if r.joins n then
      match r.forkOf es n with
      | none => some 0
      | some f =>
        let ps := (es.filter fun y => y.1 = f).flatMap (pathsTo es n es.length)
        ps.foldl (fun best p => Count.top best ((inside p).foldl (fun h y => Count.plus h (r.hold vl es k y)) (some 0))) (some 0)
    else if x.kind = 1 then some 31
    else if x.kind = 0 then
      if x.opn = 0x5D then boundCount (r.entry e.2.2).bound
      else if x.strip then some (x.vlIn vl - 1)
      else some 0
    else if x.kind = 3 then some 0
    else if [0xB2, 0xB9, 0xC5, 0xB5, 0xC4].contains x.opn then boundCount (r.entry e.2.2).bound
    else if x.opn = 0xB0 || x.opn = 0xB1 || x.opn = 0xBB then some 1
    else if x.opn = 0xC6 then some 31
    else if x.reports then none
    else some 0

/-- H and G of a path, and its buffering. -/
def Rec.pathHold (r : Rec) (vl : Nat) (es p : List (Nat × Nat × Nat)) : Count :=
  (inside p).foldl (fun h e => Count.plus h (r.hold vl es (r.nodes.length + 1) e)) (some 0)
def Rec.pathGain (r : Rec) (p : List (Nat × Nat × Nat)) : Count :=
  (inside p).foldl (fun g e => Count.times g (r.gain e.2.1)) (some 1)
def Rec.pathBuf (r : Rec) (p : List (Nat × Nat × Nat)) : Nat := p.foldl (fun b e => b + (r.entry e.2.2).d) 0

/-- The buffering of `p` is too small for `q`. -/
def Rec.unbalanced (r : Rec) (vl : Nat) (es p q : List (Nat × Nat × Nat)) : Bool :=
  match Count.times (r.pathHold vl es q) (r.pathGain p) with
  | some need => r.pathBuf p < need
  | none => true

/-- BALANCE: two paths from different outputs of a fork to different inputs of a join. -/
def Rec.badBalance (r : Rec) (vl : Nat) : Bool :=
  let es := r.forward
  (List.range r.nodes.length).any fun f =>
    let outs := es.filter fun e => e.1 = f
    2 ≤ (r.outs f).length && (List.range r.nodes.length).any fun j =>
      !(r.node j).loop && 2 ≤ (r.ins j).length &&
        (let ps := outs.flatMap (pathsTo es j es.length)
         ps.any fun p => ps.any fun q =>
           p.head? ≠ q.head? && p.getLast? ≠ q.getLast? && r.unbalanced vl es p q)

/-! ## Circuits, completion tokens, physical addresses (R166, R219, R248) -/

/-- CIRCUIT for entry `i`: its transport does not join its ends. -/
def Rec.badTransport (r : Rec) (i : Nat) : Bool :=
  let e := r.entry i
  let p := (r.node e.prod).core
  let q := (r.node e.cons).core
  if e.prod = 63 || e.cons = 63 then e.xport ≠ 2
  else if e.xport = 0 then p ≠ q
  else if e.xport = 1 then !neighbours p q
  else false

/-- Configured slots of stopped and frozen jobs, whose circuits stay reserved (R293). -/
def State.keptSlots (s : State) : List Slot :=
  s.jobs.flatMap fun e => match e.2 with
    | some j => j.savedCores.flatMap fun x => (x.2.slots.filter fun y => y.2.state ≠ .free).map (·.2)
    | none => []

/-- The tags of the routes that circuits of stopped and frozen jobs keep reserved (R293). -/
def State.keptTags (s : State) : List Nat := s.keptSlots.flatMap fun y => y.rec_.routes.map (·.tag)

/-- The tags that the routes of other configured slots use (R253). -/
def State.usedTags (s : State) (c k : Nat) : List Nat := ((s.otherRecs c k).flatMap fun o => o.2.routes.map (·.tag)) ++ s.keptTags

/-- CIRCUIT for route `i`: a tag outside the job's range, used twice, or without dedicated buffers. -/
def State.badRoute (s : State) (c k : Nat) (r : Rec) (i : Nat) : Bool :=
  let t := (r.routes.map (·.tag)).getD i 0
  let granted : Bool := match s.jobOf c with
    | some j => j.tagBase ≤ t && t < j.tagBase + j.tagCount
    | none => false
  !granted || ((r.routes.take i).map (·.tag)).contains t || (s.usedTags c k).contains t || !Config.circuitRoom t s.tick

/-- Nodes that completion tokens of `l` reach, an ordering arc letting none through. -/
def Rec.reported (r : Rec) : Nat → List Nat → List Nat
  | 0, l => l
  | k + 1, l =>
    let more := (r.edges.filter fun e => l.contains e.1).map (·.2.1) |>.filter fun n =>
      !((r.node n).kind = 2 && (r.node n).opn = 0xBC && (r.node n).param = 1)
    r.reported k ((l ++ more).eraseDups)

/-- MEMORY_WAIT: a completion token reaches another engine node or port. DESIGN CHOICE (log 135): what a node makes of a completion token
counts as one too, through every kind of node but the ordering arc. -/
def Rec.badWait (r : Rec) : Bool :=
  (List.range r.nodes.length).any fun n =>
    (r.node n).reports && (r.reported r.nodes.length [n]).any fun m =>
      m ≠ n && ((r.node m).engine || (r.node m).kind = 3)

/-- An entry whose producer is an FXLATE. -/
def Rec.physical (r : Rec) (i : Nat) : Bool :=
  let p := (r.entry i).prod
  p ≠ 63 && (r.node p).kind = 2 && (r.node p).opn = 0xBD

/-- PHYS: physical addresses on an input that takes none. -/
def Rec.badPhys (r : Rec) (i : Nat) : Bool :=
  let e := r.entry i
  let x := r.node e.cons
  let takes : Bool := e.cons ≠ 63 && x.kind = 2 &&
    (((x.opn = 0xB6 || x.opn = 0xBE) && x.a = 48 + e.q) || ((x.opn = 0xB8 || x.opn = 0xBF) && x.b = 48 + e.q))
  r.physical i && !takes

/-! ## The validator (R253) -/

/-- A refused record: its reason code and stval. -/
abbrev Refused := Option (Nat × Word)

/-- stval of a record word. -/
def recordAddr (h : Word) (off : Nat) : Word := word (bits h 19 0 * 2 ^ 44 + off)

/-- The first that is not none. -/
def firstRefused : List Refused → Refused
  | [] => none
  | some x :: _ => some x
  | none :: r => firstRefused r

/-- The checks of R253 after SLOT, in ascending order of their codes, for a record that strand `k` of core `c` configures in slot
`sl` from a tile of `size` elements. -/
def State.validate (s : State) (c k sl : Nat) (h : Word) (ws : List Word) (size : Nat) (ms : Modes) (vl : Nat) : Refused :=
  let r := parseRecord ws
  let qs := List.range r.queues.length
  let ns := List.range r.nodes.length
  let rs := List.range r.routes.length
  let found (code : Nat) (off : Option Nat) : Refused := off.map fun o => (code, recordAddr h o)
  let whole (code : Nat) (bad : Bool) : Refused := if bad then some (code, 0) else none
  if bits (at_ ws 0) 63 56 ≠ 1 then some (2, recordAddr h 0)
  else
    match badFormat ws size with
    | some o => some (3, recordAddr h o)
    | none =>
      firstRefused [
        found 4 ((ns.find? fun n => !(r.node n).wordOk).map r.aOff),
        found 5 ((ns.find? fun n => !(r.node n).modesOk ms).map r.bOff),
        found 6 ((ns.find? fun n => !s.placeOk c sl r n).map r.aOff),
        found 7 (((qs.find? fun i => s.badProducer c sl r i).map r.qOff).orElse fun _ => (ns.find? r.unlinked).map r.aOff),
        found 8 ((ns.find? fun n => (r.node n).twoOut && (r.node n).d % 2 = 1).map r.aOff),
        found 9 ((qs.find? fun i => (r.entry i).d = 0 || 64 < (r.entry i).d).map r.qOff),
        found 10 ((qs.find? (r.shallow vl)).map r.qOff),
        found 11 ((ns.find? fun n => s.badPort c k sl r n).map r.aOff),
        whole 12 r.badCycle,
        whole 13 r.badOrder,
        whole 14 (r.badBalance vl),
        found 15 (((qs.find? r.badTransport).map r.qOff).orElse fun _ => (rs.find? fun i => s.badRoute c sl r i).map r.rOff),
        whole 16 r.badWait,
        found 17 ((qs.find? r.badPhys).map fun i => r.aOff (if (r.entry i).cons = 63 then (r.entry i).prod else (r.entry i).cons))]

end Sys2Proof.Machine
end

