-- ==== Sys2Proof/Machine/Nodes.lean ====
section
/-!
DEFINITION. Chain nodes: what a node has at hand when it fires, stop forwarding, and the firings of LG and MN nodes (R29 to R32,
R145, R394, R487).
-/
namespace Sys2Proof.Machine

/-! ## What a node has at hand -/

/-- The queue that entry `i` of a record describes, as a node reaches it. -/
def Rec.ref (r : Rec) (i : Nat) : QRef :=
  let e := r.entry i
  let rt := r.routes.getD e.route { tag := 0, adv := 15 }
  { field := 48 + e.q, core := r.queueCore e, q := e.q, entry := i, via := if e.xport = 2 then some rt.tag else none,
    adv := if e.xport = 2 then rt.adv else 15 }

/-- State of node `n` of a slot. -/
def Slot.node (x : Slot) (n : Nat) : NodeState := SMap.get NodeState.reset x.nodes n

/-- Word `i` of a node's state. -/
def NodeState.reg (x : NodeState) (i : Nat) : Nat := (SMap.get 0 x.regs i).toNat

/-- Replaces word `i` of a node's state. -/
def NodeState.setReg (x : NodeState) (i v : Nat) : NodeState := { x with regs := SMap.set 0 x.regs i (word v) }

/-- Replaces the state of node `n` of slot `sl` of core `c`. -/
def State.setNode (s : State) (c sl n : Nat) (x : NodeState) : State :=
  let y := s.slot c sl
  s.setSlot c sl { y with nodes := y.nodes.put n x }

/-- The numbers of a node's X fields a and b, where it has them (R250). -/
def NEntry.xFields (x : NEntry) : List Nat :=
  (if x.class_ 1 == .x then [x.a] else []) ++ (if x.class_ 2 == .x && !(x.class_ 1 == .x && x.a = x.b) then [x.b] else [])

/-- Key of the value that node `n` holds for its X field `f`: x register `f` of node `n` (R250). -/
def xKey (n f : Nat) : Nat := 32 * n + f

/-- The values that CHCFG read for the X fields of node `n`, under those fields' numbers. -/
def NEntry.held (x : NEntry) (n : Nat) (vs : SMap Word) : SMap Word :=
  x.xFields.foldl (fun m f => SMap.set 0 m f (SMap.get 0 vs (xKey n f))) []

/-- What node `n` of slot `sl` of core `c` has at hand; `start` and `base` place its next element. -/
def State.nodeEnv (s : State) (c sl n : Nat) (temporal : Bool) (start base : Nat) : Env :=
  let y := s.slot c sl
  let r := y.rec_
  let x := r.node n
  { c := c, k := y.owner, place := x.core, vl := x.vlIn y.vl, vstart := start, modes := x.modesIn y.modes,
    x := x.held n y.xval, raw := x.word,
    run := if temporal then .temporal c sl n else .spatial c sl n, base := base,
    ins := (r.ins n).map r.ref, outs := (r.outs n).map r.ref }

/-- Whether a node's consumer pairs scale tokens: an MN node, and VSCACC (R209). -/
def NEntry.pairs (x : NEntry) : Bool := x.kind = 1 || (x.kind = 0 && x.opn = 0x9D)

/-! ## Heads and stops (R32) -/

/-- Heads of a node's inputs, if every input has one. -/
def State.heads (s : State) : List QRef → Option (List Token)
  | [] => some []
  | r :: rs =>
    match (s.queue r.core r.q).head, s.heads rs with
    | some t, some l => some (t :: l)
    | _, _ => none

/-- The violations at the heads of a node's inputs (R218). -/
def State.headFaults (s : State) (rs : List QRef) (pairs : Bool) : Option Exc := firstExc (rs.map fun r => s.headFault r pairs)

/-- Pops the head of every input. -/
def State.popAll (e : Env) (pairs : Bool) : List QRef → State → State
  | [], s => s
  | r :: rs, s => State.popAll e pairs rs (s.popQ e r pairs).2

/-- Pushes a token to every output. -/
def State.pushAll (e : Env) (t : Token) : List QRef → State → State
  | [], s => s
  | r :: rs, s => State.pushAll e t rs (s.pushQ e r (.tok t))

/-- A STOP of level `j` popped by a node, counted for CHBAR under 16 + j (R410). -/
def NodeState.sawStop (x : NodeState) (t : Token) : NodeState :=
  if t.kind = kStop then let j := 16 + bits t.data 3 0; x.setReg j (x.reg j + 1) else x

/-- Forwards an equal stop or DONE from every input to every output (R32); DONE finishes the node. -/
def State.forward (s : State) (c sl n : Nat) (e : Env) (pairs : Bool) (t : Token) (x : NodeState) : Done × State :=
  if e.outs.any fun r => s.roomIn r = 0 then (.stall, s)
  else
    match firstExc (e.outs.map fun r => s.latchFault e r) with
    | some f => (.trap 0 f, s)
    | none =>
      let s1 := (s.popAll e pairs e.ins).pushAll e t e.outs
      (.ok 1, s1.setNode c sl n { x with finished := x.finished || decide (t.kind = kDone) })

/-- The queue of a node's a operand, which subkind 9 names (R218). -/
def NEntry.mismatch (x : NEntry) : Exc := malformed 9 (x.a - 48)

/-! ## LG nodes -/

/-- A node without inputs: the elements that the word gives, then a STOP and DONE; with no output, one firing (R487). State word 0
counts the elements pushed, and word 1 how much of the close has been pushed. -/
def State.fireAlone (s : State) (c sl n : Nat) (temporal : Bool) (i : Instr) : Done × State :=
  let y := s.slot c sl
  let x := y.node n
  let e := s.nodeEnv c sl n temporal (x.reg 0) 0
  let close (t : Token) (x : NodeState) : Done × State := s.forward c sl n e false t x
  match e.outs with
  | [] =>
    match wordEffect i e s with
    | (.ok _, s1) => (.ok 1, s1.setNode c sl n { x with finished := true })
    | r => r
  | q :: _ =>
    if x.reg 1 = 1 then close tDone x
    else
      match wordEffect i e s with
      | (.ok 0, _) => close (tStop ((y.rec_.entry q.entry).n - 1)) (x.setReg 1 1)
      | (.ok m, s1) => (.ok m, s1.setNode c sl n (x.setReg 0 (x.reg 0 + m)))
      | r => r

/-- Tokens that a node of slot `sl` has popped from entry `i` (R266). -/
def State.popped (s : State) (c sl i : Nat) : Nat := SMap.get 0 (s.slot c sl).prog (2 * i + 1)

/-- A stop ends the strip that a node writes into its register: the mark falls to what the strip holds. -/
def State.closeStrip (s : State) (e : Env) (nd : NEntry) (x : NodeState) : State :=
  if x.reg 2 = 0 then s else s.onStrand e.c e.k fun t => { t with hwm := SMap.set 0 t.hwm nd.d (x.reg 2) }

/-- A firing of an LG node with inputs (R30, R32). State word 0 counts the elements of the current fibre, and
word 2 is the mark of an unfinished strip. -/
def State.fireFed (s : State) (c sl n : Nat) (temporal : Bool) (i : Instr) : Done × State :=
  let y := s.slot c sl
  let nd := y.rec_.node n
  let x := y.node n
  let e := s.nodeEnv c sl n temporal 0 (x.reg 0)
  let pairs := nd.pairs
  match s.heads e.ins with
  | none => (.stall, s)
  | some ts =>
    if ts.all Token.ends then
      match s.headFaults e.ins pairs with
      | some f => (.trap 0 f, s)
      | none =>
        let t := ts.headD tDone
        if ts.all (· = t) then (s.closeStrip e nd x).forward c sl n e pairs t ((x.setReg 0 0).setReg 2 0) else (.trap 0 nd.mismatch, s)
    else if ts.any Token.ends then
      (.trap 0 ((s.headFaults e.ins pairs).getD nd.mismatch), s)
    else
      match wordEffect i e s with
      | (.stall, _) => (.stall, s)
      | (r, s1) =>
        let i0 := (e.ins.map (·.entry)).headD 0
        let x1 := (s1.slot c sl).node n
        (r, s1.setNode c sl n (x1.setReg 0 (x.reg 0 + (s1.popped c sl i0 - s.popped c sl i0))))

/-- A firing of an LG node. -/
def State.fireLg (s : State) (c sl n : Nat) (temporal : Bool) : Done × State :=
  match ((s.slot c sl).rec_.node n).instr with
  | none => (.stall, s)
  | some i => if (s.slot c sl).rec_.ins n = [] then s.fireAlone c sl n temporal i else s.fireFed c sl n temporal i

/-! ## MN nodes (R145, R394) -/

/-- The buffer that an MN node fires on, its depth, and the rows it fires on each buffer. -/
def NEntry.depth (x : NEntry) : Nat := x.param / 2 ^ 30 + 1
def NEntry.rows (x : NEntry) : Nat := x.param % 2 ^ 30

/-- After a row: the next buffer follows the last row of this one, which is released (R145). State words: 0 the rotation, 1 the
rows fired on the buffer, 2 the partials of the row already pushed, 3 the row's scale. -/
def State.rotate (s : State) (nd : NEntry) (x : NodeState) : NodeState × State :=
  let b := 4 * nd.unit + x.reg 0
  if nd.rows ≤ x.reg 1 + 1 then
    ((x.setReg 1 0).setReg 0 ((x.reg 0 + 1) % nd.depth), s.setWbuf nd.core b { s.wbuf nd.core b with state := .empty })
  else (x.setReg 1 (x.reg 1 + 1), s)

/-- Pushes the partials that a row still has, as far as there is room: a scale token goes before every 32 (R393). -/
def State.pushRow (c sl n : Nat) (e : Env) (r : QRef) : Nat → Nat → State → Nat × State
  | 0, m, s => (m, s)
  | f + 1, m, s =>
    let x := (s.slot c sl).node n
    let j := x.reg 2
    match x.toks with
    | [] => (m, s)
    | t :: ts =>
      if s.roomIn r = 0 || (j % 32 = 0 && s.bandIn r = 0) then (m, s)
      else
        let s1 := if j % 32 = 0 then s.pushQ e r (.scale (BitVec.ofNat 16 (31 * 256 + x.reg 3))) else s
        let s2 := (s1.pushQ e r (.tok t)).setNode c sl n { x.setReg 2 (if ts = [] then 0 else j + 1) with toks := ts }
        State.pushRow c sl n e r f (m + 1) s2

/-- One row of A, in `row` with scale `sa`: its partials wait to be pushed, or stand in the destination register. -/
def State.fireRow (s : State) (c sl n : Nat) (e : Env) (nd : NEntry) (row : List Token) (sa : Nat) : State :=
  let m := e.mode gX
  let x := (s.slot c sl).node n
  let (ps, fl) := partials m.t (s.wbuf nd.core (4 * nd.unit + x.reg 0)) (row.map fun t => t.data.toNat % 2 ^ width m.t)
  let s1 := s.onStrand e.c e.k fun t => t.flag fl
  let s2 := s1.onCore nd.core fun y => { y with events := SMap.set 0 y.events 0x10 (SMap.get 0 y.events 0x10 + 1) }
  let (x1, s3) := s2.rotate nd x
  if e.outs = [] then
    (s3.onStrand e.c e.k fun t => t.writeVec s nd.d 0xF 0 (ps.map some) 128).setNode c sl n x1
  else s3.setNode c sl n { (x1.setReg 2 0).setReg 3 sa with toks := ps.map tVal }

/-- The row of a register source, which an MN node without inputs fires once. -/
def registerRow (s : State) (e : Env) (a : Nat) : List Token :=
  (List.range 32).map fun k => tVal (readElem s (s.strand e.c e.k) 1 a (e.mode gX).t k)

/-- A firing of an MN node. -/
def State.fireMn (s : State) (c sl n : Nat) (temporal : Bool) : Done × State :=
  let y := s.slot c sl
  let nd := y.rec_.node n
  let x := y.node n
  let e := s.nodeEnv c sl n temporal 0 0
  let w := s.wbuf nd.core (4 * nd.unit + x.reg 0)
  let wrong : Bool := matrixClass (e.mode gX).t ≠ matrixClass w.type
  let push (s : State) : Done × State :=
    match e.outs with
    | [] => (.ok 1, s)
    | r :: _ =>
      match s.latchFault e r with
      | some f => (.trap 0 f, s)
      | none => let (m, s1) := State.pushRow c sl n e r 128 0 s; (.ok m, s1)
  if x.toks ≠ [] then push s
  else
    match e.ins with
    | [] =>
      if x.reg 4 = 2 then s.forward c sl n e true tDone x
      else if x.reg 4 = 1 then s.forward c sl n e true (tStop ((y.rec_.entry ((y.rec_.outs n).headD 16)).n - 1)) (x.setReg 4 2)
      else if w.state ≠ .full then (.stall, s)
      else if wrong then (.trap 0 (e.modeType gX w.type), s)
      else
        let s1 := s.fireRow c sl n e nd (registerRow s e nd.a) 0x7F
        let x1 := ((s1.slot c sl).node n).setReg 4 1
        push (s1.setNode c sl n { x1 with finished := decide (e.outs = []) })
    | r :: _ =>
      match (s.queue r.core r.q).head with
      | none => (.stall, s)
      | some t =>
        if t.ends then
          match s.headFault r true with
          | some f => (.trap 0 f, s)
          | none => s.forward c sl n e true t x
        else
          match s.rowAt r with
          | .none => (.stall, s)
          | .bad f => (.trap 0 f, s)
          | .row =>
            if w.state ≠ .full || e.outs.any (fun q => s.roomIn q = 0 || s.bandIn q = 0) then (.stall, s)
            else if wrong then (.trap 0 (e.modeType gX w.type), s)
            else
              let sa := (s.queue r.core r.q).headScale.toNat
              let (l, s1) := popRow e r 32 s
              push (s1.fireRow c sl n e nd l sa)

end Sys2Proof.Machine
end

