-- ==== Sys2Proof/Machine/Fibre.lean ====
section
/-!
DEFINITION. Fibre nodes (R414 to R428): the steps of each fibre word, the firing of a node by steps (R416), and the words
themselves, which a strand may not issue (R414).
-/
namespace Sys2Proof.Machine

/-! ## Steps (R416) -/

/-- What one step of a fibre node does: it cannot take place; it faults; or it pops `a` and `b` tokens of its inputs, pushes
`out`, each to its first or second output, and leaves the node in state `x`, once `check` finds nothing wrong; `act` is what it
does besides. -/
inductive FibreStep where
  | wait
  | bad (f : Exc)
  | go (a b : Nat) (out : List (Nat × QItem)) (x : NodeState) (check : State → Option Exc) (act : State → State)

/-- What a step looks at: the state, what the node has at hand, its entry and its state, and the tokens of its inputs. -/
structure Fibre where
  s : State
  e : Env
  nd : NEntry
  x : NodeState
  physical : Bool
  user : Bool
  ta : List Token
  tb : List Token

/-- The heads of a and of b. -/
def Fibre.a (f : Fibre) : Option Token := f.ta.head?
def Fibre.b (f : Fibre) : Option Token := f.tb.head?

/-- A step without a check or a further effect. -/
def plainStep (a b : Nat) (out : List (Nat × QItem)) (x : NodeState) : FibreStep := .go a b out x (fun _ => none) id

/-- A token for the first output. -/
def put0 (t : Token) : Nat × QItem := (0, .tok t)
def put1 (t : Token) : Nat × QItem := (1, .tok t)

/-- The node with one token carried, with none, and at its end. -/
def NodeState.carry (x : NodeState) (t : Token) : NodeState := { x with toks := [t] }
def NodeState.clear (x : NodeState) : NodeState := { x with toks := [] }
def NodeState.finish (x : NodeState) : NodeState := { x with finished := true }

/-- The node after it has passed a stop or DONE on. -/
def NodeState.after (x : NodeState) (t : Token) : NodeState := if t.kind = kDone then x.finish else x

/-- A VAL token. -/
def Token.isVal (t : Token) : Bool := t.kind = kVal

/-- The level of a STOP. -/
def Token.level (t : Token) : Nat := bits t.data 3 0

/-- The null reference (R217). -/
def nul : Nat := 0xFFFFFFFF

/-- A fibre token of a coordinate and a reference. -/
def fibreTok (c r : Nat) : Token := tVal (c * 2 ^ 32 + r)

/-- Subkind 9 (R416). -/
def Fibre.mismatch (f : Fibre) : FibreStep := .bad f.nd.mismatch

/-- A step on the heads of both inputs. -/
def Fibre.both (f : Fibre) (g : Token → Token → FibreStep) : FibreStep :=
  match f.a, f.b with
  | some a, some b => g a b
  | _, _ => .wait

/-- A step on the head of a. -/
def Fibre.one (f : Fibre) (g : Token → FibreStep) : FibreStep :=
  match f.a with
  | some a => g a
  | none => .wait

/-- Aligned inputs: both VAL, or one stop or DONE on both (R416). -/
def Fibre.aligned (f : Fibre) (vals stops : Token → Token → FibreStep) : FibreStep :=
  f.both fun a b =>
    if a.isVal && b.isVal then vals a b
    else if a.ends && a = b then stops a b
    else f.mismatch

/-- Pops the one input and pushes at most one token in its place; a stop or DONE passes unchanged. -/
def Fibre.mapped (f : Fibre) (g : Token → List (Nat × QItem)) : FibreStep :=
  f.one fun a => if a.isVal then plainStep 1 0 (g a) f.x else plainStep 1 0 [put0 a] (f.x.after a)

/-! ## Tiles and targets (R415) -/

/-- An element at a row and a column, as a node reads it: zero outside the shape, with OOR (R141), and zero from a poisoned line,
with PSN. -/
def State.cell (s : State) (e : Env) (h : Word) (row col : Nat) : Nat × State :=
  let n := handleSlot h
  let t := s.tile e.place n
  let off := row * t.cols + col
  if t.rows ≤ row || t.cols ≤ col then (0, s.onStrand e.c e.k fun st => st.oor h false off)
  else s.tileRead e.c e.k e.place h off

/-- POISON of such a read. -/
def State.cellPoison (s : State) (e : Env) (h : Word) (row col : Nat) : Option Exc :=
  let t := s.tile e.place (handleSlot h)
  if t.rows ≤ row || t.cols ≤ col then none else s.tilePoisonExc e.c e.place h (row * t.cols + col : Nat)

/-- Writes an element at a row and a column. -/
def State.putCell (s : State) (e : Env) (h : Word) (row col v : Nat) : State :=
  let t := s.tile e.place (handleSlot h)
  let off := row * t.cols + col
  if t.rows ≤ row || t.cols ≤ col then s.onStrand e.c e.k fun st => st.oor h true off
  else s.tileWrite e.c e.k e.place h [((off : Nat), v)]

/-- ILLEGAL_OPERAND of a node with a detail. -/
def Env.illegalNode (e : Env) (detail : Nat) : Exc := devFault fIllegalOperand detail (e.raw.setWidth 64)

/-- The check of the two-row tile of FSCAN, FWRC (32-bit elements) and FHASHI (64-bit elements). -/
def State.twoRows (s : State) (e : Env) (h : Word) (w : Nat) (g : HState → Gate) : TileCheck :=
  if !s.handleOk e.place h then .bad (handleStale h)
  else if (s.tile e.place (handleSlot h)).rows ≠ 2 then .bad (e.illegalNode 2)
  else s.tileCheck e.place h w (e.illegalNode 2) g

/-- A step that reaches a tile, if the tile admits it. -/
def TileCheck.step (t : TileCheck) (f : FibreStep) : FibreStep :=
  match t with
  | .ok => f
  | .stall => .wait
  | .bad x => .bad x

/-- The handle of a node's tile. -/
def NEntry.handle (x : NEntry) : Word := BitVec.ofNat 64 (x.param % 2 ^ 20)

/-- The type of a fibre node, and its bytes. -/
def Fibre.t (f : Fibre) : BitVec 4 := (f.e.mode gI).t
def Fibre.sz (f : Fibre) : Nat := width f.t / 8

/-- A physical-address token, as FXLATE emits it, and the address it holds. -/
def physWord : Phys → Word
  | .dev a => word a
  | .host w p o => word (2 ^ 55 + w * 2 ^ 44 + p * 2 ^ 12 + o)
def physOf (w : Word) : Phys :=
  match pageOf (w.toNat / 4096) with
  | some g => g.base.plus (w.toNat % 4096)
  | none => .dev w.toNat

/-- The address of a DRAM target: of the element at reference `r` of the probe, or of the whole payload. -/
def Fibre.addr (f : Fibre) (t : Token) (whole : Bool) : Word :=
  if f.physical || whole then t.data
  else ((f.s.strand f.e.c f.e.k).probe (f.nd.param % 8)).base + word (t.ref * f.sz)

/-- Where it lies. -/
def Fibre.place (f : Fibre) (va : Word) : Phys :=
  if f.physical then physOf va else ((f.s.strand f.e.c f.e.k).probe (f.nd.param % 8)).phys va

/-- The checks of a DRAM access: alignment, and then the probe of a virtual one. -/
def Fibre.addrFault (f : Fibre) (va : Word) (write : Bool) : Option Exc :=
  if va.toNat % f.sz ≠ 0 then some (devFault fMisaligned f.sz va)
  else if f.physical then none
  else probeFault ((f.s.strand f.e.c f.e.k).probe (f.nd.param % 8)) (f.nd.param % 8) f.e.raw va f.sz (!write) write

/-- A physical-address token has been consumed, and its page is unpinned once (R164). -/
def Fibre.unpin (f : Fibre) (va : Word) (s : State) : State :=
  match f.physical, pageOf (va.toNat / 4096) with
  | true, some g => s.unpinAll [g]
  | _, _ => s

/-- FVAL and FGATH on a VAL token: pushes the element that the token names, of an ACC40 slot bits 39:0 (R58). -/
def Fibre.readTarget (f : Fibre) (t : Token) (whole : Bool) : FibreStep :=
  let e := f.e
  if f.nd.param < 2 ^ 31 then
    let h := f.nd.handle
    let off : Int := if whole then (t.data.toNat : Nat) else (t.ref : Nat)
    (f.s.tileCheck e.place h (width f.t) (e.modeType gI f.t) gateRead).step
      (.go 1 0 [put0 (tVal ((f.s.tileRead e.c e.k e.place h off).1 % 2 ^ lwidth f.t))] f.x (fun s => s.tilePoisonExc e.c e.place h off)
        (fun s => (s.tileRead e.c e.k e.place h off).2))
  else
    let va := f.addr t whole
    let q := f.place va
    .go 1 0 [put0 (tVal ((f.s.vread e.c e.k q f.sz).1 % 2 ^ lwidth f.t))] f.x
      (fun s => orElse (f.addrFault va false) (s.poisonExc e.c va q))
      (fun s => f.unpin va (s.vread e.c e.k q f.sz).2)

/-- FWRV and FSCAT on a pair of VAL tokens: writes the element, in an ACC40 slot with bits 63:40 zero (R58), and counts it. -/
def Fibre.writeTarget (f : Fibre) (v t : Token) (whole : Bool) : FibreStep :=
  let e := f.e
  let x := f.x.setReg 0 (f.x.reg 0 + 1)
  let bits_ := v.data.toNat % 2 ^ lwidth f.t
  if f.nd.param < 2 ^ 31 then
    let h := f.nd.handle
    let off : Int := if whole then (t.data.toNat : Nat) else (t.ref : Nat)
    (f.s.tileCheck e.place h (width f.t) (e.modeType gI f.t) gateWrite).step
      (.go 1 1 [] x (fun _ => none) (fun s => s.tileWrite e.c e.k e.place h [(off, bits_)]))
  else
    let va := f.addr t whole
    let q := f.place va
    .go 1 1 [] x (fun s => orElse (f.addrFault va true) (s.recordExc f.user va q))
      (fun s => f.unpin va ((s.touch q).store (.other (dieOf f.e.c)) (piecesOf q (toBytes bits_ f.sz))))

/-! ## The words -/

/-- FSCAN and FSCAND (R417): `range` gives the span of a parent or a fault, and `crd` a coordinate. State word 0 holds the next
position and the end. `gate` is the check of the tile, which the steps that read it pass (R134). -/
def Fibre.scan (f : Fibre) (gate : TileCheck) (range : Nat → State → Except Exc (Nat × Nat)) (crd : State → Nat → Nat → Nat)
    (touch : Nat → Nat → State → State) (poison : Nat → Nat → State → Option Exc) : FibreStep :=
  let p := f.x.reg 0 % 2 ^ 32
  let e := f.x.reg 0 / 2 ^ 32
  let level (t : Token) : FibreStep :=
    if t.level = 14 then .bad (malformed 3 (f.nd.a - 48)) else plainStep 1 0 [put0 (tStop (t.level + 1))] f.x.clear
  if p < e then
    gate.step (.go 0 0 [put0 (fibreTok (crd f.s p e) p)] (f.x.setReg 0 (e * 2 ^ 32 + (p + 1))) (poison 1 p) (touch 1 p))
  else
    f.one fun a =>
      if a.kind = kStop then level a
      else if f.x.toks ≠ [] then plainStep 0 0 [put0 (tStop 0)] f.x.clear
      else if a.isVal then
        if a.ref = nul then plainStep 1 0 [] ((f.x.setReg 0 0).carry (tStop 0))
        else
          gate.step (match range a.ref f.s with
            | .error x => .bad x
            | .ok (b, c) =>
              .go 1 0 [] ((f.x.setReg 0 (max c b * 2 ^ 32 + b)).carry (tStop 0))
                (fun s => orElse (poison 0 a.ref s) (poison 0 (a.ref + 1) s))
                (fun s => touch 0 (a.ref + 1) (touch 0 a.ref s)))
      else plainStep 1 0 [put0 tDone] f.x.finish

/-- FSCAN. -/
def stepFscan (f : Fibre) : FibreStep :=
  let h := f.nd.handle
  let read (row col : Nat) : Nat := (f.s.cell f.e h row col).1
  f.scan (f.s.twoRows f.e h 32 gateRead) (fun r _ => .ok (read 0 r, read 0 (r + 1))) (fun _ p _ => read 1 p)
    (fun row col s => (s.cell f.e h row col).2) (fun row col s => s.cellPoison f.e h row col)

/-- FSCAND. -/
def stepFscand (f : Fibre) : FibreStep :=
  let n := f.nd.param
  f.scan .ok (fun r _ => if 0xFFFFFFFE < r * n + n then .error (f.e.illegalNode 2) else .ok (r * n, r * n + n))
    (fun _ p e => p - (e - n)) (fun _ _ s => s) (fun _ _ _ => none)

/-- The table of R418: what a pair of heads gives when the coordinates are equal, when a comes first, and when b does. -/
def Fibre.merge (f : Fibre) (same : Token → Token → FibreStep) (first : Token → FibreStep) (second : Token → FibreStep)
    (outs : List Nat) : FibreStep :=
  f.both fun a b =>
    if a.isVal && b.isVal then
      if a.coord = b.coord then same a b else if a.coord < b.coord then first a else second b
    else if a.isVal && b.ends then first a
    else if a.ends && b.isVal then second b
    else if a.ends && a = b then plainStep 1 1 (outs.map fun o => (o, .tok a)) (f.x.after a)
    else f.mismatch

/-- FISECT. -/
def stepFisect (f : Fibre) : FibreStep :=
  f.merge (fun a b => plainStep 1 1 [put0 a, put1 b] f.x) (fun _ => plainStep 1 0 [] f.x) (fun _ => plainStep 0 1 [] f.x) [0, 1]

/-- FUNION. -/
def stepFunion (f : Fibre) : FibreStep :=
  f.merge (fun a b => plainStep 1 1 [put0 a, put1 b] f.x)
    (fun a => plainStep 1 0 [put0 a, put1 (fibreTok a.coord nul)] f.x)
    (fun b => plainStep 0 1 [put0 (fibreTok b.coord nul), put1 b] f.x) [0, 1]

/-- FMERGE. -/
def stepFmerge (f : Fibre) : FibreStep :=
  f.merge (fun a _ => plainStep 1 0 [put0 a] f.x) (fun a => plainStep 1 0 [put0 a] f.x) (fun b => plainStep 0 1 [put0 b] f.x) [0]

/-- FREPT (R419). -/
def stepFrept (f : Fibre) : FibreStep :=
  f.both fun a b =>
    if b.isVal then if a.isVal then plainStep 0 1 [put0 (fibreTok b.coord a.ref)] f.x else f.mismatch
    else if b.kind = kStop then
      if !a.isVal then f.mismatch
      else if b.level = 0 then plainStep 1 1 [put0 (tStop 0)] f.x
      else
        match f.ta[1]? with
        | none => .wait
        | some a2 =>
          if a2.kind = kStop && a2.level + 1 = b.level then plainStep 2 1 [put0 (tStop b.level)] f.x else f.mismatch
    else if a.kind = kDone then plainStep 1 1 [put0 tDone] f.x.finish
    else f.mismatch

/-- OP of FREDC (R420): 0 sum, 1 max, 2 min. An ACC40 type is read as INT40. -/
def reduceOp (m : Mode) (op acc x : Nat) : Res :=
  if isI m.t then
    let a := intVal m.t acc
    let b := intVal m.t x
    if op = 0 then fitInt m.t m.sat (a + b) else (intBits (lwidth m.t) (if op = 1 then max a b else min a b), 0)
  else if op = 0 then fadd (fmt m.t) m.rnd m.sat acc x
  else fminmax (fmt m.t) (op = 1) acc x

/-- Sets flags in the owning strand (R70). -/
def Fibre.flags (f : Fibre) (fl : FlagSet) (s : State) : State := if fl = 0 then s else s.onStrand f.e.c f.e.k fun t => t.flag fl

/-- FREDC. -/
def stepFredc (f : Fibre) : FibreStep :=
  let m := f.e.mode gI
  let op := f.nd.param
  let held : Bool := f.x.toks ≠ []
  f.one fun a =>
    if a.isVal then
      let v := a.data.toNat % 2 ^ lwidth m.t
      let (acc, fl) := if held then reduceOp m op (f.x.reg 0) v else (v, 0)
      .go 1 0 [] ((f.x.setReg 0 acc).carry (tVal 0)) (fun _ => none) (f.flags fl)
    else if a.kind = kStop then
      let r := if held then [put0 (tVal (f.x.reg 0))] else if op = 0 then [put0 (tVal 0)] else []
      plainStep 1 0 (r ++ (if a.level = 0 then [] else [put0 (tStop (a.level - 1))])) f.x.clear
    else plainStep 1 0 [put0 tDone] f.x.finish

/-- FVAL (R421): a null reference makes no access, and a physical-address token that holds one is still consumed. -/
def stepFval (f : Fibre) : FibreStep :=
  f.one fun a =>
    if !a.isVal then plainStep 1 0 [put0 a] (f.x.after a)
    else if a.ref = nul then .go 1 0 [put0 (tVal 0)] f.x (fun _ => none) (f.unpin a.data)
    else f.readTarget a false

/-- FGATH. -/
def stepFgath (f : Fibre) : FibreStep :=
  f.one fun a => if a.isVal then f.readTarget a true else plainStep 1 0 [put0 a] (f.x.after a)

/-- The end of a node that writes: the completion token, then DONE. -/
def Fibre.report (f : Fibre) (b : Nat) (payload : Nat) (act : State → State) : FibreStep :=
  .go 1 b [put0 (tVal payload), put0 tDone] f.x.finish (fun _ => none) act

/-- FWRC: state word 0 holds the VALs written and the fibres closed. A step that writes passes the check of the tile. -/
def stepFwrc (f : Fibre) : FibreStep :=
  let h := f.nd.handle
  let k := f.x.reg 0 % 2 ^ 32
  let fb := f.x.reg 0 / 2 ^ 32
  let first (s : State) : State := if f.x.reg 0 = 0 then s.putCell f.e h 0 0 0 else s
  let gate := f.s.twoRows f.e h 32 gateWrite
  f.one fun a =>
    if a.isVal then
      gate.step (.go 1 0 [] (f.x.setReg 0 (fb * 2 ^ 32 + (k + 1) % 2 ^ 32)) (fun _ => none) (fun s => (first s).putCell f.e h 1 k a.coord))
    else if a.kind = kStop then
      let fb' := (fb + 1) % 2 ^ 32
      gate.step (.go 1 0 [] (f.x.setReg 0 (fb' * 2 ^ 32 + k)) (fun _ => none) (fun s => (first s).putCell f.e h 0 fb' k))
    else (if f.x.reg 0 = 0 then gate else .ok).step (f.report 0 (fb * 2 ^ 32 + k) first)

/-- FWRV. -/
def stepFwrv (f : Fibre) : FibreStep :=
  f.aligned
    (fun a b => if b.ref = nul then .go 1 1 [] f.x (fun _ => none) (f.unpin b.data) else f.writeTarget a b false)
    (fun a _ => if a.kind = kDone then f.report 1 (f.x.reg 0) id else plainStep 1 1 [] f.x)

/-- FSCAT. -/
def stepFscat (f : Fibre) : FibreStep :=
  f.aligned (fun a b => f.writeTarget a b true)
    (fun a _ => if a.kind = kDone then f.report 1 (f.x.reg 0) id else plainStep 1 1 [] f.x)

/-- FSTEER (R422). -/
def stepFsteer (f : Fibre) : FibreStep :=
  f.aligned (fun a b => plainStep 1 1 (if bits b.data 0 0 ≠ f.nd.param then [put0 a] else []) f.x)
    (fun a _ => plainStep 1 1 [put0 a] (f.x.after a))

/-- FDROP. -/
def stepFdrop (f : Fibre) : FibreStep := f.mapped fun _ => []

/-- FSINK: state word 0 counts DONE tokens. -/
def stepFsink (f : Fibre) : FibreStep :=
  f.one fun a => plainStep 1 0 [] (if a.kind = kDone then (f.x.setReg 0 (f.x.reg 0 + 1)).finish else f.x.sawStop a)

/-- FLOOPC (R423): state word 1 holds the mode, 0 FRONT, 1 BACK, 2 ECHO, 3 ECHO-DONE, and word 2 the count j. -/
def stepFloopc (f : Fibre) : FibreStep :=
  let mode := f.x.reg 1
  let j := f.x.reg 2
  match f.x.toks with
  | t :: _ => plainStep 0 0 [put0 t] f.x.clear
  | [] =>
    if mode = 0 then
      f.one fun a =>
        let y := f.x.carry a
        plainStep 1 0 [] (if a.isVal then (y.setReg 2 1).setReg 1 1 else if a.kind = kStop then y.setReg 1 2 else y.setReg 1 3)
    else
      match f.b with
      | none => .wait
      | some b =>
        if mode = 1 && b.isVal then
          if j < f.nd.param then plainStep 0 1 [] ((f.x.carry b).setReg 2 (j + 1)) else plainStep 0 1 [] (f.x.setReg 1 0)
        else if mode = 2 && b.kind = kStop then plainStep 0 1 [] (f.x.setReg 1 0)
        else if mode = 3 && b.kind = kDone then plainStep 0 1 [] f.x.finish
        else f.mismatch

/-- FJOIN (R424): bit 0 of state word 0 says that b is exhausted. -/
def stepFjoin (f : Fibre) : FibreStep :=
  if f.x.reg 0 = 0 then
    match f.b with
    | none => .wait
    | some b =>
      if b.kind = kDone then plainStep 0 1 [] (f.x.setReg 0 1)
      else
        f.one fun a => if a.kind = kDone then plainStep 0 1 [] f.x else plainStep 1 1 [put0 a] f.x
  else f.one fun a => plainStep 1 0 [put0 a] (f.x.after a)

/-- FCRD, FREF and FPACK (R426). -/
def stepFcrd (f : Fibre) : FibreStep := f.mapped fun a => [put0 (tVal a.coord)]
def stepFref (f : Fibre) : FibreStep := f.mapped fun a => [put0 (tVal a.ref)]
def stepFpack (f : Fibre) : FibreStep :=
  f.aligned (fun a b => plainStep 1 1 [put0 (fibreTok a.ref b.ref)] f.x) (fun a _ => plainStep 1 1 [put0 a] (f.x.after a))

/-! ### FXLATE (R165, R425) -/

/-- A leaf as FXLATE finds it for one address: absent where the page is missing. -/
def Fibre.leaf (f : Fibre) (va : Word) : Option Leaf :=
  let w : Bool := f.nd.param = 1
  match (f.s.dieLeaf (dieOf f.e.place) (f.s.strand f.e.c f.e.k).satp va).1 with
  | some l => if w && l.w && !l.d then none else some l
  | none => none

/-- The page address of a virtual address. -/
def pageAddr (va : Word) : Word := word (va.toNat / 4096 * 4096)

/-- Tokens of the strip that are present: to the next stop, and at most `room` of them. -/
def Fibre.strip (f : Fibre) (room : Nat) : List Token := (f.ta.takeWhile Token.isVal).take room

/-- FXLATE: state word 1 counts the tokens of the strip already translated. -/
def stepFxlate (f : Fibre) : FibreStep :=
  f.one fun a =>
    if !a.isVal then plainStep 1 0 [put0 a] ((f.x.setReg 1 0).after a)
    else
      let len := max f.e.vl 1
      let done := f.x.reg 1
      let w : Bool := f.nd.param = 1
      let walked (s : State) : State := (s.dieLeaf (dieOf f.e.place) (f.s.strand f.e.c f.e.k).satp a.data).2
      let good : Option Leaf := (f.leaf a.data).filter fun l => (probeCheck f.user (!w) w l).isNone
      match good with
      | some l =>
        .go 1 0 [put0 (tVal (physWord (l.page.base.plus (a.data.toNat % 4096))).toNat)] (f.x.setReg 1 ((done + 1) % len))
          (fun _ => none) (fun s => (walked s).pinAll [l.page])
      | none =>
        let ts := f.strip (len - done)
        let q := f.s.queue f.e.place (f.nd.a - 48)
        let whole : Bool := ts.length = len - done || (f.ta.drop ts.length).any Token.ends || q.d ≤ q.held
        if !whole then .wait
        else if (f.leaf a.data).isSome then .bad (devFault fProtection (if w then 1 else 0) a.data)
        else
          let missing := (((ts.filter fun t => (f.leaf t.data).isNone).map fun t => pageAddr t.data).eraseDups).take 16
          .bad { devFault fPageFault missing.length (missing.headD 0) with pages := missing }

/-! ### FHASHI (R427) -/

/-- What an insert comes to. -/
inductive Insert where
  | fault (f : Exc)
  | new
  | added
  | full
  deriving DecidableEq, Repr

/-- Entries `i` onward of the table of `size` entries, for a key and a value. -/
def State.insert (e : Env) (m : Mode) (h : Word) (size key v : Nat) : Nat → Nat → State → Insert × State
  | 0, _, s => (.full, s)
  | k + 1, i, s =>
    let p := (key + i) % size
    match s.cellPoison e h 0 p with
    | some f => (.fault f, s)
    | none =>
      let (r0, s1) := s.cell e h 0 p
      if r0 / 2 ^ 63 = 0 then (.new, (s1.putCell e h 0 p (2 ^ 63 + key)).putCell e h 1 p v)
      else if r0 % 2 ^ 32 = key then
        match s1.cellPoison e h 1 p with
        | some f => (.fault f, s1)
        | none =>
          let (r1, s2) := s1.cell e h 1 p
          let (x, fl) := if isI m.t then fitInt m.t m.sat (intVal m.t r1 + intVal m.t v)
            else fadd (fmt m.t) m.rnd m.sat (r1 % 2 ^ lwidth m.t) v
          (.added, (if fl = 0 then s2 else s2.onStrand e.c e.k fun t => t.flag fl).putCell e h 1 p x)
      else State.insert e m h size key v k (i + 1) s1

/-- FHASHI: state word 0 counts the inserts of the fibre and the overflows. An insert passes the check of the tile. -/
def stepFhashi (f : Fibre) : FibreStep :=
  let h := f.nd.handle
  let m := f.e.mode gI
  let size := (f.s.tile f.e.place (handleSlot h)).cols
  let ins := f.x.reg 0 % 2 ^ 32
  let ovf := f.x.reg 0 / 2 ^ 32
  f.one fun a =>
    if a.isVal then
      let run (s : State) : Insert × State := State.insert f.e m h size a.coord (a.ref % 2 ^ lwidth m.t) size 0 s
      let x := match (run f.s).1 with
        | .new => f.x.setReg 0 (ovf * 2 ^ 32 + (ins + 1) % 2 ^ 32)
        | .full => f.x.setReg 0 ((ovf + 1) % 2 ^ 32 * 2 ^ 32 + ins)
        | _ => f.x
      (f.s.twoRows f.e h 64 gateWrite).step
        (.go 1 0 [] x (fun s => match (run s).1 with | .fault y => some y | _ => none) (fun s => (run s).2))
    else if a.kind = kStop then
      plainStep 1 0 (put0 (tVal (f.x.reg 0)) :: (if a.level = 0 then [] else [put0 (tStop (a.level - 1))])) (f.x.setReg 0 0)
    else plainStep 1 0 [put0 tDone] f.x.finish

/-- RMATCH (R428). -/
def stepRmatch (f : Fibre) : FibreStep :=
  f.one fun a =>
    if a.isVal then
      let n := (f.ta.takeWhile Token.isVal).length
      let len := min 32 n
      if f.ta.length ≤ len then .wait
      else
        match f.b with
        | none => .wait
        | some b =>
          if b.isVal then
            plainStep len 1 ((0, .scale (BitVec.ofNat 16 ((len - 1) * 256 + bits b.data 7 0))) :: (f.ta.take len).map put0) f.x
          else f.mismatch
    else f.aligned (fun _ _ => .wait) (fun a _ => plainStep 1 1 [put0 a] (f.x.after a))

/-- The step of a fibre word by its OPN. -/
def fibreStep (opn : Nat) : Fibre → FibreStep :=
  match opn with
  | 0xB0 => stepFscan
  | 0xB1 => stepFscand
  | 0xB2 => stepFisect
  | 0xB3 => stepFunion
  | 0xB4 => stepFrept
  | 0xB5 => stepFredc
  | 0xB6 => stepFval
  | 0xB7 => stepFwrc
  | 0xB8 => stepFwrv
  | 0xB9 => stepFsteer
  | 0xBA => stepFmerge
  | 0xBB => stepFloopc
  | 0xBC => stepFjoin
  | 0xBD => stepFxlate
  | 0xBE => stepFgath
  | 0xBF => stepFscat
  | 0xC0 => stepFsink
  | 0xC1 => stepFcrd
  | 0xC2 => stepFref
  | 0xC3 => stepFpack
  | 0xC4 => stepFhashi
  | 0xC5 => stepFdrop
  | 0xC6 => stepRmatch
  | _ => fun _ => .wait

/-! ## Taking a step -/

/-- The inputs a and b of a node, and an output by number. -/
def Env.refOf (rs : List QRef) (f : Nat) : Option QRef := rs.find? fun r => r.field = f

/-- Pushes tokens and scale tokens, each to its output. -/
def State.pushOut (e : Env) (d : Nat) : List (Nat × QItem) → State → State
  | [], s => s
  | (o, i) :: l, s =>
    State.pushOut e d l (match Env.refOf e.outs (d + o) with
      | some r => s.pushQ e r i
      | none => s)

/-- Tokens and scale tokens that a step pushes to output `o`. -/
def tokensFor (out : List (Nat × QItem)) (o : Nat) : Nat :=
  (out.filter fun x => x.1 = o && (match x.2 with | .tok _ => true | .scale _ => false)).length
def scalesFor (out : List (Nat × QItem)) (o : Nat) : Nat :=
  (out.filter fun x => x.1 = o && (match x.2 with | .tok _ => false | .scale _ => true)).length

/-- Every output has room for what a step pushes. -/
def State.roomOut (s : State) (e : Env) (d : Nat) (out : List (Nat × QItem)) : Bool :=
  [0, 1].all fun o =>
    match Env.refOf e.outs (d + o) with
    | some r => tokensFor out o ≤ s.roomIn r && scalesFor out o ≤ s.bandIn r
    | none => true

/-- Takes one step of node `n` of slot `sl` of core `c`, whole or not at all. -/
def State.takeStep (s : State) (c sl n : Nat) (temporal : Bool) (step : Fibre → FibreStep) : Done × State :=
  let y := s.slot c sl
  let r := y.rec_
  let nd := r.node n
  let e := s.nodeEnv c sl n temporal 0 0
  let ra := Env.refOf e.ins nd.a
  let rb := if nd.class_ 2 == .q then Env.refOf e.ins nd.b else none
  let toks (q : Option QRef) : List Token := match q with
    | some q => tokensOf (s.queue q.core q.q).items
    | none => []
  let f : Fibre :=
    { s := s, e := e, nd := nd, x := y.node n, user := y.user, ta := toks ra, tb := toks rb,
      physical := (r.ins n).any fun i => r.physical i }
  match step f with
  | .wait => (.stall, s)
  | .bad x => (.trap 0 ((s.headFaults e.ins false).getD x), s)
  | .go a b out x check act =>
    let pops : List (QRef × Nat) :=
      if ra = rb then ra.toList.map fun q => (q, max a b)
      else (ra.toList.map fun q => (q, a)) ++ (rb.toList.map fun q => (q, b))
    if !s.roomOut e nd.d out then (.stall, s)
    else
      let broken := pops.map fun p => (runFault p.2 (s.queue p.1.core p.1.q)).map fun k => malformed k p.1.q
      let latched := e.outs.map fun q => if out.any (fun o => nd.d + o.1 = q.field) then s.latchFault e q else none
      match firstExc (broken ++ latched) with
      | some x => (.trap 0 x, s)
      | none =>
        match check s with
        | some x => (.trap 0 x, s.notePoison e x)
        | none =>
          let s1 := pops.foldl (fun (u : State) p => (popRun e p.1 p.2 u).2) s
          (.ok 1, (State.pushOut e nd.d out (act s1)).setNode c sl n x)

/-- Up to `k` steps: one firing in the temporal reading (R416). -/
def State.takeSteps (c sl n : Nat) (step : Fibre → FibreStep) : Nat → Nat → State → Done × State
  | 0, m, s => (.ok m, s)
  | k + 1, m, s =>
    if ((s.slot c sl).node n).finished then (.ok m, s)
    else
      match s.takeStep c sl n true step with
      | (.ok _, s1) => State.takeSteps c sl n step k (m + 1) s1
      | (.stall, _) => if m = 0 then (.stall, s) else (.ok m, s)
      | r => r

/-- Event 0x11 of the node's core (R279). -/
def countFu (core : Nat) (r : Done × State) : Done × State :=
  match r with
  | (.ok m, s1) =>
    if m = 0 then r
    else (.ok m, s1.onCore core fun y => { y with events := SMap.set 0 y.events 0x11 (SMap.get 0 y.events 0x11 + 1) })
  | _ => r

/-- One firing of a fibre node. -/
def State.fireFu (s : State) (c sl n : Nat) (temporal : Bool) (step : Fibre → FibreStep) : Done × State :=
  let core := ((s.slot c sl).rec_.node n).core
  countFu core (if temporal then State.takeSteps c sl n step 64 0 s else s.takeStep c sl n false step)

end Sys2Proof.Machine
end

