-- ==== Sys2Proof/Machine/Ports.lean ====
section
/-!
DEFINITION. Stream ports: SBIND and SUNBIND (R214, R412, R413), and the elements that a source pushes and a sink writes (R169,
R203, R215, R216).
-/
namespace Sys2Proof.Machine

/-! ## Binding -/

/-- A descriptor that breaks R214. -/
def badDescriptor (ws : List Word) : Bool :=
  let p : Port := { Port.reset with desc := ws }
  bits (p.w 1) 63 16 ≠ 0 || bit (p.w 1) 11 || p.dims = 4 || 4 < p.esz || (p.tiled && bits (p.w 0) 63 20 ≠ 0) ||
    (List.range 3).any (fun i => bits (p.w (2 + i)) 63 32 ≠ 0 || (p.dims ≤ i && (p.w (2 + i)).toNat ≠ 1))

/-- A slot of core `c` that is not FREE names port `u`. -/
def State.portNamed (s : State) (c u : Nat) : Bool :=
  s.cores.any fun e => e.2.slots.any fun x => x.2.state ≠ .free && x.2.rec_.namesPort c u

/-- CHAIN_CONFIG with a reason (R253). -/
def chainConfig (reason : Nat) (stval : Word) : Exc := devFault fChainConfig reason stval

/-- SBIND: its reads come after the strand's older stores to the descriptor (R24). -/
def execSbind (rd rs1 rs2 : BitVec 5) (s : State) : Host.Outcome State Fault Refusal :=
  xr 0x1B rd rs1 rs2 .z .s .x (fun raw s =>
    let c := s.who.1
    let k := s.who.2
    let u := rs1.toNat
    let va := rx s rs2
    if va.toNat % 8 ≠ 0 then s.raise (exc 4 va)
    else if s.storeQueued c k (s.wordSpan c k va 8) then s
    else
      match State.readWords c k 8 va s [] with
      | (.error x, s1) => s1.raise x
      | (.ok ws, s1) =>
        let p := s1.port c u
        let new : Port := { Port.reset with state := .bound, desc := ws, strand := k }
        let same : Bool := new.q = p.q && new.sink = p.sink && new.tiled = p.tiled && new.dims = p.dims && new.esz = p.esz
        if p.state ≠ .unbound && p.strand ≠ k then s1.raise (illegalWord raw 1)
        else if badDescriptor ws then s1.raise (illegalWord raw 2)
        else if p.state = .active then s
        else if s1.portNamed c u && !same then s1.raise (chainConfig 0x0B 0)
        else (s1.setPort c u new).done) s

/-- SUNBIND. -/
def execSunbind (rd rs1 rs2 : BitVec 5) (s : State) : Host.Outcome State Fault Refusal :=
  xr 0x1C rd rs1 rs2 .z .s .z (fun raw s =>
    let c := s.who.1
    let u := rs1.toNat
    let p := s.port c u
    if p.state = .unbound then s.done
    else if p.strand ≠ s.who.2 then s.raise (illegalWord raw 1)
    else if s.portNamed c u then s.raise (chainConfig 0x0B 0)
    else (s.setPort c u Port.reset).done) s

/-! ## The pattern (R214, R215) -/

/-- Extents and strides. -/
def Port.count (p : Port) (i : Nat) : Nat := bits (p.w (2 + i)) 31 0
def Port.stride (p : Port) (i : Nat) : Int := if i < p.dims then (p.w (5 + i)).toInt else 0

/-- A pattern of no elements. -/
def Port.void (p : Port) : Bool := p.count 0 = 0 || p.count 1 = 0 || p.count 2 = 0

/-- Bits of an element (R214). -/
def Port.bits_ (p : Port) : Nat := if p.esz = 4 then 4 else 8 * 2 ^ p.esz

/-- Bytes that an access of one element reaches, and their alignment. -/
def Port.bytes (p : Port) : Nat := if p.esz = 4 then 1 else 2 ^ p.esz

/-- The element's offset in a tile. -/
def Port.offset (p : Port) : Int := p.i0 * p.stride 0 + p.i1 * p.stride 1 + p.i2 * p.stride 2

/-- The address of the element, and for a 4-bit element the nibble within its byte: stride0 then counts nibbles. -/
def Port.nibble (p : Port) : Nat := if p.esz = 4 then (p.i0 * p.stride 0 % 2).toNat else 0
def Port.addr (p : Port) : Word :=
  let first : Int := if p.esz = 4 then (p.i0 * p.stride 0 - p.nibble) / 2 else p.i0 * p.stride 0
  p.w 0 + BitVec.ofInt 64 (first + p.i1 * p.stride 1 + p.i2 * p.stride 2)

/-- The port after its element: the next position, and the STOP that follows where the element was the last of its dimension. -/
def Port.next (p : Port) : Port :=
  if p.i0 + 1 < p.count 0 then { p with i0 := p.i0 + 1 }
  else if p.i1 + 1 < p.count 1 then { p with i0 := 0, i1 := p.i1 + 1, stop := some 0 }
  else if p.i2 + 1 < p.count 2 then { p with i0 := 0, i1 := 0, i2 := p.i2 + 1, stop := some (min 1 (p.dims - 1)) }
  else { p with i0 := 0, i1 := 0, i2 := 0, stop := some (p.dims - 1), past := true }

/-- The port at the start of its pattern, ACTIVE (R216, R406). -/
def Port.start (p : Port) : Port :=
  { p with state := .active, i0 := 0, i1 := 0, i2 := 0, stop := none, past := p.void, gather := [], gatherT := [] }

/-! ## Checks (R123, R131, R134, R216) -/

/-- What a node finds when it checks a handle or an address: nothing wrong, a wait, or a fault. -/
def Port.check (p : Port) (s : State) (e : Env) : TileCheck :=
  if p.tiled then
    let h := p.w 0
    let t := s.tile e.place (handleSlot h)
    if !s.handleOk e.place h then .bad (handleStale h)
    else
      match (if p.sink then gateWrite else gateRead) t.state with
      | .legal => if t.res = 0 then .ok else .stall
      | .waits => .stall
      | .fault => .bad (handleState h t.state)
  else .ok

/-- The checks of a DRAM element: alignment, then the probe, whose PROBE_MISSING names the element (R95), and for a sink the step
records (R44). -/
def Port.elemFault (p : Port) (s : State) (e : Env) : Option Exc :=
  if p.tiled then none
  else
    let va := p.addr
    let pr := (s.strand e.c e.k).probe p.probe
    if va.toNat % p.bytes ≠ 0 then some (devFault fMisaligned p.bytes va)
    else if !pr.live then some (devFault fProbeMissing p.probe va)
    else orElse (probeFault pr p.probe 0 va p.bytes (!p.sink) p.sink)
      (if p.sink then s.recordExc (s.forUser e) va (pr.phys va) else none)

/-! ## Sources (R215) -/

/-- The element at the position, its payload, and the state after the read. -/
def Port.read (p : Port) (s : State) (e : Env) : Nat × State :=
  if p.tiled then
    let (v, s1) := s.tileRead e.c e.k e.place (p.w 0) p.offset
    (v % 2 ^ p.bits_, s1)
  else
    let (v, s1) := s.vread e.c e.k (((s.strand e.c e.k).probe p.probe).phys p.addr) p.bytes
    (v / 16 ^ p.nibble % 2 ^ p.bits_, s1)

/-- POISON of that read. -/
def Port.poison (p : Port) (s : State) (e : Env) : Option Exc :=
  if p.tiled then s.tilePoisonExc e.c e.place (p.w 0) p.offset
  else s.poisonExc e.c p.addr (((s.strand e.c e.k).probe p.probe).phys p.addr)

/-- The payload: sign-extended where the descriptor asks for it (R203). -/
def Port.payload (p : Port) (v : Nat) : Nat :=
  if p.signed && v / 2 ^ (p.bits_ - 1) = 1 then v + (2 ^ 64 - 2 ^ p.bits_) else v

/-- Pushes up to `k` tokens of the pattern, as many as there is room for. -/
def State.pushPattern (c sl n : Nat) (e : Env) (u : Nat) (r : QRef) : Nat → Nat → State → Done × State
  | 0, m, s => (.ok m, s)
  | k + 1, m, s =>
    let p := s.port e.place u
    if p.state ≠ .active || s.roomIn r = 0 then (.ok m, s)
    else
      match s.latchFault e r with
      | some f => (.trap 0 f, s)
      | none =>
        match p.stop with
        | some j =>
          State.pushPattern c sl n e u r k (m + 1) ((s.pushQ e r (.tok (tStop j))).setPort e.place u { p with stop := none })
        | none =>
          if p.past then
            let s1 := (s.pushQ e r (.tok tDone)).setPort e.place u { p with state := .ended }
            (.ok (m + 1), s1.setNode c sl n ((s1.slot c sl).node n).finish)
          else
            match p.check s e with
            | .stall => (.ok m, s)
            | .bad f => (.trap 0 f, s)
            | .ok =>
              match orElse (p.elemFault s e) (p.poison s e) with
              | some f => (.trap 0 f, s.notePoison e f)
              | none =>
                let (v, s1) := p.read s e
                State.pushPattern c sl n e u r k (m + 1) ((s1.pushQ e r (.tok (tVal (p.payload v)))).setPort e.place u p.next)

/-! ## Sinks (R169, R215) -/

/-- The accesses of a port that are issued and not performed (R216): those of the line that a sink gathers. DESIGN CHOICE (log 115): a
source reads a line when it pushes its tokens, never ahead of them. -/
def Port.inFlight (p : Port) : Nat := (p.gather.map fun x => x.1.line).eraseDups.length + (if p.gatherT = [] then 0 else 1)

/-- Performs the write transaction that a sink has gathered: bytes given whole, and bytes of which it gives one nibble, which take the
other as it stands now and do not help to cover the line (R169, R174). -/
def State.flushPort (s : State) (c u : Nat) : State :=
  let p := s.port c u
  let whole := p.gather.filter fun x => x.2.2 = 0xFF
  let half := p.gather.filter fun x => x.2.2 ≠ 0xFF
  let s1 := if p.inFlight = 0 then s
    else s.storeWith (.other (dieOf c)) (whole.map fun x => (x.1, x.2.1))
      (half.map fun x => (x.1, (s.byteAt x.1 &&& ~~~x.2.2) ||| x.2.1))
  let n := handleSlot (p.w 0)
  let s2 := if p.gatherT = [] || !s1.handleOk c (p.w 0) then s1 else s1.tileStore c n (s1.tile c n) p.gatherT
  s2.setPort c u { p with gather := [], gatherT := [] }

/-- The bytes of an element, with the bits that it gives: a 4-bit one gives a nibble of its byte. -/
def Port.pieces (p : Port) (q : Phys) (v : Nat) : List (Phys × Byte × Byte) :=
  if p.esz = 4 then
    [if p.nibble = 0 then (q, BitVec.ofNat 8 (v % 16), 0x0F#8) else (q, BitVec.ofNat 8 (v % 16 * 16), 0xF0#8)]
  else (piecesOf q (toBytes v p.bytes)).map fun x => (x.1, x.2, 0xFF#8)

/-- A byte joins what a sink gathers, over the bits of that byte that it gives. -/
def gatherByte (g : List (Phys × Byte × Byte)) (x : Phys × Byte × Byte) : List (Phys × Byte × Byte) :=
  match g.find? fun y => y.1 = x.1 with
  | some y => g.filter (fun z => z.1 ≠ x.1) ++ [(x.1, (y.2.1 &&& ~~~x.2.2) ||| x.2.1, y.2.2 ||| x.2.2)]
  | none => g ++ [x]

/-- Writes the element at the position: into the line that the port gathers, which an element of another line ends (R169). -/
def State.writeElem (s : State) (e : Env) (u : Nat) (p : Port) (v : Nat) : State :=
  if p.tiled then
    let t := s.tile e.place (handleSlot (p.w 0))
    let off := p.offset
    if off < 0 || (t.size : Int) ≤ off then s.onStrand e.c e.k fun st => st.oor (p.w 0) true off
    else
      let s1 := if p.gatherT.any fun x => t.lineOf x.1 ≠ t.lineOf off.toNat then s.flushPort e.place u else s
      let p1 := s1.port e.place u
      s1.setPort e.place u { p1 with gatherT := p1.gatherT.filter (·.1 ≠ off.toNat) ++ [(off.toNat, v % 2 ^ t.w)] }
  else
    let q := ((s.strand e.c e.k).probe p.probe).phys p.addr
    let s1 := if p.gather.any fun x => x.1.line ≠ q.line then s.flushPort e.place u else s
    let p1 := s1.port e.place u
    (s1.touch q).setPort e.place u { p1 with gather := (p1.pieces q v).foldl gatherByte p1.gather }

/-- The token that a pattern's position calls for: VAL, a STOP of a level, or DONE (R215). -/
def Port.expects (p : Port) (t : Token) : Bool :=
  match p.stop with
  | some j => t = tStop j
  | none => if p.past then t = tDone else t.isVal

/-- Pops up to `k` tokens, as many as there are. -/
def State.popPattern (c sl n : Nat) (e : Env) (u : Nat) (r : QRef) : Nat → Nat → State → Done × State
  | 0, m, s => (.ok m, s)
  | k + 1, m, s =>
    let p := s.port e.place u
    match p.state, (s.queue r.core r.q).head with
    | .active, some t =>
      match s.headFault r false with
      | some f => (.trap 0 f, s)
      | none =>
        if !p.expects t then (.trap 0 (malformed 11 r.q), s)
        else if t.kind = kStop then
          let s1 := (s.popQ e r false).2.setPort e.place u { p with stop := none }
          State.popPattern c sl n e u r k (m + 1) (s1.setNode c sl n (((s1.slot c sl).node n).sawStop t))
        else if t.kind = kDone then
          let s1 := (s.popQ e r false).2.flushPort e.place u
          let s2 := s1.setPort e.place u { s1.port e.place u with state := .ended }
          (.ok (m + 1), s2.setNode c sl n ((s2.slot c sl).node n).finish)
        else
          match p.check s e with
          | .stall => (.ok m, s)
          | .bad f => (.trap 0 f, s)
          | .ok =>
            match p.elemFault s e with
            | some f => (.trap 0 f, s)
            | none =>
              let s1 := (s.popQ e r false).2.writeElem e u p t.data.toNat
              let p1 := s1.port e.place u
              State.popPattern c sl n e u r k (m + 1) (s1.setPort e.place u { p.next with gather := p1.gather, gatherT := p1.gatherT })
    | _, _ => (.ok m, s)

/-- A firing of a stream port: at most `k` tokens. -/
def State.firePort (s : State) (c sl n : Nat) (temporal : Bool) (k : Nat) : Done × State :=
  let r := (s.slot c sl).rec_
  let u := (r.node n).unit
  let e := s.nodeEnv c sl n temporal 0 0
  match e.ins, e.outs with
  | q :: _, _ => State.popPattern c sl n e u q k 0 s
  | [], q :: _ => State.pushPattern c sl n e u q k 0 s
  | [], [] => (.stall, s)

end Sys2Proof.Machine
end

