-- ==== Sys2Proof/Machine/Chain.lean ====
section
/-!
DEFINITION. Chain slots: the words CHCFG to CHBRK and PUNPIN (R121, R123, R403 to R411), tokens on links and circuits (R206,
R236, R257), the break of a chain (R35, R283), its remainder (R37, R268) and the completion of a run (R407).
-/
namespace Sys2Proof.Machine

/-! ## Queues and tags of a record -/

/-- The queues of a record that lie in the device: entry, core and queue. -/
def Rec.places (r : Rec) : List (Nat × Nat × Nat) :=
  ((List.range r.queues.length).map fun i => (i, r.queueCore (r.entry i), (r.entry i).q)).filter fun x => x.2.1 < 256

/-- Pages that physical-address tokens pin, in a queue or on their way to it (R164). -/
def pinnedBy (items : List QItem) : List PPage :=
  (tokensOf items).filterMap fun t => if t.isVal then pageOf (t.data.toNat / 4096) else none

/-- Puts `f` of each queue of a record in its place, the tokens it loses with their pins, and those on their way to it. -/
def State.overQueues (s : State) (r : Rec) (f : Nat → Queue → Queue) : State :=
  r.places.foldl (fun (u : State) x =>
    let q := u.queue x.2.1 x.2.2
    let u1 := if r.physical x.1 then u.unpinAll (pinnedBy (q.items ++ ((u.core x.2.1).flights.filter fun w => w.q = x.2.2).map (·.item))) else u
    (u1.setQueue x.2.1 x.2.2 (f x.1 q)).onCore x.2.1 fun y => { y with flights := y.flights.filter fun w => w.q ≠ x.2.2 }) s

/-- Forgets the phase pointers, the ADVANCE counts and the ports of a tag, in every router: the pointers read 0 from here on. -/
def State.clearTag (s : State) (t : Nat) : State :=
  { s with bound := s.bound.filter (fun e => e.1 / 8 ≠ t), phases := s.phases.filter (fun e => e.1 % 256 ≠ t), phaseLost := s.phaseLost.del t, advSent := s.advSent.del t,
           advPassed := s.advPassed.filter fun e => e.1 % 256 ≠ t }

/-- A released tag, whose pointers are undefined: `State.phase` gives each where it stands, or 0 (R10, R257). -/
def State.loseTag (s : State) (t : Nat) : State :=
  { s.clearTag t with phases := s.phases, phaseLost := s.phaseLost.put t (s.tick + 1) }

/-- Releases a slot (R405): its queues, its circuits, its counts and its record. -/
def State.releaseSlot (s : State) (c sl : Nat) : State :=
  let r := (s.slot c sl).rec_
  let s1 := s.overQueues r fun _ _ => Queue.reset
  let s2 := r.routes.foldl (fun (u : State) x => u.loseTag x.tag) s1
  s2.setSlot c sl Slot.reset

/-! ## The frame of a chain word (R403) -/

/-- A chain word on slot `sl` of the acting core: SLOT where its state forbids the word or another strand owns it. -/
def chainWord (allowed : SlotState → Bool) (f : Nat → State → State) (rs1 : BitVec 5) (s : State) : State :=
  let y := s.slot s.who.1 rs1.toNat
  if !allowed y.state || (y.state ≠ .free && y.owner ≠ s.who.2) then s.raise (chainConfig 1 0) else f rs1.toNat s

/-! ## CHCFG and CHREL (R404, R405) -/

/-- Reads elements `i` onward of a tile, `n` of them. -/
def State.readRecord (c k : Nat) (h : Word) : Nat → Nat → State → List Word → Except Exc (List Word) × State
  | 0, _, s, acc => (.ok acc.reverse, s)
  | n + 1, i, s, acc =>
    match s.tilePoisonExc c c h (i : Nat) with
    | some x => (.error x, s.poisonRead c k)
    | none =>
      let (v, s1) := s.tileRead c k c h (i : Nat)
      State.readRecord c k h n (i + 1) s1 (word v :: acc)

/-- The x values that the nodes keep (R250). -/
def heldValues (s : State) (r : Rec) : SMap Word :=
  (List.range r.nodes.length).foldl (fun m n => (r.node n).xFields.foldl (fun m f => SMap.set 0 m (xKey n f) (s.cur.x? f)) m) []

/-- Configures slot `sl` with an accepted record. -/
def State.configure (s : State) (sl : Nat) (ws : List Word) : State :=
  let c := s.who.1
  let t := s.cur
  let s1 := if (s.slot c sl).state = .free then s else s.releaseSlot c sl
  let r := parseRecord ws
  let s2 := s1.overQueues r fun i _ =>
    let e := r.entry i
    { Queue.reset with owner := some (4 * c + sl), d := e.d, n := e.n, sorted := e.sorted, bound := e.bound }
  let named (core q : Nat) : Bool := r.places.any fun x => x.2 = (core, q)
  let s3 := { s2 with strands := s2.strands.map fun e =>
    (e.1, { e.2 with watches := e.2.watches.filter fun w => !named (e.1 / 4) w.q }) }
  let s4 := r.routes.foldl (fun (u : State) x => (u.clearTag x.tag).bindTag x.tag) s3
  s4.setSlot c sl { Slot.reset with
    state := .idle, owner := s.who.2, record := ws, modes := t.modes, vl := t.vl.toNat, xval := heldValues s r,
    user := decide (t.priv = .u) }

/-- CHCFG: of the strand's older vector words, those that name a queue of the record complete first. -/
def execChcfg (rd rs1 rs2 : BitVec 5) (s : State) : Host.Outcome State Fault Refusal :=
  xr 0x13 rd rs1 rs2 .z .c .x (fun raw s =>
    chainWord (fun st => st = .free || st = .idle) (fun sl s =>
      let c := s.who.1
      let k := s.who.2
      let h := rx s rs2
      let t := s.tile c (handleSlot h)
      if !s.handleOk c h then s.raise (handleStale h)
      else if t.w ≠ 64 then s.raise (chainConfig 3 0)
      else
        match s.tileCheck c h 64 (illegalWord raw 2) gateRead with
        | .bad x => s.raise x
        | .stall => s
        | .ok =>
          match State.readRecord c k h 1 0 s [] with
          | (.error x, s1) => s1.raise x
          | (.ok head, _) =>
            match State.readRecord c k h (min (recordWords (head.headD 0)) t.size) 0 s [] with
            | (.error x, s1) => s1.raise x
            | (.ok ws, s1) =>
              match s1.validate c k sl h ws t.size s1.cur.modes s1.cur.vl.toNat with
              | some (code, stval) => s1.raise (chainConfig code stval)
              | none =>
                afterNaming (fun q => (parseRecord ws).places.any fun x => x.2.1 = c && q.namesQueue x.2.2)
                  (fun _ _ => (s1.configure sl ws).done) raw s) rs1 s) s

/-- CHREL. -/
def execChrel (rd rs1 rs2 : BitVec 5) (s : State) : Host.Outcome State Fault Refusal :=
  xr 0x14 rd rs1 rs2 .z .c .z (fun _ s =>
    chainWord (fun st => st = .free || st = .idle) (fun sl s =>
      (if (s.slot s.who.1 sl).state = .free then s else s.releaseSlot s.who.1 sl).done) rs1 s) s

/-! ## A fault token (R35, R281) -/

/-- vcause of a fault of node `n` of slot `sl`: chain is bit 25, rem bit 24. -/
def nodeCause (v : Word) (flag n sl : Nat) : Word := v + word (2 ^ flag + n * 2 ^ 26 + sl * 2 ^ 16)

/-- A fault token of node `n`: the chain begins to break, at a time that counts as read by the slot's owner (R274). -/
def State.nodeFault (s : State) (c sl n : Nat) (x : Exc) : State :=
  let bad : Bool := bits x.vcause 7 0 = fStreamMalformed
  let k := (s.slot c sl).owner
  (s.noteTime c k).setSlot c sl ((s.slot c sl).startBreak
    { cause := if bad then 2 else 1, node := n, queue := if bad then bits x.vcause 23 20 else 0,
      vcause := nodeCause x.vcause 25 n sl, stval := x.stval, pages := x.pages, time := s.timeFor c k })

/-! ## RUN (R406) -/

/-- PROBE_MISSING of a node or port whose probe is not live. -/
def liveProbe (s : State) (e : Env) (p : Nat) (stval : Word) : TileCheck :=
  if ((s.strand e.c e.k).probe p).live then .ok else .bad (devFault fProbeMissing p stval)

/-- Step 6 of R406 for one node: the handle or probe that it names. -/
def State.nodeCheck (s : State) (c sl n : Nat) : TileCheck :=
  let r := (s.slot c sl).rec_
  let x := r.node n
  let e := s.nodeEnv c sl n false 0 0
  let t := (e.mode gI).t
  if x.kind = 3 then
    let p := s.port x.core x.unit
    if p.tiled then p.check s e else liveProbe s e p.probe p.addr
  else if x.kind ≠ 2 then .ok
  else if x.opn = 0xB0 then s.twoRows e x.handle 32 gateRead
  else if x.opn = 0xB7 then s.twoRows e x.handle 32 gateWrite
  else if x.opn = 0xC4 then s.twoRows e x.handle 64 gateWrite
  else if x.targeted then
    if x.param < 2 ^ 31 then s.tileCheck e.place x.handle (width t) (e.modeType gI t) (if x.reports then gateWrite else gateRead)
    else if (r.ins n).any fun i => r.physical i then .ok
    else liveProbe s e (x.param % 8) (x.word.setWidth 64)
  else .ok

/-- The first node, from `n` on, whose check fails. A node whose handle has to be waited for does not fire, and is checked again
(R134, R135). -/
def State.runCheck (s : State) (c sl : Nat) : Nat → Nat → Option (Nat × Exc)
  | 0, _ => none
  | k + 1, n =>
    match s.nodeCheck c sl n with
    | .bad x => some (n, x)
    | _ => s.runCheck c sl k (n + 1)

/-- Registers that the nodes of a record write. -/
def Rec.regs (r : Rec) : List Nat := r.nodes.filterMap NEntry.writesReg

/-- The slot at the start of a run: FSINK counts alone are kept. -/
def Slot.started (y : Slot) : Slot :=
  let r := y.rec_
  let keep := (List.range r.nodes.length).filterMap fun n =>
    let v := (y.node n).reg 0
    if (r.node n).kind = 2 && (r.node n).opn = 0xC0 && v ≠ 0 then some (n, NodeState.reset.setReg 0 v) else none
  { y with state := .spatial, prog := [], strips := 0, brec := .reset, p := false, sv := false, nodes := keep, breaking := none,
           resume := false, passAt := 0, passFired := false, respond := false, away := false, idleMark := [],
           unwaited := true, wrote := [] }

/-- Steps 2 to 5 of R406. -/
def State.startRun (s : State) (c sl : Nat) : State :=
  let y := s.slot c sl
  let r := y.rec_
  let s1 := (s.overQueues r fun _ q => q.emptied).setSlot c sl y.started
  let s2 := r.nodes.foldl (fun (u : State) x => if x.kind = 3 then u.setPort x.core x.unit (u.port x.core x.unit).start else u) s1
  s2.onStrand c y.owner fun t => { t with feClear := r.regs.foldl (fun m v => SMap.set false m v true) t.feClear }

/-- RUN. -/
def execRun (rd rs1 rs2 : BitVec 5) (s : State) : Host.Outcome State Fault Refusal :=
  xr 0x15 rd rs1 rs2 .z .c .z (fun _ s =>
    chainWord (fun st => st = .idle) (fun sl s =>
      let c := s.who.1
      if !s.drained || s.copiesBusy c s.who.2 (s.core c).copyOrder then s
      else
        let s1 := ((s.startRun c sl).dropCache c).orderStores c s.who.2
        match s1.runCheck c sl (s1.slot c sl).rec_.nodes.length 0 with
        | none => s1.done
        | some (n, x) => (s1.nodeFault c sl n x).done) rs1 s) s

/-! ## Firing (R30) -/

/-- One firing of a node of any kind. -/
def State.fire (s : State) (c sl n : Nat) (temporal : Bool) : Done × State :=
  let x := (s.slot c sl).rec_.node n
  match x.kind with
  | 0 => s.fireLg c sl n temporal
  | 1 => s.fireMn c sl n temporal
  | 2 => s.fireFu c sl n temporal (fibreStep x.opn)
  | _ => s.firePort c sl n temporal 128

/-- A firing of a node of a SPATIAL chain that has not begun to break: `ok` says whether the event or word at hand is the
node's. -/
def State.spatialFire (s : State) (c sl n : Nat) (ok : NEntry → Bool) (f : State → Done × State) : State :=
  let y := s.slot c sl
  let r := y.rec_
  if y.state = .spatial && y.breaking.isNone && n < r.nodes.length && !(y.node n).finished && ok (r.node n) then
    match f s with
    | (.ok _, s1) => s1.spoil c sl n
    | (.stall, _) => s
    | (.trap _ x, s1) => s1.nodeFault c sl n x
  else s

/-- LG_NODE_FIRE. -/
def execLgNodeFire (core slot node : Nat) (s : State) : Host.Outcome State Fault Refusal :=
  finish (s.spatialFire core slot node (fun x => x.kind = 0) fun s => s.fireLg core slot node false)

/-- MN_NODE_FIRE. -/
def execMnNodeFire (core slot node : Nat) (s : State) : Host.Outcome State Fault Refusal :=
  finish (s.spatialFire core slot node (fun x => x.kind = 1) fun s => s.fireMn core slot node false)

/-- SOURCE_PORT_PUSH. -/
def execSourcePortPush (core slot node : Nat) (s : State) : Host.Outcome State Fault Refusal :=
  finish (s.spatialFire core slot node (fun x => x.kind = 3 && (s.slot core slot).rec_.ins node = [])
    fun s => s.firePort core slot node false 128)

/-- SINK_PORT_WRITE. -/
def execSinkPortWrite (core slot node : Nat) (s : State) : Host.Outcome State Fault Refusal :=
  finish (s.spatialFire core slot node (fun x => x.kind = 3 && (s.slot core slot).rec_.ins node ≠ [])
    fun s => s.firePort core slot node false 128)

/-- A fibre word: a firing of the node that acts, whose word it is; a strand that issues one is refused (R414). -/
def fibreWord (i : Instr) (step : Fibre → FibreStep) (s : State) : Host.Outcome State Fault Refusal :=
  finish (match s.agent with
    | .strand .. => strandNode i s
    | .node c sl n =>
      s.spatialFire c sl n (fun x => x.kind = 2 && x.word = encode i) fun s => s.fireFu c sl n false step)

/-- FSCAN (R417). -/
def execFscan (d a b : BitVec 6) (s : State) : Host.Outcome State Fault Refusal := fibreWord (.fscan d a b) stepFscan s

/-- FSCAND (R417). -/
def execFscand (d a b : BitVec 6) (s : State) : Host.Outcome State Fault Refusal := fibreWord (.fscand d a b) stepFscand s

/-- FISECT (R418). -/
def execFisect (d a b : BitVec 6) (s : State) : Host.Outcome State Fault Refusal := fibreWord (.fisect d a b) stepFisect s

/-- FUNION (R418). -/
def execFunion (d a b : BitVec 6) (s : State) : Host.Outcome State Fault Refusal := fibreWord (.funion d a b) stepFunion s

/-- FREPT (R419). -/
def execFrept (d a b : BitVec 6) (s : State) : Host.Outcome State Fault Refusal := fibreWord (.frept d a b) stepFrept s

/-- FREDC (R420). -/
def execFredc (d a b : BitVec 6) (s : State) : Host.Outcome State Fault Refusal := fibreWord (.fredc d a b) stepFredc s

/-- FVAL (R421). -/
def execFval (d a b : BitVec 6) (s : State) : Host.Outcome State Fault Refusal := fibreWord (.fval d a b) stepFval s

/-- FWRC (R421). -/
def execFwrc (d a b : BitVec 6) (s : State) : Host.Outcome State Fault Refusal := fibreWord (.fwrc d a b) stepFwrc s

/-- FWRV (R421). -/
def execFwrv (d a b : BitVec 6) (s : State) : Host.Outcome State Fault Refusal := fibreWord (.fwrv d a b) stepFwrv s

/-- FSTEER (R422). -/
def execFsteer (d a b : BitVec 6) (s : State) : Host.Outcome State Fault Refusal := fibreWord (.fsteer d a b) stepFsteer s

/-- FMERGE (R418). -/
def execFmerge (d a b : BitVec 6) (s : State) : Host.Outcome State Fault Refusal := fibreWord (.fmerge d a b) stepFmerge s

/-- FLOOPC (R423). -/
def execFloopc (d a b : BitVec 6) (s : State) : Host.Outcome State Fault Refusal := fibreWord (.floopc d a b) stepFloopc s

/-- FJOIN (R424). -/
def execFjoin (d a b : BitVec 6) (s : State) : Host.Outcome State Fault Refusal := fibreWord (.fjoin d a b) stepFjoin s

/-- FXLATE (R425). -/
def execFxlate (d a b : BitVec 6) (s : State) : Host.Outcome State Fault Refusal := fibreWord (.fxlate d a b) stepFxlate s

/-- FGATH (R421). -/
def execFgath (d a b : BitVec 6) (s : State) : Host.Outcome State Fault Refusal := fibreWord (.fgath d a b) stepFgath s

/-- FSCAT (R421). -/
def execFscat (d a b : BitVec 6) (s : State) : Host.Outcome State Fault Refusal := fibreWord (.fscat d a b) stepFscat s

/-- FSINK (R422). -/
def execFsink (d a b : BitVec 6) (s : State) : Host.Outcome State Fault Refusal := fibreWord (.fsink d a b) stepFsink s

/-- FCRD (R426). -/
def execFcrd (d a b : BitVec 6) (s : State) : Host.Outcome State Fault Refusal := fibreWord (.fcrd d a b) stepFcrd s

/-- FREF (R426). -/
def execFref (d a b : BitVec 6) (s : State) : Host.Outcome State Fault Refusal := fibreWord (.fref d a b) stepFref s

/-- FPACK (R426). -/
def execFpack (d a b : BitVec 6) (s : State) : Host.Outcome State Fault Refusal := fibreWord (.fpack d a b) stepFpack s

/-- FHASHI (R427). -/
def execFhashi (d a b : BitVec 6) (s : State) : Host.Outcome State Fault Refusal := fibreWord (.fhashi d a b) stepFhashi s

/-- FDROP (R422). -/
def execFdrop (d a b : BitVec 6) (s : State) : Host.Outcome State Fault Refusal := fibreWord (.fdrop d a b) stepFdrop s

/-- RMATCH (R428). -/
def execRmatch (d a b : BitVec 6) (s : State) : Host.Outcome State Fault Refusal := fibreWord (.rmatch d a b) stepRmatch s

/-! ## Links, circuits and limiters (R206, R218, R236, R257) -/

/-- A flight comes from outside the region of core `c`: the queue is an input port (R236). -/
def State.fromOutside (s : State) (c : Nat) (f : Flight) : Bool :=
  match f.slot with
  | none => f.node = 63
  | some i =>
    let x := (s.slot (i / 4) (i % 4)).rec_.node f.node
    (s.core x.core).region != (s.core c).region

/-- The limit T in force at the input ports of core `c`. -/
def State.limitOf (s : State) (c : Nat) : Option Nat := (s.core c).limit.map (·.1)

/-- An item is a VAL token. -/
def QItem.isVal : QItem → Bool
  | .tok t => t.isVal
  | .scale _ => false

/-- A flight lands in queue `f.q` of core `c`: after DONE it is not stored, and its sending node raises the fault. DESIGN CHOICE (log 133):
what a VPUSH sent while the latch was clear has no such node, and is dropped without a fault. -/
def State.land (s : State) (c : Nat) (f : Flight) : State :=
  let q := s.queue c f.q
  match q.doneLatch, f.item, f.slot with
  | true, .tok _, some i => s.nodeFault (i / 4) (i % 4) f.node (malformed 6 f.q)
  | true, .tok _, none => s
  | _, _, _ => s.setQueue c f.q (q.push f.item)

/-- The ADVANCE words of tag `t` that go ahead of an item leave router `r` before it (R257). -/
def State.passTo (s : State) (r t n : Nat) : State :=
  (List.range (n - SMap.get 0 s.advPassed (256 * r + t))).foldl (fun (u : State) _ => u.passAdvance r t) s

/-- A flight reaches core `c`: on a circuit it first meets the router there (R256). -/
def State.arrive (s : State) (c : Nat) (f : Flight) : State :=
  match f.via with
  | none => s.land c f
  | some t => (s.passTo c t f.adv).routed c t fun u => u.land c f

/-- The items that core `c` has before it on the circuit of the oldest item toward queue `q`: the queues of one route take them in the
order in which they were sent (R195, R257). -/
def Core.behind (x : Core) (q : Nat) (f : Flight) : Bool :=
  f.via.isSome && (x.flights.takeWhile fun g => g.q ≠ q).any fun g => g.via = f.via

/-- TOKEN_LAND: the oldest item on its way to a queue lands, with the rest of its run where it begins one (R374), unless another of its
circuit goes ahead of it or the limiter of an input port holds it; event 0x14 counts a held token, and a token that lands ends a stall of its link or circuit (R278). -/
def execTokenLand (core queue : Nat) (s : State) : Host.Outcome State Fault Refusal :=
  .next (match (s.core core).flights.find? fun f => f.q = queue with
    | none => s
    | some f =>
      let metered : Bool := f.item.isVal && s.fromOutside core f
      let seen := SMap.get 0 (s.core core).admitted queue
      if (s.core core).behind queue f then s
      else if metered && (s.limitOf core).any fun t => t ≤ seen then
        s.onCore core fun y => { y with events := SMap.set 0 y.events 0x14 (SMap.get 0 y.events 0x14 + BitVec.ofNat 64 (cyclesOf s (dieOf core))) }
      else
        let run := ((s.core core).flights.filter fun g => g.q = queue).take (f.rest + 1)
        let s1 := s.onCore core fun y =>
          { y with flights := run.foldl List.erase y.flights, circuits := SMap.set 0 y.circuits (2 * queue) 0
                   admitted := if metered then y.admitted.put queue (seen + 1) else y.admitted }
        run.foldl (fun (u : State) g => u.arrive core g) s1)

/-- ADVANCE_PASS: an ADVANCE leaves a router, whose pointer moves to the next phase, or to phase 0 after a last one; tokens of its circuit
that go ahead of it have reached the router's core first (R257). -/
def execAdvancePass (router tag : Nat) (s : State) : Host.Outcome State Fault Refusal :=
  .next (let n := SMap.get 0 s.advPassed (256 * router + tag)
    if SMap.get 0 s.advSent tag ≤ n || (s.core router).flights.any (fun f => f.via = some tag && f.adv ≤ n) then s
    else s.passAdvance router tag)

/-! ## The break (R35, R283, R284) -/

/-- Every item on its way to a queue of a record lands, at each core in the order in which they were sent. -/
def State.landAll (s : State) (r : Rec) : State :=
  ((r.places.map (·.2.1)).eraseDups).foldl (fun (u : State) c =>
    let mine (f : Flight) : Bool := r.places.any fun x => x.2 = (c, f.q)
    ((u.core c).flights.filter mine).foldl (fun (v : State) f => v.arrive c f)
      (u.onCore c fun y => { y with flights := y.flights.filter fun f => !mine f })) s

/-- The sink ports of a record perform what they have gathered. -/
def State.flushSinks (s : State) (r : Rec) : State :=
  r.nodes.foldl (fun (u : State) x => if x.kind = 3 then u.flushPort x.core x.unit else u) s

/-- The break record (R283). -/
def Breaking.record (b : Breaking) (sl breaks : Nat) : BreakRecord :=
  { w0 := word (b.cause.toNat * 2 ^ 60 + b.node * 2 ^ 54 + b.queue * 2 ^ 50 + sl * 2 ^ 48 + breaks), w1 := b.vcause, w2 := b.stval,
    w3 := word b.time }

/-- A break of cause FAULT or MALFORMED, which raises a break trap and writes a fault record (R243, R282). -/
def Breaking.traps (b : Breaking) : Bool := b.cause = 1 || b.cause = 2

/-- The exception that a break delivers. -/
def Breaking.exc (b : Breaking) : Exc := { cause := 48, stval := b.stval, vcause := b.vcause, pages := b.pages }

/-- Writes the break record of a slot, which enters BROKEN: event 0x07 of the owner. -/
def State.recordBreak (s : State) (c sl : Nat) (b : Breaking) : State :=
  let y := s.slot c sl
  let n := min 0xFFFFFFFF (bits y.brec.w0 31 0 + 1)
  let s1 := s.setSlot c sl { y with
    state := .broken, brec := b.record sl n, p := b.traps, breaking := none, resume := decide (b.cause = 3), passAt := 0,
    passFired := false, idleMark := [] }
  s1.onStrand c y.owner fun t => t.count 7 1

/-- CHAIN_BREAK: tokens in flight land, the fault record is written, and the slot enters BROKEN. A record that finds no room in the
ring waits for it, and RINGFULL is then posted (R242). -/
def execChainBreak (core slot : Nat) (s : State) : Host.Outcome State Fault Refusal :=
  let y := s.slot core slot
  finish (match y.state, y.breaking with
    | .spatial, some b =>
      if !b.traps then (((s.landAll y.rec_).flushSinks y.rec_).recordBreak core slot b)
      else
        let rec_ := recordOf y.owner 0 b.exc b.time
        if !s.ringRoom (dieOf core) (1 + continuations rec_.pages.length) then
          s.setSlot core slot { y with breaking := some { b with since := some (b.since.getD s.time) } }
        else
          let s1 := match b.since with
            | some t0 => s.notify core y.owner 5 (word (s.time - t0))
            | none => s
          let (addr, s2) := ((s1.landAll y.rec_).flushSinks y.rec_).writeRecord core rec_
          (s2.onStrand core y.owner fun t => { t with vfrec := addr }).recordBreak core slot b
    | _, _ => s)

/-- SLOT_ENTER_TEMPORAL: the cycle after a CHBRK break, or after the CTXLD that restores its owner (R27); a pass that a save interrupted
goes on at its node (R37). -/
def execSlotEnterTemporal (core slot : Nat) (s : State) : Host.Outcome State Fault Refusal :=
  let y := s.slot core slot
  .next (if y.state = .broken && y.resume then
      s.setSlot core slot { y with state := .temporal, resume := false, idleMark := [] }
    else s)

/-! ## Completion (R407) -/

/-- Every node and port of a slot has finished, and nothing is on its way. -/
def State.runOver (s : State) (c sl : Nat) : Bool :=
  let y := s.slot c sl
  let r := y.rec_
  (List.range r.nodes.length).all (fun n => (y.node n).finished) &&
    r.places.all fun x => (s.core x.2.1).flights.all fun f => f.q ≠ x.2.2

/-- A run completes: the slot is IDLE, and the full/empty bits are set. -/
def State.completeRun (s : State) (c sl : Nat) : State :=
  let y := s.slot c sl
  let s1 := s.setSlot c sl { y with state := .idle, respond := false, resume := false, passAt := 0, passFired := false,
                                    idleMark := [] }
  s1.onStrand c y.owner fun t => { t with feClear := y.rec_.regs.foldl (fun m v => m.del v) t.feClear }

/-- RUN_COMPLETE. -/
def execRunComplete (core slot : Nat) (s : State) : Host.Outcome State Fault Refusal :=
  let y := s.slot core slot
  .next (if (y.state = .spatial && y.breaking.isNone || y.state = .temporal && y.passAt = 0) && s.runOver core slot then
      s.completeRun core slot
    else s)

/-! ## The remainder (R37, R38, R268) -/

/-- What a chain that cannot go on waits for: tokens at its inputs, and the states of its handles, buffers and tables. -/
def State.waitMark (s : State) (c sl : Nat) : List Nat :=
  let r := (s.slot c sl).rec_
  let tiles (core : Nat) (h : Word) : Nat := let t := s.tile core (handleSlot h); 4 * t.state.code + t.res.toNat
  1 :: (r.places.map fun x => (s.queue x.2.1 x.2.2).items.length) ++ r.nodes.map fun x =>
    match x.kind with
    | 0 =>
      if x.opn = 0x9F then (s.wbuf x.core x.b).state.code
      else if x.opn = 0xA1 then (if (s.cb x.core x.b).loaded then 1 else 0) + (if (s.cb x.core x.b).filling then 2 else 0)
      else 0
    | 1 => x.buffers.foldl (fun v b => 4 * v + (s.wbuf x.core b).state.code) 0
    | 2 => match x.target? with | some h => tiles x.core (word h) | none => 0
    | _ => let p := s.port x.core x.unit; if p.tiled then tiles x.core (p.w 0) else 0

/-- The owning strand may run a word of the remainder, before its next own vector word: it is not in a trap window, and it has returned from
the last fault of the remainder. Vector words queued before the chain went TEMPORAL do not hold it up (R37). No pass begins once the run is
over. -/
def State.mayRemain (s : State) (c sl : Nat) : Bool :=
  let y := s.slot c sl
  let t := s.strand c y.owner
  y.state = .temporal && !(y.passAt = 0 && s.runOver c sl) && !y.away && !t.tw && t.fault.isNone && (t.status = .active || t.status = .waiting) &&
    !(y.passAt = 0 && y.idleMark ≠ [] && y.idleMark = s.waitMark c sl)

/-- The end of a word of the remainder: the next node, and at the end of a pass the strip counter, and a CHRESP that takes
effect. -/
def State.endWord (s : State) (c sl : Nat) (fired : Bool) : State :=
  let y := s.slot c sl
  let any := y.passFired || fired
  if y.passAt + 1 < y.rec_.nodes.length then s.setSlot c sl { y with passAt := y.passAt + 1, passFired := any, idleMark := [] }
  else
    let strips := if y.strips = BitVec.allOnes 32 then y.strips else y.strips + 1
    s.setSlot c sl { y with passAt := 0, passFired := false, strips := strips, respond := false,
                            state := if y.respond then .spatial else .temporal,
                            idleMark := if any then [] else s.waitMark c sl }

/-- A precise fault of a word of the remainder, which stays where it is; a CHRESP is dropped (R37, R411). -/
def State.remainderFault (s s1 : State) (c sl n : Nat) (x : Exc) : State :=
  let k := (s.slot c sl).owner
  let s2 := s1.onStrand c k fun t => { t with vstart := 0 }
  let s3 := s2.takeTrap c k (s.strand c k).pc { x with vcause := nodeCause x.vcause 24 n sl }
  s3.setSlot c sl { s3.slot c sl with away := true, respond := false }

/-- Everything older than the next instruction of a strand has completed: its vector words and its fences (R87, R225). -/
def Strand.older (t : Strand) : Bool := t.pending.isEmpty && t.walks.isEmpty && t.fences.isEmpty

/-- REMAINDER_WORD: event 0x08 counts a word that does something. A fault waits, as a trap does, until the strand's queued vector words
have completed and its fences are met (R225). -/
def execRemainderWord (core slot : Nat) (s : State) : Host.Outcome State Fault Refusal :=
  let y := s.slot core slot
  let n := y.passAt
  finish (if !s.mayRemain core slot then s
    else if (y.node n).finished then s.endWord core slot false
    else
      match s.fire core slot n true with
      | (.ok m, s1) => ((s1.spoil core slot n).onStrand core y.owner fun t => t.count 8 (if m = 0 then 0 else 1)).endWord core slot (0 < m)
      | (.stall, _) => s.endWord core slot false
      | (.trap _ x, s1) => if (s.strand core y.owner).older then s.remainderFault s1 core slot n x else s)

/-! ## CHWAIT, CHBAR, CHRESP, CHBRK (R408, R410, R411) -/

/-- The slot has no run to wait for. -/
def Slot.quiet (y : Slot) : Bool := y.state = .free || y.state = .idle

/-- The last run of a slot has been waited for (R34). -/
def State.waited (s : State) (c sl : Nat) : State :=
  let y := s.slot c sl
  if y.unwaited then s.setSlot c sl { y with unwaited := false, wrote := [] } else s

/-- CHWAIT. -/
def execChwait (rd rs1 rs2 : BitVec 5) (s : State) : Host.Outcome State Fault Refusal :=
  xr 0x16 rd rs1 rs2 .x .c .z (fun _ s =>
    chainWord (fun _ => true) (fun sl s =>
      let c := s.who.1
      let y := s.slot c sl
      if y.quiet then scalar rd (word (bits y.brec.w0 31 0)) ((s.waited c sl).dropCache c)
      else s.onCur fun t => { t with status := .waiting, wait := some (.chain sl) }) rs1 s) s

/-- The sinks of a record: sink ports and FSINK nodes. -/
def Rec.sinks (r : Rec) : List Nat :=
  (List.range r.nodes.length).filter fun n =>
    let x := r.node n
    (x.kind = 3 && r.ins n ≠ []) || (x.kind = 2 && x.opn = 0xC0)

/-- STOP tokens of level `l` or above that a sink has popped. -/
def NodeState.stops (x : NodeState) (l : Nat) : Nat := ((List.range 15).filter (l ≤ ·)).foldl (fun n j => n + x.reg (16 + j)) 0

/-- A barrier word's count has been met (R410). -/
def State.barrierMet (s : State) (c sl : Nat) (w : Word) : Bool :=
  let y := s.slot c sl
  let k := bits w 63 32
  y.quiet || (k ≠ 0 && y.rec_.sinks ≠ [] && y.rec_.sinks.all fun n => k ≤ (y.node n).stops (bits w 3 0))

/-- CHBAR. -/
def execChbar (rd rs1 rs2 : BitVec 5) (s : State) : Host.Outcome State Fault Refusal :=
  xr 0x18 rd rs1 rs2 .z .c .x (fun raw s =>
    chainWord (fun _ => true) (fun sl s =>
      let c := s.who.1
      let w := rx s rs2
      if bits w 31 4 ≠ 0 || bits w 3 0 = 15 then s.raise (illegalWord raw 2)
      else if s.barrierMet c sl w then ((s.flushSinks (s.slot c sl).rec_).dropCache c).done
      else s.onCur fun t => { t with status := .waiting, wait := some (.barrier sl w) }) rs1 s) s

/-- CHRESP: at the end of the pass in progress, or of the next one where none is; at once after a pass in which no node fired while
nothing that the next one waits for has changed (R38, R268, log 104). -/
def execChresp (rd rs1 rs2 : BitVec 5) (s : State) : Host.Outcome State Fault Refusal :=
  xr 0x19 rd rs1 rs2 .z .c .z (fun _ s =>
    chainWord (fun _ => true) (fun sl s =>
      let c := s.who.1
      let y := s.slot c sl
      (if y.state ≠ .temporal then s
        else if y.passAt = 0 && y.idleMark ≠ [] && y.idleMark = s.waitMark c sl then
          s.setSlot c sl { y with state := .spatial, idleMark := [] }
        else s.setSlot c sl { y with respond := true }).done) rs1 s) s

/-- CHBRK: completion in the same step wins (R36). -/
def execChbrk (rd rs1 rs2 : BitVec 5) (s : State) : Host.Outcome State Fault Refusal :=
  xr 0x1A rd rs1 rs2 .z .c .z (fun _ s =>
    chainWord (fun _ => true) (fun sl s =>
      let c := s.who.1
      let y := s.slot c sl
      (if y.state ≠ .spatial || y.breaking.isSome then s
        else if s.runOver c sl then s.completeRun c sl
        else
          (s.noteTime c s.who.2).setSlot c sl (y.startBreak { cause := 3, node := 0, queue := 0, vcause := 0, stval := 0, pages := [],
                                                              time := s.timeFor c s.who.2 })).done) rs1 s) s

/-! ## CHSTAT (R409) -/

/-- The state codes of a slot. -/
def SlotState.code : SlotState → Nat
  | .free => 0
  | .idle => 1
  | .spatial => 2
  | .broken => 3
  | .temporal => 4

/-- The state word. -/
def Slot.status (y : Slot) : Word :=
  let r := y.rec_
  word ((if y.sv then 2 ^ 22 else 0) + r.nodes.length * 2 ^ 16 + r.queues.length * 2 ^ 11 + r.routes.length * 64 + y.owner * 16 +
    (if y.p then 8 else 0) + y.state.code)

/-- Key of the progress counter of a node's port: 0 input a, 1 input b, 2 output d, 3 output d+1 (R266). -/
def Rec.counter (r : Rec) (n port : Nat) : Option Nat :=
  let x := r.node n
  let linked (es : List Nat) (f : Nat) : Option Nat := es.find? fun i => 48 + (r.entry i).q = f
  if x.kind = 3 then
    match port with
    | 0 => (r.ins n).head?.map fun i => 2 * i + 1
    | 2 => (r.outs n).head?.map fun i => 2 * i
    | _ => none
  else
    match port with
    | 0 => if x.queueField 1 x.a then (linked (r.ins n) x.a).map fun i => 2 * i + 1 else none
    | 1 => if x.queueField 2 x.b then (linked (r.ins n) x.b).map fun i => 2 * i + 1 else none
    | 2 => if x.queueField 0 x.d then (linked (r.outs n) x.d).map fun i => 2 * i else none
    | _ => if x.twoOut then (linked (r.outs n) (x.d + 1)).map fun i => 2 * i else none

/-- The item that a selector names; none where it names nothing. -/
def Slot.item (y : Slot) (v : Word) : Option Word :=
  let r := y.rec_
  let n := bits v 11 6
  match bits v 15 12 with
  | 0 => some y.status
  | 1 => some ([y.brec.w0, y.brec.w1, y.brec.w2, y.brec.w3].getD (bits v 1 0) 0)
  | 2 => some (y.strips.setWidth 64)
  | 3 => if n < r.nodes.length then (r.counter n (bits v 1 0)).map fun k => word (SMap.get 0 y.prog k) else none
  | 4 =>
    if n < r.nodes.length then some (if (r.node n).kind = 2 then SMap.get 0 (y.node n).regs 0 else 0) else none
  | _ => none

/-- CHSTAT. -/
def execChstat (rd rs1 rs2 : BitVec 5) (s : State) : Host.Outcome State Fault Refusal :=
  xr 0x17 rd rs1 rs2 .x .c .x (fun raw s =>
    let y := s.slot s.who.1 rs1.toNat
    let v := rx s rs2
    if bits v 63 16 ≠ 0 || 4 < bits v 15 12 then s.raise (illegalWord raw 2)
    else if y.state = .free then scalar rd 0 s
    else
      match y.item v with
      | some w => scalar rd w s
      | none => s.raise (illegalWord raw 2)) s

/-! ## PUNPIN (R121, R123, R377) -/

/-- A record names probe `p`. -/
def State.namesProbe (s : State) (r : Rec) (p : Nat) : Bool :=
  r.nodes.any fun x => x.probe? = some p || (x.kind = 3 && (let q := s.port x.core x.unit; !q.tiled && q.probe = p))

/-- PUNPIN: waits for a run of the strand that names the probe. -/
def execPunpin (rd rs1 rs2 : BitVec 5) (s : State) : Host.Outcome State Fault Refusal :=
  xr 0x05 rd rs1 rs2 .p .z .z (fun raw s =>
    let c := s.who.1
    let k := s.who.2
    let busy := (s.core c).slots.any fun e => e.2.owner = k && !e.2.quiet && s.namesProbe e.2.rec_ rd.toNat
    if busy then s
    else
      afterNaming (fun q => q.names .p rd.toNat) (fun _ s => (s.setProbe c k rd.toNat { s.cur.probe rd.toNat with live := false, pages := [] }).done) raw s) s

end Sys2Proof.Machine
end

