-- ==== Sys2Proof/Machine/Traps.lean ====
section
/-!
DEFINITION. Traps that no instruction raises: break traps and interrupts (R86 to R88, R282), the end of a wait (R18), and what
Titania does for a strand: its replies, and the read index of a fault record ring (R85, R241, R242).
-/
namespace Sys2Proof.Machine

/-! ## Instruction boundaries (R87, R225) -/

/-- A queued QPOPX at which the strand waits for a token: it is not yet executed (R18, R431). -/
def Strand.waitingPop (t : Strand) : Option Queued :=
  match t.wait with
  | some (.queue q) => (t.popAt.filter fun x => x.2 = q).map (·.1)
  | _ => none

/-- A strand stands at an instruction boundary where a trap can be taken: it fetches or waits, its queued vector words have completed, but
for a QPOPX at which it waits and what is younger, no fault of its own waits for room in the ring, and no fence waits, unless the trap can
be taken at the fence (R320). -/
def Strand.atBoundary (t : Strand) : Bool :=
  (t.status = .active || t.status = .waiting) && (t.pending.all fun o => t.waitingPop.any fun q => q.pos ≤ o.pos) && t.walks.isEmpty &&
    t.fault.isNone && t.fences.all (·.clean)

/-- What a trap at the boundary finds: the strand back at a QPOPX at which it waits, and at a fence that still waits. -/
def State.beforeTrap (s : State) (c k : Nat) : State :=
  let s1 := match (s.strand c k).waitingPop with
    | some q => s.backTo c k q 0
    | none => s
  s1.onStrand c k Strand.unfence

/-- A strand that a CTXSV or CTXLD acts on, or that executes one, takes nothing until it completes (R328). -/
def State.inContext (s : State) (c k : Nat) : Bool :=
  (s.strand c k).heldBy.isSome || (s.strand c k).request.any (fun r => r.words.isEmpty) ||
    (List.range 4).any fun j => (s.strand c j).heldBy = some k

/-! ## Break traps (R282) -/

/-- The lowest slot whose pending break trap strand `k` of core `c` can take. -/
def State.breakSlot (s : State) (c k : Nat) : Option Nat :=
  if (s.strand c k).tw then none
  else (List.range 4).find? fun n => let y := s.slot c n; y.state = .broken && y.owner = k && y.p

/-- The trap of slot `n`: vcause and stval as its break record has them. -/
def State.takeBreak (s : State) (c k n : Nat) : State :=
  let y := s.slot c n
  let x : Exc := { cause := 48, stval := y.brec.w2, vcause := y.brec.w1, pages := [] }
  ((s.beforeTrap c k).onStrand c k fun t => t.enter t.pc x).setSlot c n { y with p := false, sv := true }

/-- BREAK_TRAP_ENTRY. -/
def execBreakTrapEntry (core strand : Nat) (s : State) : Host.Outcome State Fault Refusal :=
  .next (match s.breakSlot core strand with
    | some n => if (s.strand core strand).atBoundary && !s.inContext core strand then s.takeBreak core strand n else s
    | none => s)

/-! ## Interrupts (R86, R88) -/

/-- The interrupt that a strand takes: SEI, then SSI, then STI, among those pending and enabled; in U mode they are always
enabled. -/
def State.interruptCode (s : State) (c k : Nat) : Option Nat :=
  let t := s.strand c k
  if t.priv = .s && !bit t.sstatus 1 then none else [9, 1, 5].find? fun i => bit t.sie i && bit (s.sip c k) i

/-- INTERRUPT_ENTRY: pending break traps come first. -/
def execInterruptEntry (core strand : Nat) (s : State) : Host.Outcome State Fault Refusal :=
  let t := s.strand core strand
  finish (match s.interruptCode core strand with
    | some i =>
      if t.atBoundary && !s.inContext core strand && (s.breakSlot core strand).isNone then
        (s.beforeTrap core strand).takeTrap core strand ((s.beforeTrap core strand).strand core strand).pc (exc (2 ^ 63 + i) 0)
      else s
    | none => s)

/-- STIP_SET: the die's timebase copy has reached stimecmp, and the strand sees it from here on (R83, R88). -/
def execStipSet (core strand : Nat) (s : State) : Host.Outcome State Fault Refusal :=
  .next (if (s.strand core strand).stimecmp.toNat ≤ s.timeFor core strand then s.noteTime core strand else s)

/-! ## The end of a wait (R18, R324) -/

/-- The doubleword that a WAITVIS waits on no longer holds the pending value; an address that has lost its mapping, or a poisoned
line, ends the wait as well, and the instruction finds its fault. -/
def State.visible (s : State) (c k : Nat) (va : Word) : Bool :=
  match s.translate c k va .load with
  | (.ok p, _) => s.poisonAt p || word (s.numAt p 8) ≠ pendingWord
  | (.error _, _) => true

/-- What a WAITING strand awaits has come about; Titania's reply alone ends an ECALL. -/
def State.waitOver (s : State) (c k : Nat) : Wait → Bool
  | .copy n => (s.copy c n).state = .free || (s.copy c n).state = .done
  | .completion va => s.visible c k va
  | .chain n => (s.slot c n).quiet
  | .buffer w => (s.wbuf c w).state ≠ .filling
  | .barrier n w => s.barrierMet c n w
  | .queue q => !s.nothingToPop c q
  | .titania => false
  | .interrupt => s.sip c k &&& (s.strand c k).sie ≠ 0

/-- WAIT_END: the strand is ACTIVE at the instruction that waited, which it repeats; a fault that waits for the ring comes first. -/
def execWaitEnd (core strand : Nat) (s : State) : Host.Outcome State Fault Refusal :=
  let t := s.strand core strand
  .next (match t.status, t.wait, t.fault with
    | .waiting, some w, none =>
      if s.waitOver core strand w then s.setStrand core strand { t with status := .active, wait := none } else s
    | _, _, _ => s)

/-! ## Titania (R85, R241, R242) -/

/-- TITANIA_REPLY: a strand that waits in an ECALL goes on with Titania's a0 and a1. For a7 = 0x4E0 they are the oldest notice's
kind and argument, or a0 = 0 where there is none; for a value of a7 that names no service, a0 is all ones and a1 stays. -/
def execTitaniaReply (core strand : Nat) (a0 a1 : BitVec 64) (s : State) : Host.Outcome State Fault Refusal :=
  let t := s.strand core strand
  .next (if t.status = .waiting && t.wait = some .titania then
      let go (t : Strand) (v0 v1 : Word) : Strand :=
        ({ ((t.writeX 10 v0).writeX 11 v1) with status := .active, wait := none }).retire
      s.setStrand core strand
        (if t.readX 17 = 0x4E0 then
          match t.notices with
          | n :: ns => go { t with notices := ns } (word n.kind) n.arg
          | [] => go t 0 a1
        else if Config.osService (t.readX 17) then go t a0 a1
        else go t (BitVec.allOnes 64) (t.readX 11))
    else s)

/-- FAULT_RING_ADVANCE: Titania frees slots of a die's ring. -/
def execFaultRingAdvance (die count : Nat) (s : State) : Host.Outcome State Fault Refusal :=
  let d := s.die die
  .next (s.setDie die { d with ringR := min d.ringW (d.ringR + count) })

end Sys2Proof.Machine
end

