-- ==== Sys2Proof/Machine/Context.lean ====
section
/-!
DEFINITION. Strand context save and restore: CTXSV and CTXLD, the save area, and rows given up at a restore (R160 to R162, R286 to
R289, R328).
-/
namespace Sys2Proof.Machine

/-! ## The save area (R287, R288) -/

/-- A list of bytes cut or filled with zeros to `n` bytes. -/
def padTo (n : Nat) (l : List Byte) : List Byte := l.take n ++ List.replicate (n - l.length) 0

/-- `n` bytes of an area from offset `o`, as a number. -/
def areaNum (a : List Byte) (o n : Nat) : Nat := ofBytes ((a.drop o).take n)

/-- Section 0. -/
def scalarSection (t : Strand) : List Byte :=
  wordBytes ((List.range 31).map (fun i => SMap.get 0 t.x (i + 1)) ++
    [t.pc, match t.priv with | .u => 0 | .s => 1, t.sstatus, t.sie, t.stvec, t.scounteren, t.sscratch, t.sepc, t.scause, t.stval,
     t.stimecmp, t.vcause, t.vfrec, t.vshcause, t.vshaddr, t.vtsafe, if t.tw then 1 else 0] ++
    (List.range 12).map fun i => SMap.get 0 t.events i)

/-- Section 1. -/
def controlSection (t : Strand) : List Byte :=
  padTo 128 ((List.range 4).flatMap (fun g => toBytes (t.modes.at g).toNat 4) ++ toBytes t.vl.toNat 2 ++ toBytes t.vstart.toNat 2 ++
    toBytes t.vflags.toNat 1 ++ toBytes t.vslip.toNat 1 ++ [0, 0] ++ toBytes t.voorva.toNat 8 ++ toBytes (feBits t 0 48) 8 ++
    (List.range 48).map fun r => BitVec.ofNat 8 (SMap.get 0 t.hwm r))

/-- Section 2. -/
def dataSection (t : Strand) : List Byte :=
  (List.range 48).flatMap fun r => wordBytes ((List.range (SMap.get 0 t.hwm r)).map fun i => SMap.get 0 t.v (128 * r + i))

/-- Section 3. -/
def maskSection (t : Strand) : List Byte := (List.range 12).flatMap fun j => toBytes (SMap.get 0 t.m j).toNat 256

/-- Section 4. -/
def probeSection (t : Strand) : List Byte := wordBytes ((List.range 8).flatMap fun p => [(t.probe p).base, (t.probe p).ps])

/-- A held-row entry that lets its row go under DROP: FREE, its epoch raised (R158, R161). The epoch of a retired entry stays, since it
never returns to a value it has held. -/
def HeldRow.dropped (r : HeldRow) : HeldRow :=
  let e := if r.held && r.epoch ≠ BitVec.allOnes 56 then r.epoch + 1 else r.epoch
  { r with held := false, epoch := e, retired := r.retired || e = BitVec.allOnes 56 }

/-- The word of a held-row entry. -/
def HeldRow.saved (r : HeldRow) : Word :=
  word ((if r.held then 2 ^ 63 else 0) + (if r.retired then 2 ^ 62 else 0) + r.epoch.toNat)

/-- Section 5. -/
def rowSection (t : Strand) (drop : Bool) : List Byte :=
  wordBytes ((List.range 8).flatMap fun i =>
    let r := if drop then (t.row i).dropped else t.row i
    [r.vaddr, r.saved])

/-- The resume offset of an entry: the byte of the copy at which its next beat starts. -/
def Copy.resumeAt (x : Copy) : Nat := if x.kind = .acopy then x.offset else x.moved

/-- Section 6. The command of an MLDW or VCBLD has no layout: its bytes are free values (log 30). -/
def copySection (s : State) (c k : Nat) : List Byte :=
  ((s.core c).copies.filter fun e => e.2.strand = k && e.2.state ≠ .free).flatMap fun e =>
    let cmd := if e.2.kind = .acopy then (List.range 6).map e.2.w
      else (List.range 6).map fun i => s.free (132000 + 8 * e.1 + i)
    padTo 8 [BitVec.ofNat 8 e.1, BitVec.ofNat 8 e.2.state.code, e.2.status.setWidth 8] ++ toBytes e.2.resumeAt 8 ++ wordBytes cmd

/-- The held flag and the kind of a node's carried token. -/
def NodeState.carried (x : NodeState) : Nat :=
  match x.toks with
  | t :: _ => 4 + t.kind.toNat
  | [] => 0

/-- The 16 bytes of a node (R288, R416): of a fibre node its state word, or the payload that FLOOPC carries, then the carried token's
kind and held flag, with FLOOPC's mode and count; of any other node the x value it holds. Of the two x values of a VINSX node it is
that of field a (log 105). -/
def nodeBlock (y : Slot) (n : Nat) : List Byte :=
  let x := y.node n
  let nd := y.rec_.node n
  if nd.kind = 2 then
    if nd.loop then
      wordBytes [(x.toks.headD { kind := 0, data := 0 }).data, word (x.carried + x.reg 1 * 8 + x.reg 2 % 2 ^ 32 * 2 ^ 32)]
    else wordBytes [word (x.reg 0), word x.carried]
  else wordBytes [(nd.xFields.head?.map fun f => SMap.get 0 y.xval (xKey n f)).getD 0, 0]

/-- Two-bit fields packed four to a byte. -/
def packPairs : List Nat → List Byte
  | a :: b :: c :: d :: r => BitVec.ofNat 8 (a + 4 * b + 16 * c + 64 * d) :: packPairs r
  | _ => []

/-- The 576 bytes of a queue of the record. -/
def queueBlock (q : Queue) (entry : Word) : List Byte :=
  let ts := tokensOf q.items
  let ss := scalesOf q.items
  wordBytes ((List.range 64).map fun i => (ts.getD i { kind := 0, data := 0 }).data) ++
  packPairs ((List.range 64).map fun i => (ts.getD i { kind := 0, data := 0 }).kind.toNat) ++
  (List.range 16).flatMap (fun i => toBytes (ss.getD i 0).toNat 2) ++
  [BitVec.ofNat 8 ts.length, BitVec.ofNat 8 ss.length, if q.doneLatch then 1 else 0, 0, 0, 0, 0, 0] ++ toBytes entry.toNat 8

/-- The blocks of slot `n` of core `c`. -/
def slotBlocks (s : State) (c n : Nat) : List Byte :=
  let y := s.slot c n
  let r := y.rec_
  let head := [BitVec.ofNat 8 n, BitVec.ofNat 8 y.state.code, BitVec.ofNat 8 r.nodes.length, BitVec.ofNat 8 r.queues.length] ++
    toBytes y.strips.toNat 4 ++ wordBytes [y.brec.w0, y.brec.w1, y.brec.w2, y.brec.w3] ++
    (List.range 4).flatMap (fun g => toBytes (y.modes.at g).toNat 4) ++ toBytes y.vl 2 ++
    [BitVec.ofNat 8 ((if y.p then 1 else 0) + (if y.sv then 2 else 0))]
  let inDevice (i : Nat) : Queue := if r.queueCore (r.entry i) < 256 then s.queue (r.queueCore (r.entry i)) (r.entry i).q else .reset
  padTo 64 head ++ wordBytes y.record ++ (List.range r.nodes.length).flatMap (nodeBlock y) ++
  (List.range r.queues.length).flatMap (fun i => wordBytes [word (SMap.get 0 y.prog (2 * i)), word (SMap.get 0 y.prog (2 * i + 1))]) ++
  (List.range r.queues.length).flatMap fun i => queueBlock (inDevice i) (y.record.getD (1 + i) 0)

/-- Section 7. -/
def chainSection (s : State) (c k : Nat) : List Byte :=
  ((List.range 4).filter fun n => (s.slot c n).state ≠ .free && (s.slot c n).owner = k).flatMap (slotBlocks s c)

/-- The codes of a port's states, in the order of R216. -/
def PortState.code : PortState → Nat
  | .unbound => 0
  | .bound => 1
  | .active => 2
  | .ended => 3

/-- Section 8. The number and the state of a port are taken to have 16 bits each (log 31). -/
def portSection (s : State) (c k : Nat) : List Byte :=
  ((s.core c).ports.filter fun e => e.2.state ≠ .unbound && e.2.strand = k).flatMap fun e =>
    wordBytes ((List.range 8).map e.2.w) ++ toBytes e.1 2 ++ toBytes e.2.state.code 2 ++ toBytes e.2.i0 4 ++ toBytes e.2.i1 4 ++
      toBytes e.2.i2 4

/-- Offsets of sections that follow one another from `o`. -/
def offsets : Nat → List (List Byte) → List Nat
  | _, [] => []
  | o, x :: xs => o :: offsets (o + x.length) xs

/-- Sections 6 to 8 tie a strand to its core. -/
def coreBound (secs : List (List Byte)) : Bool := (secs.drop 6).any fun x => x ≠ []

/-- The whole area of strand `k` of core `c`. -/
def saveArea (s : State) (c k : Nat) (drop : Bool) : List Byte × Bool :=
  let t := s.strand c k
  let secs := [scalarSection t, controlSection t, dataSection t, maskSection t, probeSection t, rowSection t drop,
    copySection s c k, chainSection s c k, portSection s c k]
  let body := secs.flatten
  let bound := coreBound secs
  (padTo 64 ([0x01, if bound then 1 else 0, BitVec.ofNat 8 c, BitVec.ofNat 8 k] ++ toBytes (s.core c).jobid.toNat 4 ++
    toBytes (64 + body.length) 8 ++ (offsets 64 secs).flatMap fun o => toBytes o 4) ++ body, bound)

/-- Writes an area through a probe, a 64-byte line at a time. -/
def State.writeArea (s : State) (c me : Nat) (p : Probe) (a : Word) (bs : List Byte) : State :=
  (List.range ((bs.length + 63) / 64)).foldl (fun (u : State) i =>
    let line := (bs.drop (64 * i)).take 64
    let ps := (List.range line.length).map fun j => (p.phys (a + word (64 * i + j)), line.getD j 0)
    (ps.foldl (fun (v : State) x => v.touch x.1) u).store (.strand c me) ps) s

/-! ## CTXSV (R286, R328) -/

/-- The slots of a strand that a save breaks (step 3): a run that is over completes instead (R222, R296). -/
def preemptSlot (isOver : Nat → Bool) (k time : Nat) (e : Nat × Slot) : Nat × Slot :=
  if e.2.owner = k && !isOver e.1 then
    (e.1, e.2.startBreak { cause := 4, node := 0, queue := 0, vcause := 0, stval := 0, pages := [], time := time })
  else e

/-- A TEMPORAL slot of a strand is BROKEN with its counters as they stand. -/
def parkSlot (k : Nat) (e : Nat × Slot) : Nat × Slot :=
  if e.2.owner = k && e.2.state = .temporal then (e.1, { e.2 with state := .broken, resume := false }) else e

/-- A copy of a strand that is under way is SUSPENDED (R240). -/
def suspendCopy (k : Nat) (e : Nat × Copy) : Nat × Copy :=
  if e.2.strand = k && (e.2.state = .waiting || e.2.state = .active) then (e.1, { e.2 with state := .suspended }) else e

/-- The row policy at a save (R161). -/
def State.parkRows (s : State) (c k : Nat) (drop : Bool) : State :=
  (List.range 8).foldl (fun (u : State) i =>
    let r := (u.strand c k).row i
    if !r.held then u
    else
      let v := u.releaseRow c k i
      if drop then v.onStrand c k fun t => { t with rows := t.rows.put i r.dropped } else v) s

/-- Unpins what the probes of a strand pin, and ends the probes (R121, R164, R286). The trap-safe range stays registered and pinned. -/
def State.parkProbes (s : State) (c k : Nat) : State :=
  (s.strand c k).probes.foldl (fun (u : State) e => u.setProbe c k e.1 { e.2 with live := false, pages := [] }) s

/-- Every armed watch of a strand can push its token (R376). -/
def State.watchRoom (s : State) (c k : Nat) : Bool :=
  (s.strand c k).watches.all fun w => (s.queue c w.q).doneLatch ||
    ((s.strand c k).watches.filter fun v => v.q = w.q).length ≤ s.roomIn { field := 48 + w.q, core := c, q := w.q, entry := 0 }

/-- The acting strand's CTXSV or CTXLD is complete. -/
def State.contextDone (s : State) : State := s.onCur fun t => { t.retire with request := none }

/-- The acting strand's CTXSV or CTXLD waits; the strand takes no interrupt meanwhile (R328). -/
def State.contextWait (s : State) : State := s.onCur fun t => { t with request := some { pc := t.pc, words := [], place := .dev 0 } }

/-- Steps 2 to 6 of R286 once the strand stands still. -/
def State.saveStrand (s : State) (c me k : Nat) (p : Probe) (a : Word) : State :=
  let drop : Bool := match s.jobOf c with
    | some j => j.drop
    | none => false
  let s1 := (s.dropCache c).onCore c fun r => { r with slots := r.slots.map (parkSlot k), copies := r.copies.map (suspendCopy k) }
  let (area, bound) := saveArea s1 c k drop
  let written := (s1.writeArea c me p a area).onStrand c me fun t => { t with stores := (s1.strand c me).stores }
  let s2 := (written.parkRows c k drop).parkProbes c k
  let s3 := (s2.strand c k).watches.foldl (fun (u : State) w => u.fireWatch c k 0 w) s2
  s3.onStrand c k fun t =>
    { t with status := .idle, wait := none, resv := none, fault := none, fences := [], stores := [], request := none,
             kept := false, watches := [], heldBy := none, giveUp := [],
             ctxSaved := bound }

/-- CTXSV goes on until strand `k` stands still, and then saves it. -/
def State.saveOn (s : State) (c me k : Nat) (p : Probe) (a : Word) : State :=
  let s0 := s.onStrand c k fun t => { t with heldBy := some me }
  if !(s0.strand c k).atBoundary then s0
  else
    match s0.breakSlot c k with
    | some n => s0.takeBreak c k n
    | none =>
      if (s0.core c).slots.any fun e => e.2.owner = k && e.2.state = .spatial then
        (s0.noteTime c k).onCore c fun r => { r with slots := r.slots.map (preemptSlot (s0.runOver c) k (s0.timeFor c k)) }
      else if !s0.watchRoom c k then s0
      else ((s0.beforeTrap c k).saveStrand c me k p a).contextDone

/-- Another context word acts on strand `k`, or `k` executes one itself. -/
def State.contextBusy (s : State) (c me k : Nat) : Bool :=
  (s.strand c k).heldBy.any (· ≠ me) || (List.range 4).any fun j => (s.strand c j).heldBy = some k

/-- CTXSV. -/
def execCtxsv (rd rs1 rs2 : BitVec 5) (s : State) : Host.Outcome State Fault Refusal :=
  xr 0x25 rd rs1 rs2 .p .x .x (monitorOnly fun raw s =>
    let c := s.who.1
    let me := s.who.2
    let k := (rx s rs1).toNat
    let a := rx s rs2
    let p := s.cur.probe rd.toNat
    if 3 < k || k = me then s.raise (illegalWord raw 1)
    else if a.toNat % 64 ≠ 0 then s.raise (devFault fMisaligned 64 a)
    else
      match probeFault p rd.toNat raw a 103104 false true with
      | some x => s.raise x
      | none =>
        if s.contextBusy c me k || (s.strand c k).status = .halted then s.contextWait
        else if (s.strand c k).status = .idle then s.raise (illegalWord raw 1)
        else s.saveOn c me k p a) s

/-! ## CTXLD (R289, R328) -/

/-- Reads `n` bytes of an area through a probe; a poisoned line reads as zeros, or raises POISON (R170). -/
def State.readArea (s : State) (c me : Nat) (p : Probe) (a : Word) (n : Nat) : Except Exc (List Byte) × State :=
  let at_ (i : Nat) : Phys := p.phys (a + word i)
  let s1 := (List.range n).foldl (fun (u : State) i => u.touch (at_ i)) s
  let bad := (List.range ((n + 63) / 64)).filter fun i => s.poisonAt (at_ (64 * i))
  let s2 := bad.foldl (fun (u : State) _ => u.poisonRead c me) s1
  match if s.poisonTrap c then bad.head? else none with
  | some i => (.error (devFault fPoison 0 (a + word (64 * i))), s2)
  | none => (.ok ((List.range n).map fun i => if s.poisonAt (at_ i) then 0 else s.byteAt (at_ i)), s2)

/-- The registers that sections 0 to 3 restore; a value that a register cannot hold leaves it as it stands. DESIGN CHOICE (log 126):
R287 gives sip no place in the area, and SSIP of the strand that takes the context stays as it stands. -/
def Strand.loadArea (t : Strand) (a : List Byte) (raw : BitVec 32) : Strand :=
  let o (i : Nat) : Nat := areaNum a (16 + 4 * i) 4
  let w (i : Nat) : Word := word (areaNum a (o 0 + 8 * i) 8)
  let f (off n : Nat) : Word := word (areaNum a (o 1 + off) n)
  let csrs : List (Nat × Word) :=
    [(0x100, w 33), (0x104, w 34), (0x105, w 35), (0x106, w 36), (0x140, w 37), (0x141, w 38), (0x142, w 39), (0x143, w 40),
     (0x14D, w 41), (0x5C0, w 42), (0x800, f 0 4), (0x801, f 4 4), (0x802, f 8 4), (0x803, f 12 4), (0x804, f 16 2),
     (0x805, f 18 2), (0x806, f 20 1), (0x808, f 21 1), (0x807, f 24 8)]
  let t1 := csrs.foldl (fun (u : Strand) e => match csrPut u raw e.1 e.2 with
    | .ok v => v
    | .error _ => u) t
  let fe := areaNum a (o 1 + 32) 8
  let marks := (List.range 48).map fun r => min 128 (areaNum a (o 1 + 40 + r) 1)
  let starts := offsets 0 (marks.map fun n => List.replicate n (0 : Byte))
  { t1 with
    x := (List.range 31).foldl (fun m i => SMap.set 0 m (i + 1) (w i)) [],
    pc := w 31, priv := if bit (w 32) 0 then .s else .u,
    vfrec := w 43, vshcause := w 44, vshaddr := w 45, tw := bit (w 47) 0,
    events := (List.range 12).foldl (fun m i => SMap.set 0 m i (w (48 + i))) [],
    feClear := ((List.range 48).filter fun r => fe / 2 ^ r % 2 = 0).map fun r => (r, true),
    hwm := (List.range 48).foldl (fun m r => SMap.set 0 m r (marks.getD r 0)) [],
    v := (List.range 48).foldl (fun m r => (List.range (marks.getD r 0)).foldl (fun m i =>
      SMap.set 0 m (128 * r + i) (word (areaNum a (o 2 + 8 * (starts.getD r 0 + i)) 8))) m) [],
    m := (List.range 12).map fun j => (j, BitVec.ofNat 2048 (areaNum a (o 3 + 256 * j) 256)) }

/-- Step 2 of R289: every probe saved live is asked for again; the others stand as saved. -/
def State.loadProbes (c k : Nat) (a : List Byte) : List Nat → State → Option Exc × State
  | [], s => (none, s)
  | p :: ps, s =>
    let o := areaNum a 32 4 + 16 * p
    let pb := word (areaNum a o 8)
    let st := word (areaNum a (o + 8) 8)
    let x := probeOf pb st []
    if x.live then
      match s.probeRange c k p pb (bits st 31 0) x.r x.w with
      | (some e, s1) => (some e, s1)
      | (none, s1) => State.loadProbes c k a ps s1
    else State.loadProbes c k a ps (s.setProbe c k p x)

/-- Step 2: vtsafe is registered again when V was set. -/
def State.loadVtsafe (s : State) (c k : Nat) (raw : BitVec 32) (v : Word) : Option Exc × State :=
  match s.writeVtsafe c k raw (setBits v 15 5 0) with
  | (.error e, s1) => (some e, s1)
  | (.ok _, s1) => (none, s1)

/-- What becomes of a saved row. -/
inductive Reopen where
  | open_ (s : State)
  | wait
  | lost
  deriving Repr

/-- Step 3: a saved HELD row is reopened at its index with its epoch, given up, or waited for (R157, R161, R162). A channel that lends
its lanes, or that is in a handshake, is waited for (R153). DESIGN CHOICE (log 106): the save area keeps no write permission, and the
row takes W and D of its page's leaf. -/
def State.reopenRow (s : State) (c k i : Nat) (va : Word) (w : Word) : Reopen :=
  let j := (s.core c).jobid
  let quota : Nat := match s.jobOf c with
    | some x => x.quota
    | none => 0
  let leaf := s.walk (s.strand c k).satp va
  let s := s.walkTouch (s.strand c k).satp va
  match leaf with
  | none => .lost
  | some f =>
    let q := f.page.base.plus (bits va 11 0)
    match s.rowOf q, q with
    | some b, .dev a =>
      let r : HeldRow :=
        { held := true, epoch := w.setWidth 56, retired := bit w 62, vaddr := va, w := f.w && f.d, phys := a, known := true }
      let taken (u : State) : Reopen := .open_ (u.onStrand c k fun t => { t with rows := t.rows.put i r })
      if !f.r then .lost
      else if s.isLending b then .wait
      else if (s.rowsOf j).contains b then taken s
      else if quota ≤ (s.rowsOf j).length then .lost
      else if s.rowsAll.contains b then taken s
      else
        match s.findRowSlot (bankOf b) fun x => x.block.isNone with
        | some n => taken { s with rowSlots := s.rowSlots.put (4 * bankOf b + n) { block := some b, breaks := 0 } }
        | none => if (s.strand c k).giveUp.contains i then .lost else .wait
    | _, _ => .lost

/-- The rows of section 5, in the order of their index; none while one of them is waited for. -/
def State.loadRows (c k : Nat) (a : List Byte) : List Nat → State → Option State
  | [], s => some s
  | i :: is, s =>
    let o := areaNum a 36 4 + 16 * i
    let va := word (areaNum a o 8)
    let w := word (areaNum a (o + 8) 8)
    let r : HeldRow :=
      { HeldRow.reset with
        held := bit w 63, epoch := w.setWidth 56, retired := bit w 62, vaddr := va, known := bit w 63 || bits w 55 0 ≠ 0 }
    if !r.held then State.loadRows c k a is (s.onStrand c k fun t => { t with rows := t.rows.put i r })
    else
      match s.reopenRow c k i va w with
      | .wait => none
      | .open_ u => State.loadRows c k a is u
      | .lost =>
        let u := ((s.onStrand c k fun t => { t with rows := t.rows.put i r.dropped }).notify c k 3 va).emit
          (.telemetry 2 c (s.dieTime (dieOf c)) [va.toNat])
        State.loadRows c k a is u

/-- Section 6: a saved entry goes on from its resume offset. -/
def State.loadCopies (s : State) (c k : Nat) (a : List Byte) : State :=
  let o := areaNum a 40 4
  let from_ := areaNum a 3 1
  (List.range ((areaNum a 44 4 - o) / 64)).foldl (fun (u : State) i =>
    let b := o + 64 * i
    let n := areaNum a b 1
    let x := u.copy c n
    if x.strand ≠ from_ then u
    else if x.state = .suspended then
      let at_ := areaNum a (b + 8) 8
      let y := if x.kind = .acopy then { x with offset := at_, index := if at_ = x.offset then x.index else none } else { x with moved := at_ }
      u.setCopy c n { y with strand := k, state := if x.beatsDone then .active else .waiting }
    else if x.state = .done then u.setCopy c n { x with strand := k }
    else u) s

/-- Puts scale tokens back between elements: one before each block's first element, and what is left at the end. -/
def weave : List Token → List (BitVec 16) → Nat → List QItem
  | [], cs, _ => cs.map .scale
  | t :: ts, cs, left =>
    if t.kind ≠ kVal then .tok t :: weave ts cs left
    else
      match left, cs with
      | 0, c :: cs => .scale c :: .tok t :: weave ts cs (c.extractLsb' 8 5).toNat
      | n, cs => .tok t :: weave ts cs (n - 1)

/-- A queue of the record as its 576 bytes have it, with the attributes of its queue entry and the slot that claims it (R213). -/
def Queue.load (q : Queue) (e : QEntry) (slot : Nat) (a : List Byte) (o : Nat) : Queue :=
  let n := areaNum a (o + 560) 1
  let m := areaNum a (o + 561) 1
  let ts : List Token := (List.range n).map fun i =>
    { kind := BitVec.ofNat 2 (areaNum a (o + 512 + i / 4) 1 / 4 ^ (i % 4)), data := word (areaNum a (o + 8 * i) 8) }
  let cs := (List.range m).map fun i => BitVec.ofNat 16 (areaNum a (o + 528 + 2 * i) 2)
  let items := if tokensOf q.items = ts && scalesOf q.items = cs then q.items else weave ts cs q.gram.left
  { q with items := items, doneLatch := areaNum a (o + 562) 1 ≠ 0, owner := some slot, d := e.d, n := e.n, sorted := e.sorted,
           bound := e.bound }

/-- The state of node `i` of a record as its 16 bytes at `o` have it (R288, R416). -/
def NodeState.load (x : NodeState) (nd : NEntry) (a : List Byte) (o : Nat) : NodeState :=
  let w0 := word (areaNum a o 8)
  let w1 := word (areaNum a (o + 8) 8)
  if nd.kind ≠ 2 then x
  else
    let y := { x with toks := if bit w1 2 then [{ kind := BitVec.ofNat 2 (bits w1 1 0), data := if nd.loop then w0 else 0 }] else [] }
    if nd.loop then (y.setReg 1 (bits w1 4 3)).setReg 2 (bits w1 63 32) else y.setReg 0 w0.toNat

/-- The x values of a slot as the bytes of its nodes from `o` have them. -/
def loadValues (r : Rec) (a : List Byte) (o : Nat) (vs : SMap Word) : SMap Word :=
  (List.range r.nodes.length).foldl (fun m i =>
    match (r.node i).xFields with
    | f :: _ => SMap.set 0 m (xKey i f) (word (areaNum a (o + 16 * i) 8))
    | [] => m) vs

/-- One slot of section 7, at offset `o`: the offset after it, and the state with the slot restored. A slot that is not the one
reserved to the saved strand, with the record it was saved with, stays as it stands: what an altered area asks for stays inside the
strand's own state (R11, log 105). -/
def State.loadSlot (s : State) (c k : Nat) (a : List Byte) (o : Nat) : Nat × State :=
  let n := areaNum a o 1
  let nn := areaNum a (o + 2) 1
  let nq := areaNum a (o + 3) 1
  let y := s.slot c n
  let ws := 1 + nq + 2 * nn + headRoutes (word (areaNum a (o + 64) 8))
  let o1 := o + 64 + 8 * ws
  let o2 := o1 + 16 * nn
  let o3 := o2 + 16 * nq
  let w (i : Nat) : Word := word (areaNum a i 8)
  let m (g : Nat) : BitVec 32 := BitVec.ofNat 32 (areaNum a (o + 40 + 4 * g) 4)
  let record := (List.range ws).map fun i => w (o + 64 + 8 * i)
  let r := parseRecord record
  let p : Bool := areaNum a (o + 58) 1 % 2 = 1
  let sv : Bool := areaNum a (o + 58) 1 / 2 % 2 = 1
  let broken : Bool := areaNum a (o + 1) 1 = 3
  let own : Bool := y.state ≠ .free && y.owner = areaNum a 3 1 && (s.strand c y.owner).ctxSaved && y.record = record &&
    nn = r.nodes.length && nq = r.queues.length
  if !own then (o3 + 576 * nq, s)
  else
    let y1 : Slot :=
      { y with
        state := if broken then .broken else y.state, owner := k,
        strips := BitVec.ofNat 32 (areaNum a (o + 4) 4),
        brec := { w0 := w (o + 8), w1 := w (o + 16), w2 := w (o + 24), w3 := w (o + 32) },
        modes := { i := m 0, f := m 1, m := m 2, x := m 3 }, vl := areaNum a (o + 56) 2, p := p, sv := sv,
        nodes := (List.range nn).foldl (fun z i => z.put i ((y.node i).load (r.node i) a (o1 + 16 * i))) y.nodes,
        xval := loadValues r a o1 y.xval,
        prog := (List.range nq).foldl (fun z i => SMap.set 0 (SMap.set 0 z (2 * i) (areaNum a (o2 + 16 * i) 8)) (2 * i + 1)
          (areaNum a (o2 + 16 * i + 8) 8)) [],
        idleMark := [],
        resume := broken && !p && !sv && bits (w (o + 8)) 63 60 ≠ 5 }
    let s1 := r.places.foldl (fun (u : State) x =>
      u.setQueue x.2.1 x.2.2 ((u.queue x.2.1 x.2.2).load (r.entry x.1) (4 * c + n) a (o3 + 576 * x.1))) (s.setSlot c n y1)
    (o3 + 576 * nq, s1)

/-- Section 7, at most four slots. -/
def State.loadSlots (c k : Nat) (a : List Byte) (last : Nat) : Nat → Nat → State → State
  | 0, _, s => s
  | n + 1, o, s => if last ≤ o then s else let (o1, s1) := s.loadSlot c k a o; State.loadSlots c k a last n o1 s1

/-- Section 8. -/
def State.loadPorts (s : State) (c k : Nat) (a : List Byte) : State :=
  let o := areaNum a 48 4
  (List.range ((areaNum a 8 8 - o) / 80)).foldl (fun (u : State) i =>
    let b := o + 80 * i
    let n := areaNum a (b + 64) 2
    let st : PortState := match areaNum a (b + 66) 2 with
      | 1 => .bound
      | 2 => .active
      | 3 => .ended
      | _ => .unbound
    let x := u.port c n
    if x.state = .unbound || x.strand ≠ areaNum a 3 1 then u
    else u.setPort c n { x with
      state := st, strand := k, desc := (List.range 8).map fun j => word (areaNum a (b + 8 * j) 8),
      i0 := areaNum a (b + 68) 4, i1 := areaNum a (b + 72) 4, i2 := areaNum a (b + 76) 4 }) s

/-- Steps 2 to 5 of R289: a failure, a wait, or the strand ACTIVE again. Its later reads of the timebase fall below no read of a strand
so far, its own before the save among them (R274). -/
def State.loadStrand (s : State) (c k : Nat) (a : List Byte) (raw : BitVec 32) : Except Exc (Option State) :=
  let t0 := s.strand c k
  let s0 := s.setStrand c k (t0.loadArea a raw)
  match State.loadProbes c k a (List.range 8) s0 with
  | (some e, _) => .error e
  | (none, s1) =>
    match s1.loadVtsafe c k raw (word (areaNum a (areaNum a 16 4 + 8 * 46) 8)) with
    | (some e, _) => .error e
    | (none, s2) =>
      match State.loadRows c k a (List.range 8) s2 with
      | none => .ok none
      | some s3 =>
        let s4 := ((State.loadSlots c k a (areaNum a 48 4) 4 (areaNum a 44 4) (s3.loadCopies c k a)).loadPorts c k a).dropCache c
        let s5 := s4.onStrand (areaNum a 2 1) (areaNum a 3 1 % 4) fun t =>
          if t.status = .idle && (s.core (areaNum a 2 1)).jobid = (s.core c).jobid then { t with ctxSaved := false, inStep := false } else t
        .ok (some (s5.onStrand c k fun t =>
          { t with status := .active, wait := none, heldBy := none, giveUp := [], resv := none, fault := none, fences := [],
                   stores := [], request := none, kept := false, inStep := true,
                   lastTime := s.strands.foldl (fun n e => max n e.2.lastTime) 0 }))

/-- Lets strand `k` go without a change. -/
def State.unhold (s : State) (c k : Nat) : State := s.onStrand c k fun t => { t with heldBy := none, giveUp := [] }

/-- The checks of R328 on the area, and step 1 of R289, then the restore. -/
def State.loadOn (s : State) (c me k : Nat) (p : Probe) (n : Nat) (a : Word) (raw : BitVec 32) : State :=
  match s.readArea c me p a 64 with
  | (.error x, s1) => (s1.unhold c k).raise x
  | (.ok head, s1) =>
    let len := areaNum head 8 8
    if areaNum head 0 1 ≠ 1 || len < 4000 || 103104 < len then (s1.unhold c k).raise (illegalWord raw 1)
    else
      match probeFault p n raw a len true false with
      | some x => (s1.unhold c k).raise x
      | none =>
        match s.readArea c me p a len with
        | (.error x, s2) => (s2.unhold c k).raise x
        | (.ok area, s2) =>
          let bound : Bool := areaNum area 1 1 % 2 = 1
          if (s.strand c k).status ≠ .idle || areaNum area 4 4 ≠ (s.core c).jobid.toNat || (bound && areaNum area 2 1 ≠ c) then
            (s2.unhold c k).raise (illegalWord raw 1)
          else
            match s2.loadStrand c k area raw with
            | .error x => (s2.unhold c k).raise x
            | .ok none => s.onStrand c k fun t => { t with heldBy := some me }
            | .ok (some s3) => s3.contextDone

/-- CTXLD. -/
def execCtxld (rd rs1 rs2 : BitVec 5) (s : State) : Host.Outcome State Fault Refusal :=
  xr 0x26 rd rs1 rs2 .p .x .x (monitorOnly fun raw s =>
    let c := s.who.1
    let me := s.who.2
    let k := (rx s rs1).toNat
    let a := rx s rs2
    let p := s.cur.probe rd.toNat
    if 3 < k || k = me then s.raise (illegalWord raw 1)
    else if a.toNat % 64 ≠ 0 then s.raise (devFault fMisaligned 64 a)
    else
      match probeFault p rd.toNat raw a 64 true false with
      | some x => s.raise x
      | none => if s.contextBusy c me k then s.contextWait else s.loadOn c me k p rd.toNat a raw) s

/-- ROW_REOPEN_GIVEUP: 20 µs have passed since a CTXLD began to wait for the row saved at an index (R162). -/
def execRowReopenGiveup (core strand index : Nat) (s : State) : Host.Outcome State Fault Refusal :=
  let t := s.strand core strand
  .next (if t.status = .idle && t.heldBy.isSome && index < 8 then
      s.setStrand core strand { t with giveUp := (t.giveUp.erase index) ++ [index] }
    else s)

end Sys2Proof.Machine
end

