-- ==== Sys2Proof/Machine/Jobs.lean ====
section
/-!
DEFINITION. Jobs and steps: ENQ, ENQC, DEQ and STEPEND, selection and the energy account, the controller tree with its loop-nest
walkers, step entry and completion, quantum, step-boundary stop and freeze-scan, and the ends of a job (R39 to R50, R226 to R236,
R260 to R273, R290 to R294, R312, R325 to R327, R331).
-/
namespace Sys2Proof.Machine

/-! ## The controller tree (R41, R42, R262, R269, R270) -/

/-- A tree node that stands for an index beyond the tree. -/
def TreeNode.none_ : TreeNode :=
  { kind := .seq, nchild := 0, first := 0, entry := 0, coreFirst := 0, coreCount := 0, nest := { depth := 1, bounds := [], steps := [] } }

/-- Node `i` of a job's tree. -/
def Job.node (j : Job) (i : Nat) : TreeNode := j.tree.getD i .none_

/-- Children of a node. -/
def TreeNode.kids (x : TreeNode) : List Nat := (List.range x.nchild).map (x.first + ·)

/-- Step count of a nest block. -/
def Nest.total (n : Nest) : Nat := n.bounds.foldl (· * ·) 1

/-- The walker of leaf `i`. -/
def Job.walker (j : Job) (i : Nat) : Walker := SMap.get Walker.reset j.walkers i

/-- A leaf has completed: its walker has run its last step, or it has none. -/
def Job.leafDone (j : Job) (i : Nat) : Bool := (j.node i).nest.total = 0 || (j.walker i).complete

/-- A node has completed; the first argument bounds the depth of the tree. -/
def Job.nodeDone (j : Job) : Nat → Nat → Bool
  | 0, _ => true
  | f + 1, i => if (j.node i).kind = .leaf then j.leafDone i else (j.node i).kids.all fun k => j.nodeDone f k

/-- The root has completed. -/
def Job.rootDone (j : Job) : Bool := j.nodeDone 4 0

/-- The parent of a node. -/
def parentIn (tree : List TreeNode) (i : Nat) : Option Nat :=
  (List.range tree.length).find? fun p => let x := tree.getD p .none_; x.kind ≠ .leaf && x.kids.contains i

/-- A PIPE lets its child `i` run its next step. -/
def Job.pipeOpen (j : Job) (p : TreeNode) (i : Nat) : Bool :=
  let n := (j.walker i).s
  (i = p.first || n < (j.walker (i - 1)).s) && (i + 1 = p.first + p.nchild || n ≤ (j.walker (i + 1)).s + 1)

/-- Every node above `i` lets it run. -/
def Job.open_ (j : Job) : Nat → Nat → Bool
  | 0, _ => true
  | f + 1, i =>
    match parentIn j.tree i with
    | none => true
    | some p =>
      let x := j.node p
      let here : Bool := match x.kind with
        | .seq => (x.kids.filter (· < i)).all fun k => j.nodeDone 4 k
        | .pipe => j.pipeOpen x i
        | _ => true
      here && j.open_ f p

/-- Leaf `i` may start its next step. -/
def Job.mayStep (j : Job) (i : Nat) : Bool :=
  i < j.tree.length && (j.node i).kind = .leaf && !j.leafDone i && !(j.walker i).running && j.open_ 4 i

/-- Counts a level up, innermost first: bounds and counters from the innermost level outward. -/
def bump : List Nat → List Nat → List Nat
  | b :: bs, c :: cs => if c + 1 < b then (c + 1) :: cs else 0 :: bump bs cs
  | _, cs => cs

/-- The walker after a step. -/
def Walker.after (w : Walker) (n : Nest) : Walker :=
  { c := (bump n.bounds.reverse w.c.reverse).reverse, s := w.s + 1, running := false, complete := n.total ≤ w.s + 1 }

/-- Replaces the walker of leaf `i`. -/
def Job.setWalker (j : Job) (i : Nat) (w : Walker) : Job := { j with walkers := j.walkers.put i w }

/-- The cores of a leaf, each with its index within the region. -/
def Region.leafCores (r : Region) (x : TreeNode) : List (Nat × Nat) :=
  (List.range x.coreCount).map fun i => (x.coreFirst + i, r.cores.getD (x.coreFirst + i) 256)

/-! ## The job record (R260 to R264) -/

/-- A tree node from its 32 bytes and its nest block's 64, none for an inner node. -/
def treeNode (b nest : List Byte) : TreeNode :=
  let d := areaNum nest 0 1
  { kind := match areaNum b 0 1 with
      | 0 => .seq
      | 1 => .pipe
      | 2 => .stream
      | _ => .leaf,
    nchild := areaNum b 1 1, first := areaNum b 2 1, entry := word (areaNum b 8 8), coreFirst := areaNum b 16 2,
    coreCount := areaNum b 18 2,
    nest := { depth := d, bounds := (List.range (min d 6)).map fun j => areaNum nest (8 + 8 * j) 4,
              steps := (List.range (min d 6)).map fun j => areaNum nest (12 + 8 * j) 4 } }

/-- The job that a record asks for, in a region, asked for by `issuer`. -/
def jobOfRecord (h : List Byte) (tree : List TreeNode) (region : Nat) (issuer : BitVec 32) (root : Word) (place : Phys) (now : Nat) :
    Job :=
  let ctl := areaNum h 1 1
  let opt := areaNum h 2 1
  { region := region, state := .queued, prio := ctl % 16, eclass := ctl / 16 % 8, drop := decide (128 ≤ ctl),
    poisonTrap := opt % 2 = 1, sa := (List.range 4).map fun i => decide (opt / 2 ^ (i + 1) % 2 = 1), quota := areaNum h 3 1,
    quantum := areaNum h 5 3 % 2 ^ 20, done := word (areaNum h 8 8), donePlace := place, args := word (areaNum h 16 8),
    stack := word (areaNum h 24 8), ssize := areaNum h 32 4, limT := areaNum h 36 2, limW := areaNum h 38 2,
    preds := (List.range 4).map fun i => word (areaNum h (40 + 8 * i) 8), root := root, tagBase := areaNum h 72 1,
    tagCount := areaNum h 73 1, hostScope := areaNum h 74 1 % 2 = 1, tree := tree, walkers := [], passes := 0, admitted := now,
    reserve := 0, timer := 0, hint := false, issuer := issuer, reopen := [], reservedEntry := false, resume := .fresh, grace := 0,
    savedCores := [], savedStrands := [] }

/-- Reads blocks of `n` doublewords, one at each address. -/
def State.readBlocks (c k n : Nat) : List Word → State → List (List Byte) → Except Exc (List (List Byte)) × State
  | [], s, acc => (.ok acc.reverse, s)
  | va :: vas, s, acc =>
    match State.readWords c k n va s [] with
    | (.error x, s1) => (.error x, s1)
    | (.ok ws, s1) => State.readBlocks c k n vas s1 (wordBytes ws :: acc)

/-- Reads the nest block of each leaf; an inner node has none. DESIGN CHOICE (log 130): a block is read as doublewords, so that an address
that is not a multiple of 8 raises scause 4 there. -/
def State.readNests (c k : Nat) : List (List Byte) → State → List (List Byte) → Except Exc (List (List Byte)) × State
  | [], s, acc => (.ok acc.reverse, s)
  | b :: bs, s, acc =>
    if areaNum b 0 1 ≠ 3 then State.readNests c k bs s ([] :: acc)
    else
      match State.readWords c k 8 (word (areaNum b 24 8)) s [] with
      | (.error x, s1) => (.error x, s1)
      | (.ok ws, s1) => State.readNests c k bs s1 (wordBytes ws :: acc)

/-- A record as it is read once: its header, its nodes and their nest blocks. -/
structure Read where
  head : List Byte
  nodes : List (List Byte)
  nests : List (List Byte)
  deriving DecidableEq, Repr

/-- Reads a record (R325 step 2). DESIGN CHOICE (log 131): of a record whose ntree is above 64, which is refused, no node is read. -/
def State.readJob (s : State) (c k : Nat) (va : Word) : Except Exc Read × State :=
  match State.readBlocks c k 16 [va] s [] with
  | (.error x, s1) => (.error x, s1)
  | (.ok hs, s1) =>
    let h := hs.headD []
    let n := if areaNum h 4 1 ≤ 64 then areaNum h 4 1 else 0
    match State.readBlocks c k 4 ((List.range n).map fun i => va + word (128 + 32 * i)) s1 [] with
    | (.error x, s2) => (.error x, s2)
    | (.ok nodes, s2) =>
      match State.readNests c k nodes s2 [] with
      | (.error x, s3) => (.error x, s3)
      | (.ok nests, s3) => (.ok { head := h, nodes := nodes, nests := nests }, s3)

/-- The words of a record as it is read, one after another: its header, its nodes, and a nest block for each node, of zeros where the node
has none. -/
def Read.words (r : Read) : List Word :=
  let block (n : Nat) (b : List Byte) : List Word := (List.range n).map fun i => word (areaNum b (8 * i) 8)
  block 16 r.head ++ r.nodes.flatMap (block 4) ++ r.nests.flatMap (block 8)

/-- The record that such words hold. -/
def Read.ofWords (ws : List Word) : Read :=
  let block (o n : Nat) : List Byte := wordBytes ((ws.drop o).take n)
  let m := (ws.length - 16) / 12
  { head := block 0 16, nodes := (List.range m).map fun i => block (16 + 4 * i) 4,
    nests := (List.range m).map fun i => block (16 + 4 * m + 8 * i) 8 }

/-- Every byte of a range is zero. -/
def zeros (b : List Byte) (o n : Nat) : Bool := areaNum b o n = 0

/-- The header, or a node, is refused by itself. -/
def Read.badHead (r : Read) : Bool :=
  let h := r.head
  areaNum h 0 1 ≠ 1 || 32 ≤ areaNum h 2 1 || 2 ^ 20 ≤ areaNum h 5 3 || areaNum h 8 8 % 8 ≠ 0 || 2 ≤ areaNum h 74 1 || !zeros h 75 53 ||
    areaNum h 4 1 = 0 || 64 < areaNum h 4 1
def Read.badNode (b nest : List Byte) : Bool :=
  let leaf : Bool := areaNum b 0 1 = 3
  let n := areaNum b 1 1
  3 < areaNum b 0 1 || !zeros b 3 5 || !zeros b 20 4 ||
    (if leaf then n ≠ 0 || areaNum nest 0 1 = 0 || 6 < areaNum nest 0 1 || !zeros nest 1 7 || !zeros nest 56 8
      else n = 0 || 16 < n || !zeros b 8 8 || !zeros b 24 8)

/-- Depth of a node below the root; the first argument bounds it. -/
def depthIn (tree : List TreeNode) : Nat → Nat → Nat
  | 0, _ => 0
  | f + 1, i =>
    match parentIn tree i with
    | none => 1
    | some p => 1 + depthIn tree f p

/-- The tree is refused: a child index not above its parent's or beyond the tree, a node reached twice or never, more than four
levels, or a leaf's cores outside a region of `cores` cores. -/
def badTree (tree : List TreeNode) (cores : Nat) : Bool :=
  let n := tree.length
  let kids := tree.flatMap fun x => if x.kind = .leaf then [] else x.kids
  let node (i : Nat) : TreeNode := tree.getD i .none_
  (List.range n).any (fun i => (node i).kind ≠ .leaf && ((node i).first ≤ i || n < (node i).first + (node i).nchild)) ||
    kids.contains 0 || (List.range n).any (fun i => i ≠ 0 && kids.count i ≠ 1) ||
    (List.range n).any (fun i => 4 < depthIn tree 5 i) ||
    tree.any fun x => x.kind = .leaf && cores < x.coreFirst + x.coreCount

/-- The core indices below a node. -/
def coresBelow (tree : List TreeNode) : Nat → Nat → List Nat
  | 0, _ => []
  | f + 1, i =>
    let x := tree.getD i .none_
    if x.kind = .leaf then (List.range x.coreCount).map (x.coreFirst + ·)
    else (x.kids.flatMap fun k => coresBelow tree f k).eraseDups

/-- The checks of R41 for PIPE and STREAM. -/
def badLinks (tree : List TreeNode) : Bool :=
  tree.any fun x =>
    let node (i : Nat) : TreeNode := tree.getD i .none_
    let all := x.kids.flatMap fun k => coresBelow tree 4 k
    let disjoint : Bool := all.eraseDups.length = all.length
    match x.kind with
    | .pipe => !disjoint || x.kids.any fun k => (node k).kind ≠ .leaf || (node k).nest.total ≠ (node x.first).nest.total
    | .stream => !disjoint
    | _ => false

/-- The first level of a nest block that is refused. -/
def badLevel (nest : List Byte) : Option Nat :=
  (List.range 6).find? fun j =>
    let b := areaNum nest (8 + 8 * j) 4
    let st := areaNum nest (12 + 8 * j) 4
    if j < areaNum nest 0 1 then 2 ^ 31 ≤ st else b ≠ 0 || st ≠ 0

/-- The detail of NEST_INVALID (R263), in the order of its table. -/
def Read.refused (r : Read) (cores : Nat) : Option Nat :=
  let tree := (r.nodes.zip r.nests).map fun x => treeNode x.1 x.2
  let leaves := (r.nodes.zip r.nests).filter fun x => areaNum x.1 0 1 = 3
  if r.badHead || (r.nodes.zip r.nests).any (fun x => Read.badNode x.1 x.2) || badTree tree cores || badLinks tree then some 0
  else
    match leaves.findSome? fun x => badLevel x.2 with
    | some j => some j
    | none => if tree.any fun x => x.kind = .leaf && 2 ^ 48 ≤ x.nest.total then some 15 else none

/-! ## Job queues (R226 to R230) -/

/-- Job `id`. -/
def State.job (s : State) (id : Nat) : Option Job := SMap.get none s.jobs id

/-- Region `r`. -/
def State.region (s : State) (r : Nat) : Option Region := SMap.get none s.regions r

/-- The jobs of a region, with their jobids. -/
def State.jobsOf (s : State) (r : Nat) : List (Nat × Job) :=
  s.jobs.filterMap fun e => match e.2 with
    | some j => if j.region = r then some (e.1, j) else none
    | none => none

/-- Entries of a region's queue in use: reserved or open. -/
def State.entriesOf (s : State) (r : Nat) (reserved : Bool) : Nat := ((s.jobsOf r).filter fun e => e.2.reservedEntry = reserved).length

/-- Writes a job's completion word. -/
def State.report (s : State) (j : Job) (status : Nat) : State :=
  (s.touch j.donePlace).store (.other 0) (piecesOf j.donePlace (toBytes status 8))

/-- A job enters DONE: its status is written and its entry freed. -/
def State.endEntry (s : State) (id : Nat) (j : Job) (status : Nat) : State :=
  let s1 := s.report j status
  { s1 with jobs := s1.jobs.del id }

/-- The value of predecessor word `va` of a job, under its tables; a word that cannot be read counts as pending. -/
def State.predValue (s : State) (j : Job) (va : Word) : Nat :=
  match s.walk j.root va with
  | none => pendingWord.toNat
  | some f =>
    let p := f.page.base.plus (bits va 11 0)
    if s.poisonAt p then pendingWord.toNat else s.numAt p 8

/-- The requests that looking at the predecessors of a job makes (R153). -/
def State.lookAt (s : State) (j : Job) : State :=
  (j.preds.filter (· ≠ 0)).foldl (fun (u : State) va =>
    let v := u.walkTouch j.root va
    match s.walk j.root va with
    | some ⟨_, _, .dev n, _, _, _, _, _⟩ => v.reclaimAt (4096 * n + bits va 11 0)
    | _ => v) s

/-- The predecessor whose completion word stands at `va` has executed HINTNEXT. -/
def State.hinted (s : State) (j : Job) (va : Word) : Bool :=
  match s.walk j.root va with
  | none => false
  | some f => s.jobs.any fun e => match e.2 with
    | some x => x.hint && x.donePlace = f.page.base.plus (bits va 11 0)
    | none => false

/-- How the dependences of a job stand: one has failed, all are met, or neither. -/
inductive Depend where
  | failed
  | met
  | unmet
  deriving DecidableEq, Repr

/-- The dependences of a job (R229). -/
def State.depend (s : State) (j : Job) : Depend :=
  let ps := ((List.range 4).map fun i => (i, j.preds.getD i 0)).filter fun x => x.2 ≠ 0
  if ps.any fun x => let v := s.predValue j x.2; v ≠ 0 && v ≠ pendingWord.toNat then .failed
  else if ps.all fun x => s.predValue j x.2 = 0 || (j.sa.getD x.1 false && s.hinted j x.2) then .met
  else .unmet

/-- A READY job that has not run and whose predecessor has failed since (R229). -/
def State.failedReady (s : State) (j : Job) : Bool := j.state = .ready && j.resume = .fresh && s.depend j = .failed

/-- A job whose dependences are looked at: it ends with status 3, is READY, or stays as it is. -/
def State.settle (s : State) (id : Nat) (j : Job) : State :=
  match s.depend j with
  | .failed => (s.lookAt j).endEntry id j 3
  | .met => (s.lookAt j).setJob id { j with state := .ready }
  | .unmet => (s.lookAt j).setJob id j

/-- DEPENDENCE_MET: the predecessors of a job that has not run are looked at. One that HINTNEXT has made READY ends with status 3 where a
predecessor has failed since. -/
def execDependenceMet (job : BitVec 32) (s : State) : Host.Outcome State Fault Refusal :=
  finish (match s.job job.toNat with
    | some j =>
      if j.state = .queued then s.settle job.toNat j
      else if s.failedReady j then (s.lookAt j).endEntry job.toNat j 3
      else s
    | none => s)

/-! ## What a file shares (R452) -/

/-- Writes bytes at virtual addresses of a job, as Titania; a byte of a page that is not mapped is not written. -/
def State.placeData (s : State) (root : Word) (d : List (Word × Byte)) : State :=
  let ps := d.filterMap fun x => (s.walk root x.1).map fun f => (f.page.base.plus (bits x.1 11 0), x.2)
  let s1 := d.foldl (fun (u : State) x => u.walkTouch root x.1) s
  (ps.foldl (fun (u : State) x => u.touch x.1) s1).store (.other 0) ps

/-- Places the .data that the kernels of a file share, once for a tenant (R452). -/
def State.placeShared (s : State) (tenant : Nat) (root : Word) (f : Nat) : State :=
  if s.placed.contains (f, tenant) then s
  else
    let s1 := s.placeData root (Config.fileData f)
    { s1 with placed := s1.placed ++ [(f, tenant)] }

/-- Places what the files of a job's kernels share. A tenant loads a file before it admits a job of it, and this is the latest moment
(log 132). -/
def State.loadFiles (s : State) (r : Region) (tree : List TreeNode) : State :=
  ((tree.filter fun x => x.kind = .leaf).map fun x => Config.kernelFile x.entry.toNat).eraseDups.foldl
    (fun (u : State) f => u.placeShared r.tenant r.satp f) s

/-! ## ENQ, ENQC, DEQ (R227, R228, R261, R325 to R327) -/

/-- A job asks for more than its issuer holds (R261). -/
def beyond (i : Job) (h : List Byte) : Bool :=
  let n := areaNum h 73 1
  i.prio < areaNum h 1 1 % 16 || i.quota < areaNum h 3 1 || (!i.hostScope && areaNum h 74 1 % 2 = 1) ||
    (n ≠ 0 && (areaNum h 72 1 < i.tagBase || i.tagBase + i.tagCount < areaNum h 72 1 + n))

/-- A jobid for a new job: nonzero, and none that stands for another job. Which one it is stays free (R227). -/
def State.newJobid (s : State) : BitVec 32 :=
  let c0 := (s.free 140000).toNat
  let used (v : BitVec 32) : Bool := v = 0 || s.jobs.any (fun e => e.1 = v.toNat) || s.cores.any fun e => e.2.jobid = v
  match (List.range (s.jobs.length + s.cores.length + 2)).find? fun i => !used (BitVec.ofNat 32 (c0 + i)) with
  | some i => BitVec.ofNat 32 (c0 + i)
  | none => 0

/-- Which entry of the target queue a job takes: reserved or open; none where there is none (R227). -/
def State.entryFor (s : State) (r : Nat) (child : Bool) : Option Bool :=
  if child && s.entriesOf r true < 8 then some true else if s.entriesOf r false < 56 then some false else none

/-- Step 6 of R325: the job takes an entry; without one an ENQC returns 0, and an ENQ waits with what it has read. -/
def State.enter (s : State) (c k : Nat) (rd : BitVec 5) (r : Nat) (child : Bool) (q : Read) (place : Phys) : State :=
  match s.entryFor r child with
  | none =>
    if child then scalar rd 0 s
    else s.onStrand c k fun t => { t with request := some { pc := t.pc, words := q.words, place := place } }
  | some reserved =>
    let id := s.newJobid
    let tree := (q.nodes.zip q.nests).map fun y => treeNode y.1 y.2
    let j := { jobOfRecord q.head tree r (s.core c).jobid (s.strand c k).satp place s.tick with reservedEntry := reserved }
    let s0 := (s.region r).elim s fun x => s.loadFiles x tree
    let s1 := (s0.touch place).store (.strand c k) (piecesOf place (toBytes pendingWord.toNat 8))
    scalar rd (id.setWidth 64) (s1.settle id.toNat j)

/-- Steps 3 to 6 of R325, on a record that has been read. -/
def State.accept (s : State) (c k : Nat) (rd : BitVec 5) (va : Word) (r : Nat) (child : Bool) (q : Read) : State :=
  match if r < 64 then s.region r else none, s.jobOf c with
  | some x, some i =>
    let own := (s.core c).region.bind s.region
    if (own.map (·.tenant)) ≠ some x.tenant || beyond i q.head then scalar rd 0 s
    else
      match q.refused x.cores.length with
      | some d => s.raise (devFault fNestInvalid d va)
      | none =>
        match s.translate c k (word (areaNum q.head 8 8)) .store with
        | (.error e, s1) => s1.raise e
        | (.ok place, s1) =>
          if child && !(i.region = r && i.state = .running) then scalar rd 0 s1 else s1.enter c k rd r child q place
  | _, _ => scalar rd 0 s

/-- The bytes that a record at `va` is read from, as far as it can be read. -/
def State.recordSpan (s : State) (c k : Nat) (va : Word) : List (Spot × Nat) :=
  s.wordSpan c k va 16 ++
    match (s.readJob c k va).1 with
    | .error _ => s.wordSpan c k (va + 128) 256
    | .ok q =>
      s.wordSpan c k (va + 128) (4 * q.nodes.length) ++
        (q.nodes.filter fun b => areaNum b 0 1 = 3).flatMap fun b => s.wordSpan c k (word (areaNum b 24 8)) 8

/-- ENQ and ENQC: the reads come after the strand's older stores to the record (R24). -/
def enqueue (f7 : BitVec 7) (child : Bool) (rd rs1 rs2 : BitVec 5) (s : State) : Host.Outcome State Fault Refusal :=
  xr f7 rd rs1 rs2 .x .x .x (fun _ s =>
    let c := s.who.1
    let k := s.who.2
    let va := rx s rs1
    let r := (rx s rs2).toNat
    match s.cur.request.filter (fun x => x.pc = s.cur.pc) with
    | some x => (s.onStrand c k fun t => { t with request := none }).enter c k rd r child (Read.ofWords x.words) x.place
    | none =>
      if va.toNat % 64 ≠ 0 then s.raise (exc 4 va)
      else if s.storeQueued c k (s.recordSpan c k va) then s
      else
        match s.readJob c k va with
        | (.error x, s1) => s1.raise x
        | (.ok q, s1) => s1.accept c k rd va r child q) s

/-- ENQ. -/
def execEnq (rd rs1 rs2 : BitVec 5) (s : State) : Host.Outcome State Fault Refusal := enqueue 0x22 false rd rs1 rs2 s

/-- ENQC. -/
def execEnqc (rd rs1 rs2 : BitVec 5) (s : State) : Host.Outcome State Fault Refusal := enqueue 0x24 true rd rs1 rs2 s

/-! ## What a job holds (R46, R290) -/

/-- Every hold of a strand's rows is released, and its entries are FREE (R161). -/
def State.freeRows (s : State) (c k : Nat) : State :=
  (List.range 8).foldl (fun (u : State) i => if ((u.strand c k).row i).held then u.releaseRow c k i else u) s

/-- Probes of a strand stop being live, with their pins (R121). -/
def State.freeProbes (s : State) (c k : Nat) : State :=
  (s.strand c k).probes.foldl (fun (u : State) e => u.setProbe c k e.1 { e.2 with live := false, pages := [] }) s

/-- Frees the slots of a table that a job holds or has retired. -/
def endTiles (id : BitVec 32) (m : SMap Tile) : SMap Tile := m.map fun x => (x.1, x.2.jobEnd id)

/-- The tables that a stopped job keeps, once job `id` has ended. -/
def Job.endTiles (id : BitVec 32) (j : Job) : Job :=
  { j with savedCores := j.savedCores.map fun e => (e.1, { e.2 with tiles := Machine.endTiles id e.2.tiles }) }

/-- Frees the slots of a job that has ended: in L1 on every die, in the tables of the region's cores, and where it has retired one, in the
tables that stopped jobs keep (R132). -/
def State.freeSlots (s : State) (id : BitVec 32) (cores : List Nat) : State :=
  let s1 := cores.foldl (fun (u : State) c => u.onCore c fun r => { r with tiles := endTiles id r.tiles }) s
  { s1 with dies := s1.dies.map fun e => (e.1, { e.2 with tiles := endTiles id e.2.tiles }),
            jobs := s1.jobs.map fun e => (e.1, e.2.map (Job.endTiles id)),
            savedResv := s1.savedResv.filter fun r => r.job ≠ id.toNat,
            backing := s1.backing.filter fun e => e.1 / 2 ^ 26 ≠ id.toNat }

/-- What a job holds on core `c`, but for its handles, is released: slots with their queues and circuits, ports, copies, buffers and
tables, and the rows, probes and watches of its strands (R46); the core runs no job then (R93). -/
def State.freeCore (s : State) (c : Nat) : State :=
  let s1 := (s.core c).slots.foldl (fun (u : State) e => if e.2.state = .free then u else u.releaseSlot c e.1) s
  let s2 := (List.range 4).foldl (fun (u : State) k => (u.freeRows c k).freeProbes c k) s1
  let s3 := (List.range 4).foldl (fun (u : State) k => u.onStrand c k fun t =>
    { t with watches := [], inStep := false, ctxSaved := false, heldBy := none, giveUp := [] }) s2
  s3.onCore c fun r =>
    { r with slots := [], queues := [], ports := [], copies := [], wbufs := [], cbs := [], flights := [], args := [], jobid := 0,
             record := none }

/-- Everything that job `id` holds in a region. -/
def State.freeJob (s : State) (id : BitVec 32) (r : Region) : State :=
  (r.cores.foldl (fun (u : State) c => u.freeCore c) s).freeSlots id r.cores

/-- The pages that physical-address tokens of saved cores pin (R164). -/
def tokenPins (cores : SMap Core) : List PPage :=
  cores.flatMap fun e => e.2.slots.flatMap fun y =>
    (y.2.rec_.places.filter fun x => y.2.rec_.physical x.1).flatMap fun x =>
      let r := SMap.get Core.reset cores x.2.1
      pinnedBy ((SMap.get Queue.reset r.queues x.2.2).items ++ (r.flights.filter fun w => w.q = x.2.2).map (·.item))

/-- What a stopped job's saved state still holds: pinned pages and, after a freeze-scan, rows (R164, R293). -/
def State.freeSaved (s : State) (id : Nat) (j : Job) : State :=
  let pages := (j.savedStrands.flatMap fun e => (e.2.probes.flatMap fun p => p.2.pages) ++ e.2.vtsafePages) ++ tokenPins j.savedCores
  let rows := if j.resume = .frozen then (j.savedStrands.flatMap fun e => e.2.held).filterMap fun r => s.rowOf (.dev r.phys) else []
  let s1 := (s.unpinAll pages).setJob id { j with savedStrands := [] }
  let s2 := rows.foldl (fun (u : State) b =>
    if u.rowsAll.contains b then u
    else
      match u.findRowSlot (bankOf b) fun x => x.block = some b with
      | some n => { u with rowSlots := u.rowSlots.del (4 * bankOf b + n) }
      | none => u) s1
  let tags := j.savedCores.flatMap fun e => e.2.slots.flatMap fun y => y.2.rec_.routes.map (·.tag)
  (tags.foldl (fun (u : State) t => u.loseTag t) s2).freeSlots (BitVec.ofNat 32 id) ((s.region j.region).elim [] (·.cores))

/-- DEQ: the store of the status is a release, which comes after the strand's older accesses (R228). -/
def execDeq (rd rs1 rs2 : BitVec 5) (s : State) : Host.Outcome State Fault Refusal :=
  xr 0x23 rd rs1 rs2 .x .x .z (fun _ s =>
    let v := (rx s rs1).toNat
    match if v < 2 ^ 32 then s.job v else none with
    | some j =>
      if (j.state = .queued || j.state = .ready) && j.issuer = (s.core s.who.1).jobid then
        if s.cur.lq ≠ [] || s.cur.sq ≠ [] || s.cur.walks ≠ [] then s
        else scalar rd 1 (((s.freeSaved v j).endEntry v j 1))
      else scalar rd 0 s
    | none => scalar rd 0 s) s

/-! ## The end of a job (R46, R226, R233, R290) -/

/-- The region becomes free, and the reserve that is left returns to the account. DESIGN CHOICE (log 107): the account is held to its
ceiling only at the next refill, as R233's code says, so that until then it may stand above 2,400,000. -/
def State.leaveRegion (s : State) (j : Job) (r : Region) : State :=
  let s1 := s.setRegion j.region { r with running := none, limit := none }
  { s1 with account := s1.account + j.reserve }

/-- A job that owns its region ends with a status: its resources are released and its entry freed. -/
def State.endJob (s : State) (id : Nat) (j : Job) (r : Region) (status : Nat) : State :=
  let s1 := (s.freeJob (BitVec.ofNat 32 id) r).leaveRegion j r
  (s1.endEntry id j status).startWindows none r.cores

/-- Step 1 of R290: a strand that is not HALTED becomes IDLE. -/
def Strand.aborted (t : Strand) : Strand :=
  if t.status = .halted then t
  else { t with status := .idle, wait := none, lq := [], aq := [], sq := [], walks := [], feClear := [], fault := none,
                fences := [], stores := [], request := none, kept := false, vpos := 0 }

/-- Titania ends a job after a fault: its strands stop, its slots and copies end, it is released, and its monitors are told. -/
def State.abortJob (s : State) (id : Nat) (j : Job) (r : Region) : State :=
  let onAll (f : State → Nat → Nat → State) (u : State) : State :=
    r.cores.foldl (fun (v : State) c => (List.range 4).foldl (fun w k => f w c k) v) u
  let s1 := onAll (fun u c k => u.onStrand c k Strand.aborted) s
  onAll (fun u c k => u.notify c k 4 (word id)) (s1.endJob id j r 2)

/-- A strand of a region is HALTED. -/
def State.anyHalted (s : State) (r : Region) : Bool := r.cores.any fun c => (List.range 4).any fun k => (s.strand c k).status = .halted

/-- JOB_ABORT; a job with a HALTED strand ends by a containment reset instead. -/
def execJobAbort (job : BitVec 32) (s : State) : Host.Outcome State Fault Refusal :=
  finish (match s.job job.toNat with
    | some j =>
      match s.region j.region with
      | some r => if r.running = some job && !s.anyHalted r then s.abortJob job.toNat j r else s
      | none => s
    | none => s)

/-! ## The loader (R312) -/

/-- The probes of the labels on one strand: readable and writable. DESIGN CHOICE (log 128): a label whose page is missing or forbidden leaves
its probe not live, and the load goes on. -/
def State.loadLabels (s : State) (c k : Nat) (ls : List (Word × BitVec 32)) : State :=
  (List.range (min 8 ls.length)).foldl (fun (u : State) i =>
    let x := ls.getD i (0, 0)
    (u.probeRange c k i x.1 x.2.toNat true true).2) s

/-- A tile of a kernel in one table: its slot is free, neither allocated nor retired, and its level has a run of lines for it. -/
def placeTile (m : SMap Tile) (runs : List (Nat × Nat)) (i lines : Nat) (l1 : Bool) : Option Nat :=
  if (SMap.get Tile.reset m i).isFree then findRun runs (lineCount l1) lines else none

/-- A handle that names no slot that can be allocated at a level: the null slot, a slot of the other level, or bits beyond (R130). -/
def badHandle (h : Word) (l1 : Bool) : Bool := bits h 63 20 ≠ 0 || handleSlot h = 0 || decide (2048 ≤ handleSlot h) ≠ l1

/-- Allocates a tile of a kernel by its handle and shape, on a core, or on a die for L1: none where the handle names no slot of the
level or the slot is not free. -/
def State.loadTile (s : State) (id : BitVec 32) (region c : Nat) (h shape : Word) (full : Bool) (init : List Nat) : Option State :=
  let l1 := bit shape 35
  let n := handleSlot h
  let d := dieOf c
  let table := if l1 then (s.die d).tiles else (s.core c).tiles
  let t0 : Tile :=
    { allocated := true, state := if full then .full else .empty, gen := h.setWidth 8, wc := shape.extractLsb' 32 3, res := 0,
      rowsm1 := shape.extractLsb' 0 16, colsm1 := shape.extractLsb' 16 16, job := id, region := BitVec.ofNat 6 region, drains := 0,
      base := 0 }
  match if badHandle h l1 then none else placeTile table (s.levelRuns l1 c) (if l1 then n - 2048 else n) t0.lines l1 with
  | none => none
  | some b =>
    let t := { t0 with base := b }
    let s1 :=
      if l1 then let x := s.die d; s.setDie d { x with l1 := dropRun x.l1 b t.lines, l1poison := dropRun x.l1poison b t.lines }
      else s.onCore c fun r => { r with l0 := dropRun r.l0 b t.lines, l0poison := dropRun r.l0poison b t.lines }
    let s2 := s1.setTile c n t
    some (if full then s2.tileStore c n t ((List.range (min init.length t.size)).map fun i => (i, init.getD i 0)) else s2)

/-- Allocates a list of tiles, each on one core. -/
def State.loadTiles (id : BitVec 32) (region : Nat) : List (Nat × Word × Word × Bool × List Nat) → State → Option State
  | [], s => some s
  | (c, h, sh, full, init) :: xs, s =>
    match s.loadTile id region c h sh full init with
    | none => none
    | some u => State.loadTiles id region xs u

/-- One core of each die. -/
def oneOfEachDie (cs : List Nat) : List Nat := cs.filter fun c => cs.find? (fun x => dieOf x = dieOf c) = some c

/-- The initial elements of tile `i` of kernel `e` on core `c`: the loader fills in `self` and the handles of the kernel's tiles (R313,
R461). -/
def kernelElems (e i c : Nat) : List Nat :=
  let ts := Config.kernelTiles e
  (Config.kernelFills e i).foldl (fun l x =>
    let v := match x.2.2 with
      | none => c
      | some t => (ts.getD t (0, 0, false)).1.toNat
    l.set x.1 (l.getD x.1 0 + v * 2 ^ x.2.1)) (Config.kernelInit e i)

/-- The tiles of kernel `e` for its leaf cores and its region's dies. -/
def kernelPlaces (e : Nat) (leaf region : List Nat) : List (Nat × Word × Word × Bool × List Nat) :=
  let ts := Config.kernelTiles e
  (List.range ts.length).flatMap fun i =>
    let x := ts.getD i (0, 0, false)
    (if bit x.2.1 35 then oneOfEachDie region else leaf).map fun c => (c, x.1, x.2.1, x.2.2, kernelElems e i c)

/-- Loads the kernel of entry `e` onto its cores: none where a slot is not free. -/
def State.loadKernel (s : State) (id : BitVec 32) (j : Job) (r : Region) (e : Nat) : Option State :=
  let leaves := (j.tree.filter fun x => x.kind = .leaf && x.entry.toNat = e).flatMap fun x => (r.leafCores x).map (·.2)
  let cs := leaves.eraseDups
  let s1 := (s.placeShared r.tenant r.satp (Config.kernelFile e)).placeData r.satp (Config.kernelData e)
  let s2 := cs.foldl (fun (u : State) c =>
    (List.range (min 4 (Config.kernelStrands e))).foldl (fun v k => v.loadLabels c k (Config.kernelLabels e)) u) s1
  State.loadTiles id j.region (kernelPlaces e cs r.cores) s2

/-- Loads each kernel of a job's leaves, in tree order. -/
def State.loadAll (id : BitVec 32) (j : Job) (r : Region) : List Nat → State → Option State
  | [], s => some s
  | e :: es, s =>
    match s.loadKernel id j r e with
    | none => none
    | some u => State.loadAll id j r es u

/-! ## Selection (R231 to R233, R269, R271, R294) -/

/-- RESERVE, in µJ. -/
def reserveOf (eclass : Nat) : Nat := if eclass = 0 then 0 else 25000 * 2 ^ (eclass - 1)

/-- A job's rank. -/
def Job.rank (j : Job) : Nat := if j.passes = 4 then 16 else j.prio

/-- One READY job comes before another. -/
def before (a b : Nat × Job) : Bool :=
  b.2.rank < a.2.rank || (a.2.rank = b.2.rank && (a.2.admitted < b.2.admitted || (a.2.admitted = b.2.admitted && a.1 < b.1)))

/-- The best of a list of jobs. -/
def bestOf : List (Nat × Job) → Option (Nat × Job)
  | [] => none
  | x :: xs =>
    match bestOf xs with
    | none => some x
    | some y => some (if before x y then x else y)

/-- A job starts on the cores of its region: counters, buffers and tables as at job start, epochs 0, and its page tables (R83, R143,
R158, R279). -/
def State.startCores (s : State) (id : BitVec 32) (r : Region) : State :=
  r.cores.foldl (fun (u : State) c =>
    (List.range 4).foldl (fun (v : State) k => v.onStrand c k fun t =>
      { t with events := [], satp := r.satp, rows := [], priv := .u, written := [], inStep := false })
      (u.onCore c fun x => { x with jobid := id, events := [], wbufs := [], cbs := [], args := [] })) s

/-- The L0 table of a restored core: the saved one, with the generations and the retired slots that other jobs have left since in the
slots that were free in it (R132). -/
def restoreTiles (saved live : SMap Tile) : SMap Tile :=
  live.foldl (fun m e => if (SMap.get Tile.reset saved e.1).isFree && !e.2.allocated then m.put e.1 e.2 else m) saved

/-- A saved core in the place of the one that stands now: what no job owns stays. -/
def Core.restored (saved now : Core) : Core :=
  { saved with seq := now.seq, region := now.region, cycle := now.cycle, tiles := restoreTiles saved.tiles now.tiles,
               limit := none, window := 0, admitted := [] }

/-- Job `id`, which was stopped, has its cores and strands back as they were saved; sequence numbers are kept (R275, R294), a strand has
the reservation that no write has ended since (R197), and a trap-safe range that another job has registered is not pinned any more. -/
def State.restoreCores (s : State) (id : Nat) (j : Job) : State :=
  let s1 := j.savedCores.foldl (fun (u : State) e => u.setCore e.1 (e.2.restored (u.core e.1))) s
  let s2 := j.savedStrands.foldl (fun (u : State) e =>
    (u.unpinAll (u.strand (e.1 / 4) (e.1 % 4)).vtsafePages).setStrand (e.1 / 4) (e.1 % 4)
      { e.2 with resv := (s.savedResv.find? fun r => r.job = id && r.strand = e.1).map (·.line) }) s1
  { s2 with savedResv := s2.savedResv.filter fun r => r.job ≠ id }

/-- The limiter that a job brings. -/
def Job.limiter (j : Job) : Option (Nat × Nat) := if j.limT = 0 || j.limW = 0 then none else some (j.limT, j.limW)

/-- A root that has completed ends the job with status 0. -/
def State.checkRoot (s : State) (id : Nat) (j : Job) (r : Region) : State := if j.rootDone then s.endJob id j r 0 else s

/-- Job `id` owns its region and runs. DESIGN CHOICE (log 129): where the load fails for want of a slot, nothing of it stays, be it .data or
probes. -/
def State.runJob (s : State) (id : Nat) (j : Job) (r : Region) : State :=
  let r1 := { r with running := some (BitVec.ofNat 32 id), limit := j.limiter }
  let j1 := { j with state := .running, timer := j.quantum, reserve := reserveOf j.eclass, resume := .fresh, savedCores := [],
                     savedStrands := [] }
  let s1 := (s.setRegion j.region r1).setJob id j1
  let s2 := { s1 with account := s1.account - reserveOf j.eclass }
  match j.resume with
  | .fresh =>
    let s3 := s2.startCores (BitVec.ofNat 32 id) r
    let entries := ((j.tree.filter fun x => x.kind = .leaf && x.nest.total ≠ 0).map fun x => x.entry.toNat).eraseDups
    match State.loadAll (BitVec.ofNat 32 id) j r entries s3 with
    | none => s3.abortJob id j1 r1
    | some s4 => (s4.startWindows j.limiter r.cores).checkRoot id j1 r1
  | _ => (s2.restoreCores id j).startWindows j.limiter r.cores

/-- A region selects a job when it can: it is free, its clocks run, and its queue holds a READY job. -/
def State.selects (s : State) (region : Nat) : Bool :=
  (s.region region).any fun r => r.running.isNone && !r.frozen && (s.jobsOf region).any fun e => e.2.state = .ready

/-- The requests for energy that stand before Titania when `region` asks, in order (R233). -/
def State.requests (s : State) (region : Nat) : List Nat :=
  let l := s.draws.filter s.selects
  if l.contains region then l else l ++ [region]

/-- JOB_SELECTION: a free region whose clocks run selects its best READY job once its request is the first that stands and the account
covers the job's reserve. DESIGN CHOICE (log 108): a region that waits keeps its place when another job of its queue becomes READY. A
job whose predecessor has failed since it became READY ends with status 3 instead (R229). -/
def execJobSelection (region : Nat) (s : State) : Host.Outcome State Fault Refusal :=
  finish (match s.region region with
    | some r =>
      let ready := (s.jobsOf region).filter fun e => e.2.state = .ready
      match bestOf ready with
      | some (id, j) =>
        if r.running.isSome || r.frozen then s
        else if s.failedReady j then (s.lookAt j).endEntry id j 3
        else
          let q := s.requests region
          if q.head? ≠ some region || s.account < reserveOf j.eclass then { s with draws := q }
          else
            let s1 := ready.foldl (fun (u : State) e =>
              if e.1 = id then u else u.setJob e.1 { e.2 with passes := min 4 (e.2.passes + 1) }) { s with draws := q.tail }
            s1.runJob id j r
      | none => s
    | none => s)

/-! ## Steps (R42 to R45, R189, R422) -/

/-- The 64 bytes of a step record. -/
def stepRecord (leaf : Nat) (x : TreeNode) (w : Walker) : List Byte :=
  toBytes w.s 8 ++ toBytes leaf 2 ++ toBytes x.nest.depth 1 ++ toBytes 0 5 ++
    wordBytes ((List.range 6).map fun i => word (w.c.getD i 0 * x.nest.steps.getD i 0))

/-- FSINK counts start again from 0. -/
def clearSinks (e : Nat × Slot) : Nat × Slot :=
  let r := e.2.rec_
  (e.1, { e.2 with nodes := e.2.nodes.map fun x =>
    if (r.node x.1).kind = 2 && (r.node x.1).opn = 0xC0 then (x.1, x.2.setReg 0 0) else x })

/-- Step entry on one core, of index `a3` in its region. -/
def State.enterCore (s : State) (j : Job) (leaf a3 c : Nat) : State :=
  let x := j.node leaf
  let w := j.walker leaf
  let at_ : Word := word ((Config.stepRecord c).toNat / 64 * 64)
  let args := [word w.s, at_, j.args, word a3]
  let rec_ := stepRecord leaf x w
  let s1 := s.placeData ((s.region j.region).elim 0 (·.satp)) ((List.range 64).map fun i => (at_ + word i, rec_.getD i 0))
  let s2 := s1.onCore c fun r =>
    { r with slots := r.slots.map clearSinks, dcache := [],
             record := (s.walk ((s.region j.region).elim 0 (·.satp)) at_).map fun f => f.page.base.plus (bits at_ 11 0),
             args := [(0, word w.s), (1, at_), (2, j.args), (3, word a3), (4, x.entry)] }
  s2.onStrand c 0 fun t => t.stepEntry s2 x.entry (j.stack + word ((a3 + 1) * j.ssize)) args (slipOf x.entry)

/-- Row entries that a step-boundary stop released under SAVE are opened again (R161, R162, R234): none while one of them waits for a
row slot. DESIGN CHOICE (log 109): they are opened at the job's next step entry, which waits for them; no monitor can give them up. -/
def State.reopenAll : List (Nat × HeldRow) → State → Option State
  | [], s => some s
  | (i, r) :: rs, s =>
    let c := i / 32
    let k := i / 8 % 4
    match s.reopenRow c k (i % 8) r.vaddr r.saved with
    | .wait => none
    | .open_ u => State.reopenAll rs u
    | .lost =>
      let u := ((s.onStrand c k fun t => { t with rows := t.rows.put (i % 8) r.dropped }).notify c k 3 r.vaddr).emit
        (.telemetry 2 c (s.dieTime (dieOf c)) [r.vaddr.toNat])
      State.reopenAll rs u

/-- The running job of a region. -/
def State.runningJob (s : State) (region : Nat) : Option (Nat × Job × Region) :=
  match s.region region with
  | some r =>
    match r.running with
    | some id => (s.job id.toNat).map fun j => (id.toNat, j, r)
    | none => none
  | none => none

/-- STEP_ENTRY: a leaf that may run its next step does so on every core of it at once. -/
def execStepEntry (region leaf : Nat) (s : State) : Host.Outcome State Fault Refusal :=
  finish (match s.runningJob region with
    | some (id, j, r) =>
      if j.state ≠ .running || r.frozen || !j.mayStep leaf ||
          (r.leafCores (j.node leaf)).any (fun x => (s.strand x.2 0).status = .halted) then s
      else
        match State.reopenAll j.reopen s with
        | none => s
        | some s1 =>
          let w := j.walker leaf
          let w1 := { w with running := true, c := if w.c = [] then List.replicate (j.node leaf).nest.depth 0 else w.c }
          let j1 := { j.setWalker leaf w1 with reopen := [] }
          (r.leafCores (j.node leaf)).foldl (fun (u : State) x => u.enterCore j1 leaf x.1 x.2) (s1.setJob id j1)
    | none => s)

/-- A slot of a strand that keeps STEPEND waiting. -/
def Slot.live (y : Slot) : Bool := y.state = .spatial || y.state = .broken || y.state = .temporal

/-- STEPEND: a FENCEX at region scope, after which the strand is IDLE. -/
def execStepend (rd rs1 rs2 : BitVec 5) (s : State) : Host.Outcome State Fault Refusal :=
  xr 0x2A rd rs1 rs2 .z .z .z (fun _ s =>
    let c := s.who.1
    let k := s.who.2
    if !s.drained || s.cur.walks ≠ [] || (s.core c).slots.any (fun e => e.2.owner = k && e.2.live) ||
      s.copiesBusy c k (s.core c).copyOrder then s
    else ((s.dropCache c).done).onCur fun t => { t with status := .idle, wait := none, inStep := false }) s

/-- The FSINK nodes of a slot have counted their end-of-stream tokens. -/
def Slot.sunk (y : Slot) : Bool :=
  y.state = .free || (List.range y.rec_.nodes.length).all fun n =>
    let x := y.rec_.node n
    x.kind ≠ 2 || x.opn ≠ 0xC0 || x.param ≤ (y.node n).reg 0

/-- A step is over on a core. -/
def State.coreOver (s : State) (c : Nat) : Bool :=
  (List.range 4).all (fun k => !(s.strand c k).inStep) && (s.core c).slots.all (fun e => e.2.sunk) &&
    (s.core c).copies.all fun e => e.2.state = .free || e.2.state = .done

/-- Copy entries left DONE are FREE (R237). -/
def freeDone (e : Nat × Copy) : Nat × Copy := if e.2.state = .done then (e.1, { Copy.reset with order := e.2.order }) else e

/-- STEP_COMPLETE: the walker advances; the leaf, and the job with its root, complete. -/
def execStepComplete (region leaf : Nat) (s : State) : Host.Outcome State Fault Refusal :=
  finish (match s.runningJob region with
    | some (id, j, r) =>
      let cs := (r.leafCores (j.node leaf)).map (·.2)
      if r.frozen || !(j.walker leaf).running || !cs.all s.coreOver then s
      else
        let j1 := j.setWalker leaf ((j.walker leaf).after (j.node leaf).nest)
        let s1 := cs.foldl (fun (u : State) c => u.onCore c fun x => { x with copies := x.copies.map freeDone }) s
        (s1.setJob id j1).checkRoot id j1 r
    | none => s)

/-! ## Quantum, stops and freeze-scans (R234, R235, R271, R292, R293) -/

/-- The time of a grace, in ticks. -/
def graceTicks : Nat := 20000

/-- QUANTUM_EXPIRY: the timer starts again, or, with a READY rival, the job is STOPPING and its leaf cores are told. -/
def execQuantumExpiry (region : Nat) (s : State) : Host.Outcome State Fault Refusal :=
  .next (match s.runningJob region with
    | some (id, j, r) =>
      if j.state ≠ .running || j.quantum = 0 || j.timer ≠ 0 then s
      else if !((s.jobsOf region).any fun e => e.2.state = .ready) then s.setJob id { j with timer := j.quantum }
      else
        let cs := ((j.tree.filter fun x => x.kind = .leaf).flatMap fun x => (r.leafCores x).map (·.2)).eraseDups
        let s1 := cs.foldl (fun (u : State) c => u.notify c 0 1 (word (s.time + graceTicks))) s
        s1.setJob id { j with state := .stopping, grace := s.time + graceTicks }
    | none => s)

/-- A strand for the next job of its region: IDLE, with its CSRs as they stand and nothing of the stopped job (R10), whose trap-safe range
stays registered and pinned in its saved state. DESIGN CHOICE (log 127): vtwin.TW is 0 for the next job, as the stopped job keeps its own. -/
def Strand.handedOver (t : Strand) : Strand :=
  { t with status := .idle, priv := .u, wait := none, tw := false, x := [], v := [], hwm := [], feClear := [], m := [], vl := 0,
           vstart := 0, vflags := 0, modes := .reset, probes := [], lq := [], aq := [], sq := [], vpos := 0, walks := [], rows := [],
           resv := none, watches := [], notices := [], tlb := [], fault := none, fences := [], stores := [], request := none,
           written := [], kept := false, inStep := false, ctxSaved := false,
           vtsafe := 0, vtsafePages := [], heldBy := none, giveUp := [] }

/-- A slot of an L0 table for the next job: free where the stopped job has it allocated, which its saved table keeps; a retired slot, and
the generation of a free one, stay (R132). -/
def Tile.handedOver (t : Tile) : Tile := if t.allocated then Tile.reset else t

/-- A core for the next job. -/
def Core.handedOver (r : Core) : Core :=
  { Core.reset with region := r.region, seq := r.seq, cycle := r.cycle, tiles := r.tiles.map fun e => (e.1, e.2.handedOver) }

/-- A core as a stopped job keeps it: the counts of its input ports are discarded (R273). -/
def Core.parked (r : Core) : Core := { r with limit := none, window := 0, admitted := [] }

/-- Saves the cores and strands of a region into a job, and leaves the region to the next. -/
def State.saveRegion (s : State) (id : Nat) (j : Job) (r : Region) (how : Resume) (rows : SMap HeldRow) : State :=
  let keys := r.cores.flatMap fun c => (List.range 4).map (4 * c + ·)
  let lim := r.limit.getD (0, 0)
  let j1 := { j with
    state := .ready, passes := 0, reserve := 0, resume := how, limT := lim.1, limW := lim.2, reopen := rows,
    savedCores := r.cores.map fun c => (c, (s.core c).parked),
    savedStrands := keys.map fun i => (i, { s.strand (i / 4) (i % 4) with resv := none }) }
  let resv := keys.filterMap fun i => (s.strand (i / 4) (i % 4)).resv.map fun l => { job := id, strand := i, line := l : SavedResv }
  let s1 := r.cores.foldl (fun (u : State) c => u.setCore c (u.core c).handedOver) s
  let s2 := keys.foldl (fun (u : State) i => u.onStrand (i / 4) (i % 4) Strand.handedOver) s1
  ({ s2 with savedResv := s2.savedResv ++ resv }.setJob id j1).leaveRegion j r

/-- The rows that a region's strands hold, for a stop under SAVE. -/
def State.rowsToReopen (s : State) (r : Region) : SMap HeldRow :=
  r.cores.flatMap fun c => (List.range 4).flatMap fun k => (List.range 8).filterMap fun i =>
    let x := (s.strand c k).row i
    if x.held then some (8 * (4 * c + k) + i, x) else none

/-- A stop at a step boundary: rows go by the row policy, and the rest is saved. -/
def State.stopAtBoundary (s : State) (id : Nat) (j : Job) (r : Region) : State :=
  let rows := if j.drop then [] else j.reopen ++ s.rowsToReopen r
  let s1 := r.cores.foldl (fun (u : State) c => (List.range 4).foldl (fun v k => v.parkRows c k j.drop) u) s
  s1.saveRegion id j r .boundary rows

/-- No step of a job runs. -/
def Job.atBoundary (j : Job) : Bool := j.walkers.all fun e => !e.2.running

/-- STEP_BOUNDARY_STOP: the current steps of a STOPPING job have completed. -/
def execStepBoundaryStop (region : Nat) (s : State) : Host.Outcome State Fault Refusal :=
  .next (match s.runningJob region with
    | some (id, j, r) => if j.state = .stopping && j.atBoundary && !r.frozen then s.stopAtBoundary id j r else s
    | none => s)

/-- GRACE_EXPIRY: the region is freeze-scanned, or stops at the boundary that it has just reached. -/
def execGraceExpiry (region : Nat) (s : State) : Host.Outcome State Fault Refusal :=
  .next (match s.runningJob region with
    | some (id, j, r) =>
      if j.state ≠ .stopping || s.time < j.grace || r.frozen then s
      else if j.atBoundary then s.stopAtBoundary id j r
      else s.saveRegion id j r .frozen j.reopen
    | none => s)

/-! ## Limiters and energy (R233, R236, R273, R483) -/

/-- The window count of a core's input ports would reach W in the next cycle. -/
def Core.windowOver (r : Core) : Bool := r.limit.any fun l => l.2 ≤ r.window + 1

/-- RATE_WINDOW_BOUNDARY: at the input ports whose window count would reach W a window starts, with the limiter that RLIMSET has asked
for last. -/
def execRateWindowBoundary (region : Nat) (s : State) : Host.Outcome State Fault Refusal :=
  .next (match s.region region with
    | some r => s.startWindows r.limit (r.cores.filter fun c => (s.core c).windowOver)
    | none => s)

/-- DERATE, in W. -/
def derateOf (cap temp : Nat) : Nat := min 2400 ((2400 - cap) + 100 * (temp - 95))

/-- The energy measured for the region of a running job. -/
def measuredFor (m : List (Nat × Nat)) (r : Nat) : Nat := ((m.find? fun e => e.1 = r).map (·.2)).getD 0

/-- One job's draw: from its reserve first. -/
def drawFor (m : List (Nat × Nat)) (s : State) (e : Nat × Option Job) : State :=
  match e.2 with
  | none => s
  | some j =>
    if j.state ≠ .running && j.state ≠ .stopping then s
    else
      let used := measuredFor m j.region
      let take := min used j.reserve
      let s1 := s.setJob e.1 { j with reserve := j.reserve - take, timer := if j.state = .running then j.timer - 1 else j.timer }
      { s1 with account := s1.account - ((used - take : Nat) : Int) }

/-! ## Containment reset (R291) -/

/-- A strand after a containment reset: every register at its reset value, with its rows and probes released. -/
def State.resetStrand (s : State) (c k : Nat) : State :=
  let s1 := (s.freeRows c k).freeProbes c k
  (s1.unpinAll (s1.strand c k).vtsafePages).setStrand c k { Strand.reset with lastTime := (s1.strand c k).lastTime }

/-- A core after a containment reset: its handles, slots, ports and copies freed; its sequence number stays (R275). DESIGN CHOICE (log
110): its cycle count starts again from 0, since R83 counts from a reset and does not say which. -/
def State.resetCore (s : State) (c : Nat) : State :=
  let s1 := (s.core c).slots.foldl (fun (u : State) e => if e.2.state = .free then u else u.releaseSlot c e.1) s
  let s2 := (List.range 4).foldl (fun (u : State) k => u.resetStrand c k) s1
  s2.setCore c { Core.reset with region := (s2.core c).region, seq := (s2.core c).seq }

/-- Ends the job that runs in a region with status 2, with what it holds. -/
def State.resetJob (s : State) (region : Nat) : State :=
  match s.runningJob region with
  | some (id, j, r) =>
    let s1 := r.cores.foldl (fun (v : State) c => (List.range 4).foldl (fun w k => w.onStrand c k Strand.aborted) v) s
    s1.endJob id j r 2
  | none => s

/-- A TOKEN packet that the egress of a core has partly injected carries padding, and its receiver drops and counts it (R277, R291);
whether an item on its way had got so far only in part is a free choice (log 112). -/
def State.cutTokens (s : State) (c : Nat) : State :=
  s.cores.foldl (fun (u : State) e =>
    (List.range e.2.flights.length).foldl (fun (v : State) i =>
      match e.2.flights[i]? with
      | none => v
      | some f =>
        if e.1 ≠ c && f.src = c && Config.choice (4096 * s.tick + 64 * c + i) % 2 = 1 then v.countErr errFlitPad e.1
        else v) u) s

/-- A write packet that would lead from `s` to `u` is cut: of the lines that it changes, in a free order, those that it carried whole are
written, and those that the padding reaches become poisoned (R168, R291). How far the packet had got, if any of it had left at all, is a
free choice (log 112). -/
def State.cutWrite (s u : State) (pick : Nat) : State :=
  let lines (t : Tier) (d : Diff Byte) : List (Tier × Nat) := (d.map fun x => (t, x.1 / 64)).eraseDups
  let ls := lines .fast (diffOf s.fast u.fast) ++ lines .capacity (diffOf s.cap u.cap)
  let n := Config.choice (2 * pick) % (ls.length + 2)
  let m := Config.choice (2 * pick + 1) % max 1 ls.length
  let order := ls.drop m ++ ls.take m
  if n = 0 then s
  else
    let write (v : State) (x : Tier × Nat) : State :=
      ((List.range 64).foldl (fun (v : State) i => v.setTierByte x.1 (64 * x.2 + i) (u.tierByte x.1 (64 * x.2 + i))) v).setTierPoison x.1
        (64 * x.2) (u.tierPoison x.1 (64 * x.2))
    let spoil (v : State) (x : Tier × Nat) : State :=
      if v.tierPoison x.1 (64 * x.2) then v
      else (v.setTierPoison x.1 (64 * x.2) true).countErr errDramPoisoned (channelOf x.1 (64 * x.2))
    (order.drop (n - 1)).foldl spoil ((order.take (n - 1)).foldl write s)

/-- Cuts the packet of the oldest vector store of strand `k` that can act now. -/
def State.cutStore (s : State) (c k : Nat) : State :=
  match s.admitOne c k ((s.strand c k).sq.take 1) with
  | some u => s.cutWrite u (2 ^ 64 * (s.tick + 1) + 4 * c + k)
  | none => s

/-- Cuts the packet of what sink port `n` of core `c` has gathered. -/
def State.cutSink (s : State) (c n : Nat) : State := s.cutWrite (s.flushPort c n) (2 ^ 65 * (s.tick + 1) + 64 * c + n)

/-- Cuts the packet of a node's next access: FWRV, FSCAT and FHASHI write on the core that they lie on. -/
def State.cutNode (s : State) (h sl n : Nat) : State :=
  match s.fire h sl n false with
  | (.ok _, u) => s.cutWrite u (2 ^ 66 * (s.tick + 1) + 256 * h + 64 * sl + n)
  | _ => s

/-- The fibre nodes of running chains that lie on core `c`: core, slot and node. -/
def State.nodesOn (s : State) (c : Nat) : List (Nat × Nat × Nat) :=
  s.cores.flatMap fun e => e.2.slots.flatMap fun y =>
    if y.2.state = .spatial && y.2.breaking.isNone then
      ((List.range y.2.rec_.nodes.length).filter fun n => (y.2.rec_.node n).kind = 2 && (y.2.rec_.node n).core = c && !(y.2.node n).finished).map
        fun n => (e.1, y.1, n)
    else []

/-- What the egress of a core has partly injected when the core is reset is finished with poisoned padding (R291): packets of copies, of
vector stores, of sink ports and of nodes, and tokens. -/
def State.pad (s : State) (c : Nat) : State :=
  let s1 := (s.core c).copies.foldl (fun (u : State) e => u.cutBeat c e.1 e.2) s
  let s2 := (List.range 4).foldl (fun (u : State) k => u.cutStore c k) s1
  let s3 := (s2.core c).ports.foldl (fun (u : State) e => u.cutSink c e.1) s2
  ((s3.nodesOn c).foldl (fun (u : State) x => u.cutNode x.1 x.2.1 x.2.2) s3).cutTokens c

/-- The containment reset of a core or a region. -/
def State.contain (s : State) : ResetTarget → State
  | .core c =>
    let s1 := s.pad c
    (match (s1.core c).region with
    | some r => s1.resetJob r
    | none => s1).resetCore c
  | .region r =>
    match s.region r with
    | some x => x.cores.foldl (fun (u : State) c => u.resetCore c) ((x.cores.foldl State.pad s).resetJob r)
    | none => s

/-- The region that a target belongs to. -/
def State.targetRegion (s : State) : ResetTarget → Option Nat
  | .core c => (s.core c).region
  | .region r => some r

/-- CONTAINMENT_RESET; during a checkpoint it takes effect at the restore (R486). -/
def execContainmentReset (target : ResetTarget) (s : State) : Host.Outcome State Fault Refusal :=
  finish (match (s.targetRegion target).bind fun r => (s.region r).map fun x => (r, x) with
    | some (r, x) =>
      if x.frozen then s.setRegion r { x with resets := x.resets ++ [target] } else s.contain target
    | none => s.contain target)

end Sys2Proof.Machine
end

