-- ==== Sys2Proof/Machine/Device.lean ====
section
/-!
DEFINITION. What happens around the cores: errors, refresh and lending of DRAM, watchdogs, Titania's tables and tiles, hosts, the
Herez fabric, boot, trust, checkpoint, power and freeze (R39, R133, R140, R151 to R160, R163, R168, R256, R276 to R278, R295,
R466 to R486). What Titania, Onyx and the peers decide is the argument of an event; what the device does with it is its meaning.
-/
namespace Sys2Proof.Machine

/-! ## Errors and watchdogs (R129, R168, R277, R278) -/

/-- Lines of a tier: 384 GiB and 768 GiB of 64 bytes (R2, R3). -/
def tierLines : Tier → Nat
  | .fast => 6 * 2 ^ 30
  | .capacity => 12 * 2 ^ 30

/-- Channels of a tier (R2). -/
def tierChannels : Tier → Nat
  | .fast => 256
  | .capacity => 16

/-- Units of a level of tile memory, their banks, and the lines of a unit (R2, R124, R126). -/
def levelUnits : Level → Nat
  | .l0 => 256
  | .l1 => 4
def levelBanks : Level → Nat
  | .l0 => 31
  | .l1 => 127
def levelLines : Level → Nat
  | .l0 => lineCount false
  | .l1 => lineCount true

/-- DRAM_UNCORRECTABLE_ERROR: line `line` of a tier becomes poisoned. -/
def execDramUncorrectableError (tier : Tier) (line : Nat) (s : State) : Host.Outcome State Fault Refusal :=
  .next (if tierLines tier ≤ line then s
    else (s.setTierPoison tier (64 * line) true).countErr errDramPoisoned (channelOf tier (64 * line)))

/-- TILE_UNCORRECTABLE_ERROR: a line of an L0 or an L1 becomes poisoned. -/
def execTileUncorrectableError (level : Level) (unit line : Nat) (s : State) : Host.Outcome State Fault Refusal :=
  .next (if levelUnits level ≤ unit || levelLines level ≤ line then s
    else
      (match level with
      | .l0 => s.onCore unit fun r => { r with l0poison := r.l0poison.put line true }
      | .l1 => let d := s.die unit; s.setDie unit { d with l1poison := d.l1poison.put line true }).countErr errTilePoisoned
        (bankUnit level unit line))

/-- ECC_CORRECTED: a soft error is counted. -/
def execEccCorrected (place : EccPlace) (s : State) : Host.Outcome State Fault Refusal :=
  .next (match place with
    | .dramChannel t c =>
      if tierChannels t ≤ c then s else s.countErr errDramCorrected (match t with
        | .fast => c
        | .capacity => 256 + c)
    | .tileBank l unit bank =>
      if levelUnits l ≤ unit || levelBanks l ≤ bank then s else s.countErr errTileCorrected (bankUnit l unit bank))

/-- Stalled cycles that make a watchdog event. -/
def watchdogLimit : Nat := 2 ^ 24

/-- A watchdog event of core `c`: event 0x15 and a telemetry record of kind 1. -/
def State.watchdogTold (s : State) (c unit count : Nat) : State :=
  (s.onCore c fun r => { r with events := SMap.set 0 r.events 0x15 (SMap.get 0 r.events 0x15 + 1) }).emit
    (.telemetry 1 unit (s.dieTime (dieOf c)) [count])

/-- WATCHDOG_EVENT: a run count that has reached 2^24 starts again, with the cycles past it, and the event count rises. -/
def execWatchdogEvent (subject : Watched) (s : State) : Host.Outcome State Fault Refusal :=
  .next (match subject with
    | .strand c k =>
      let t := s.strand c k
      if t.wdRun < watchdogLimit then s
      else
        let n := min 0xFFFF (t.wdEvents + 1)
        (s.setStrand c k { t with wdRun := t.wdRun - watchdogLimit, wdEvents := n }).watchdogTold c (4 * c + k) n
    | .queue c q =>
      let x := s.queue c q
      if x.wdRun < watchdogLimit then s
      else
        let n := min 0xFFFF (x.wdEvents + 1)
        (s.setQueue c q { x with wdRun := x.wdRun - watchdogLimit, wdEvents := n }).watchdogTold c (2 ^ 16 + 16 * c + q) n
    | .circuit c q =>
      let r := s.core c
      let run := SMap.get 0 r.circuits (2 * q)
      if run < watchdogLimit then s
      else
        let n := min 0xFFFF (SMap.get 0 r.circuits (2 * q + 1) + 1)
        (s.setCore c { r with circuits := SMap.set 0 (SMap.set 0 r.circuits (2 * q) (run - watchdogLimit)) (2 * q + 1) n }).watchdogTold c
          (2 ^ 17 + 512 * c + q) n)

/-! ## DRAM: refresh and lane lending (R153, R154, R160, R276) -/

/-- Event 0x0B for each strand that holds row `b`. -/
def countBreak (s : State) (b : Nat) : SMap Strand :=
  s.strands.map fun e =>
    let n := (e.2.held.filter fun r => s.rowOf (.dev r.phys) = some b).length
    if n = 0 then e else (e.1, e.2.count 0x0B n)

/-- REFRESH_BREAK of a bank: each held row is written back and opened again, and counted. -/
def execRefreshBreak (bank : Nat) (s : State) : Host.Outcome State Fault Refusal :=
  .next ((List.range 4).foldl (fun (u : State) i =>
    let x := u.rowSlot bank i
    match x.block with
    | none => u
    | some b =>
      let n : BitVec 16 := if x.breaks = BitVec.allOnes 16 then x.breaks else x.breaks + 1
      { u with rowSlots := u.rowSlots.put (4 * bank + i) { x with breaks := n }, strands := countBreak u b }) s)

/-- A row of a channel is held. -/
def State.holdsRow (s : State) (ch : Nat) : Bool := s.rowSlots.any fun e => match e.2.block with
  | some b => chanOf b = ch
  | none => false

/-- CHANNEL_LEND: a channel without a held row lends its lanes, once the handshake is over. DESIGN CHOICE (log 111): the handshake is
counted at the channel that lends, and not at its partner. -/
def execChannelLend (chan : Nat) (s : State) : Host.Outcome State Fault Refusal :=
  let a := s.lending chan
  let b := s.lending (partner chan)
  .next (if 256 ≤ chan || a.toNat % 4 ≠ 0 || b.toNat % 4 ≠ 0 || s.holdsRow chan then s
    else { s with lend := (s.lend.put chan (lendEntry a 1 true)).put (partner chan) (lendEntry b 2 false) })

/-- CHANNEL_RECLAIM: a lending channel owns its lanes again. -/
def execChannelReclaim (chan : Nat) (s : State) : Host.Outcome State Fault Refusal := .next (s.reclaim chan)

/-! ## What no window covers (R468, R476) -/

/-- The pages of the page tables under the table in page `t`, of `n` levels. -/
def State.tablesFrom (s : State) : Nat → Nat → List Nat
  | 0, _ => []
  | n + 1, t =>
    t :: (List.range 512).flatMap fun i =>
      let pte := word (s.numAt (.dev (4096 * t + 8 * i)) 8)
      if !bit pte 0 || bit pte 1 || bit pte 3 then []
      else
        match pageOf (bits pte 53 10) with
        | some (.dev u) => s.tablesFrom n u
        | _ => []

/-- The pages of the regions' page tables. -/
def State.tablePages (s : State) : List Nat :=
  s.regions.flatMap fun e => match e.2 with
    | some r => s.tablesFrom 5 (bits r.satp 43 0)
    | none => []

/-- A byte of the fast tier lies in a fault record ring (R242). -/
def inRing (o : Nat) : Bool := (List.range 4).any fun d => ringSlot d 0 ≤ o && o < ringSlot d 0 + 64 * 4096

/-- A device physical page that Titania lets no device or fabric window cover: it lies beyond DRAM, or holds a page table, a fault record
ring, or other memory of Titania or Onyx. -/
def State.guarded (s : State) (n : Nat) : Bool :=
  0x12000000 ≤ n || Config.titaniaPage n || s.tablePages.contains n ||
    (List.range 64).any fun i => match s.place (4096 * n + 64 * i) with
      | some (.fast, o) => inRing o
      | _ => false

/-- A range of pages meets one of those. -/
def State.guardedIn (s : State) (page pages : Nat) : Bool := (List.range pages).any fun i => s.guarded (page + i)

/-- A window covers such a page. -/
def State.exposed (s : State) : Bool :=
  (s.devWindows.any fun e => e.2.any fun w => s.guardedIn w.page w.pages) ||
    s.fabricWindows.any fun e => e.2.any fun w => s.guardedIn w.page w.pages

/-- An act of Titania that leads from `s` to `u`, which Titania leaves undone where it would put a page table under a window. -/
def State.hiding (s u : State) : State := if u.exposed && !s.exposed then s else u

/-! ## Titania's tables (R39, R151, R163, R256, R259) -/

/-- The cores of a set on one die form a rectangle. -/
def rectangle (cs : List Nat) : Bool :=
  match cs with
  | [] => true
  | c :: _ =>
    let rows := cs.map coreRow
    let cols := cs.map coreCol
    let lo (l : List Nat) : Nat := l.foldl min (l.headD 0)
    let hi (l : List Nat) : Nat := l.foldl max 0
    cs.length = (hi rows - lo rows + 1) * (hi cols - lo cols + 1) && cs.all fun x => dieOf x = dieOf c

/-- The regions that have a context on the region controller of die `d` (R39). -/
def State.contexts (s : State) (d : Nat) : Nat :=
  (s.regions.filter fun e => e.2.any fun r => r.cores.any fun c => dieOf c = d).length

/-- Region contexts of a die (R2). -/
def dieContexts : Nat := 16

/-- REGION_CREATE: a free context on every die that it spans; whole cores of no other region, a rectangle on each die; the index of a
core runs over the dies, and row by row within each (R43). -/
def execRegionCreate (id tenant : Nat) (cores : List Nat) (satp : BitVec 64) (s : State) : Host.Outcome State Fault Refusal :=
  let cs := (cores.eraseDups.mergeSort fun a b => a ≤ b)
  .next (if 64 ≤ id || (s.region id).isSome || cs = [] || cs.any (fun c => 256 ≤ c || (s.core c).region.isSome) ||
      !(List.range 4).all (fun d => rectangle (cs.filter fun c => dieOf c = d)) ||
      (List.range 4).any (fun d => cs.any (fun c => dieOf c = d) && dieContexts ≤ s.contexts d) then s
    else
      let s1 := cs.foldl (fun (u : State) c => u.onCore c fun r => { r with region := some id }) s
      s.hiding (s1.setRegion id
        { cores := cs, tenant := tenant, satp := satp, running := none, limit := none, frozen := false, resets := [] }))

/-- REGION_DESTROY: a region whose queue is empty. -/
def execRegionDestroy (id : Nat) (s : State) : Host.Outcome State Fault Refusal :=
  .next (match s.region id with
    | none => s
    | some r =>
      if s.jobsOf id ≠ [] then s
      else
        let s1 := r.cores.foldl (fun (u : State) c => u.onCore c fun x => { x with region := none }) s
        { s1 with regions := s1.regions.del id })

/-- What an interleave entry takes: device physical GiB, fast pages and capacity pages, each as first and count (R152). -/
def extents (w0 w1 : Word) : (Nat × Nat) × (Nat × Nat) × (Nat × Nat) :=
  let pages := bits w0 21 11 * 2 ^ 18
  let k := bits w0 47 44
  let fast := (pages + k) / (k + 1)
  ((bits w0 10 0, bits w0 21 11), (bits w1 31 0, fast), (bits w1 63 32, pages - fast))

/-- Two ranges meet; an empty range meets none. -/
def meets (a b : Nat × Nat) : Bool := 0 < a.2 && 0 < b.2 && a.1 < b.1 + b.2 && b.1 < a.1 + a.2

/-- A reserved field of an interleave entry, which only 0 may be written to (R8, R151). -/
def interleaveReserved (w0 : Word) : Bool := bits w0 62 54 ≠ 0 || bits w0 43 22 ≠ 0

/-- A valid entry that the device refuses (R151). -/
def State.badInterleave (s : State) (i : Nat) (w0 w1 : Word) : Bool :=
  let x := extents w0 w1
  let others := s.interleave.filter fun e => e.1 ≠ i && bit e.2.1 63
  bits w0 21 11 = 0 || 1152 < x.1.1 + x.1.2 || 100663296 < x.2.1.1 + x.2.1.2 ||
    (x.2.2.2 ≠ 0 && 201326592 < x.2.2.1 + x.2.2.2) ||
    others.any fun e => let y := extents e.2.1 e.2.2; meets x.1 y.1 || meets x.2.1 y.2.1 || meets x.2.2 y.2.2

/-- INTERLEAVE_TABLE_WRITE: a refused write changes nothing, and neither does one of a nonzero reserved field. -/
def execInterleaveTableWrite (index : Nat) (w0 w1 : BitVec 64) (s : State) : Host.Outcome State Fault Refusal :=
  .next (if 32 ≤ index || interleaveReserved w0 || (bit w0 63 && s.badInterleave index w0 w1) then s
    else { s with interleave := s.interleave.put index (w0, w1) })

/-- The tags of reserved circuits. -/
def State.liveTags (s : State) : List Nat :=
  (s.cores.flatMap fun c => c.2.slots.flatMap fun y => y.2.rec_.routes.map (·.tag)) ++ s.keptTags

/-- ROUTER_TAG_TABLE_WRITE: refused for a tag that a reserved circuit uses. At a port group the mask of the checkpoint engine's tag alone may
name the reserved ports 15 to 17 (R472). -/
def execRouterTagTableWrite (router tag phase : Nat) (w : BitVec 64) (s : State) : Host.Outcome State Fault Refusal :=
  .next (if s.liveTags.contains tag || 256 + 8 ≤ router || 256 ≤ tag || 8 ≤ phase || bits w 60 45 ≠ 0 || bits w 39 32 ≠ 0 ||
      (256 ≤ router && bits w 17 15 ≠ 0 && tag ≠ Config.checkpointTag) then s
    else { s with tags := SMap.set 0 s.tags (2048 * router + 8 * tag + phase) w })

/-- A page is pinned. -/
def State.pinned (s : State) (p : PPage) : Bool := SMap.get 0 s.pins (pinKey p) ≠ 0

/-- PAGE_TABLE_INVALIDATION: Titania's writes to its page tables and its physical protection, after which the walkers find them; the
leaves of pinned pages stay (R163, R164). -/
def execPageTableInvalidation (writes : List (Nat × Byte)) (denied : List Nat) (s : State) : Host.Outcome State Fault Refusal :=
  let ps : Pieces := writes.map fun e => (.dev e.1, e.2)
  let s1 := ((ps.foldl (fun (u : State) x => u.touch x.1) s).store (.other 0) ps)
  finish (s.hiding { s1 with
    denied := denied,
    dies := s1.dies.map fun e => (e.1, { e.2 with walker := e.2.walker.filter fun f => s1.pinned f.page }) })

/-! ## Titania's tiles (R133, R140, R241) -/

/-- Where the contents of an evicted tile of a job are kept, a job that is stopped keeping its own. -/
def backingKey (job : BitVec 32) (c n : Nat) : Nat := 2 ^ 26 * job.toNat + if n < 2048 then 4096 * c + n else 2 ^ 24 + 4096 * dieOf c + n

/-- The lines of a run of L0 or L1, with their poison. -/
def State.runLines (s : State) (l1 : Bool) (c b n : Nat) : List (BitVec 512 × Bool) :=
  (List.range n).map fun i =>
    if l1 then (SMap.get 0 (s.die (dieOf c)).l1 (b + i), SMap.get false (s.die (dieOf c)).l1poison (b + i))
    else (SMap.get 0 (s.core c).l0 (b + i), SMap.get false (s.core c).l0poison (b + i))

/-- Writes a run of lines of L0 or L1. -/
def State.setRun (s : State) (l1 : Bool) (c b : Nat) (ls : List (BitVec 512 × Bool)) : State :=
  (List.range ls.length).foldl (fun (u : State) i =>
    let x := ls.getD i (0, false)
    if l1 then
      let d := u.die (dieOf c)
      u.setDie (dieOf c) { d with l1 := SMap.set 0 d.l1 (b + i) x.1, l1poison := SMap.set false d.l1poison (b + i) x.2 }
    else u.onCore c fun r => { r with l0 := SMap.set 0 r.l0 (b + i) x.1, l0poison := SMap.set false r.l0poison (b + i) x.2 }) s

/-- Titania may move a tile: it is allocated, and EMPTY or FULL. -/
def Tile.movable (t : Tile) : Bool := t.allocated && (t.state = .empty || t.state = .full)

/-- TILE_DEMOTE: an L0 tile moves to a run of its die's L1. -/
def execTileDemote (core slot line : Nat) (s : State) : Host.Outcome State Fault Refusal :=
  let t := s.tile core slot
  .next (if 2048 ≤ slot || !t.movable || t.res ≠ 0 || !freeRun (s.levelRuns true core) line t.lines || lineCount true < line + t.lines
    then s
    else (s.setRun true core line (s.runLines false core t.base t.lines)).setTile core slot { t with res := 1, base := line })

/-- The level at which a tile's lines lie now. -/
def inL1 (slot : Nat) (t : Tile) : Bool := 2048 ≤ slot || t.res = 1

/-- TILE_EVICT: a tile moves to its DRAM backing. -/
def execTileEvict (core slot : Nat) (s : State) : Host.Outcome State Fault Refusal :=
  let t := s.tile core slot
  .next (if !t.movable || t.res = 2 then s
    else
      let ls := s.runLines (inL1 slot t) core t.base t.lines
      ({ s with backing := s.backing.put (backingKey t.job core slot) ls }).setTile core slot { t with res := 2 })

/-- TILE_RESTORE: a tile is brought back to a run of its own level. -/
def execTileRestore (core slot line : Nat) (s : State) : Host.Outcome State Fault Refusal :=
  let t := s.tile core slot
  let l1 : Bool := 2048 ≤ slot
  .next (if !t.allocated || t.res = 0 || !freeRun (s.levelRuns l1 core) line t.lines || lineCount l1 < line + t.lines then s
    else
      let ls := if t.res = 1 then s.runLines true core t.base t.lines else SMap.get [] s.backing (backingKey t.job core slot)
      let s1 := s.setRun l1 core line ls
      ({ s1 with backing := s1.backing.del (backingKey t.job core slot) }).setTile core slot { t with res := 0, base := line })

/-- The cores from which a slot can be named. -/
def namers (core slot : Nat) : List Nat :=
  if slot < 2048 then [core] else (List.range 64).map fun i => 64 * dieOf core + i

/-- Ends with ERROR every copy of a core under way into or out of handle `h` (R133, R240). -/
def State.revokeOn (s : State) (c : Nat) (h : Word) : State :=
  (s.core c).copies.foldl (fun (u : State) e =>
    if (e.2.state = .waiting || e.2.state = .active || e.2.state = .suspended) && e.2.handles.contains h &&
        (!e.2.beatsDone || (e.2.intoTile && !e.2.arrived && e.2.w 3 = h)) then
      u.failCopy c e.1 2 (u.beatAddr e.2)
    else u) s

/-- HANDLE_REVOCATION: the copies under way end with ERROR, the slot is freed, and the monitors of the strands that could name it are
told. DESIGN CHOICE (log 113): the slot is freed from whatever state it is in, and its generation goes on as at TFREE. -/
def execHandleRevocation (core slot : Nat) (s : State) : Host.Outcome State Fault Refusal :=
  let t := s.tile core slot
  let h := word (slot * 256 + t.gen.toNat)
  .next (if !t.allocated then s
    else
      let cs := (namers core slot).filter fun c => (s.core c).jobid = t.job
      let s1 := cs.foldl (fun (u : State) c => u.revokeOn c h) s
      let s2 := s1.setTile core slot (s1.tile core slot).freed
      cs.foldl (fun (u : State) c => (List.range 4).foldl (fun v k => v.notify c k 2 h) u) s2)

/-! ## Hosts (R467 to R471) -/

/-- Titania runs (R478). -/
def State.booted (s : State) : Bool := match s.boot with
  | .running _ => true
  | _ => false

/-- The device window of a port that holds a range, reached over IDE stream `stream` (R468, R481). -/
def State.windowFor (s : State) (port addr len stream : Nat) : Option DevWindow :=
  (List.range 256).findSome? fun i =>
    match SMap.get none s.devWindows (256 * port + i) with
    | some w =>
      if w.base ≤ addr && addr + len ≤ w.base + 4096 * w.pages && (w.stream.isNone || w.stream = some stream) then some w else none
    | none => none

/-- Pieces of a run of device physical bytes. -/
def devPieces (a : Nat) (bs : List Byte) : Pieces := piecesOf (.dev a) bs

/-- Writes device bytes for a peer. -/
def State.peerWrite (s : State) (a : Nat) (bs : List Byte) : State :=
  let ps := devPieces a bs
  (ps.foldl (fun (u : State) x => u.touch x.1) s).store (.other 0) ps

/-- A request of one of the two host ports (R467); until Titania runs, it is answered with Configuration Request Retry Status (R478). -/
def State.fromHost (s : State) (port : Nat) (go : State) : State :=
  if 2 ≤ port then s else if !s.booted then s.emit (.requestRetry port) else go

/-- HOST_WINDOW_WRITE: performed in the order of the port; outside every window, or with the windows closed to writes by a checkpoint,
it completes with Unsupported Request. -/
def execHostWindowWrite (port addr stream : Nat) (data : List Byte) (s : State) : Host.Outcome State Fault Refusal :=
  finish (s.fromHost port (
      match if s.checkpoint ≠ .none then none else s.windowFor port addr data.length stream with
      | none => s.emit (.unsupportedRequest port)
      | some w => s.peerWrite (4096 * w.page + (addr - w.base)) data))

/-- HOST_WINDOW_READ. -/
def execHostWindowRead (port addr stream len : Nat) (s : State) : Host.Outcome State Fault Refusal :=
  finish (s.fromHost port (
      match s.windowFor port addr len stream with
      | none => s.emit (.unsupportedRequest port)
      | some w =>
        let p : Phys := .dev (4096 * w.page + (addr - w.base))
        ((List.range len).foldl (fun (u : State) i => u.touch (p.plus i)) s).emit (.hostCompletion port (s.bytesAt p len))))

/-- The host port of a channel's client. -/
def channelHost (chan : Nat) : Nat := Config.channelPort chan % 2

/-- HOST_DOORBELL_WRITE: the new tail of a channel's ring. -/
def execHostDoorbellWrite (chan tail : Nat) (s : State) : Host.Outcome State Fault Refusal :=
  .next (s.fromHost (channelHost chan) (if 64 ≤ chan then s
    else { s with channels := s.channels.put chan { SMap.get { tail := 0, head := 0 } s.channels chan with tail := tail % 4096 } }))

/-- HOST_LINK_FAILURE: accesses through the port's host windows find poison from here on (R469). -/
def execHostLinkFailure (port : Nat) (s : State) : Host.Outcome State Fault Refusal :=
  .next (if 2 ≤ port then s else { s with hostDown := s.hostDown.put port true })

/-- HOST_LINK_RESET: the port loses its device windows, and its link trains anew; an access that meets it finds poison (R466, R469,
R486). -/
def execHostLinkReset (port : Nat) (s : State) : Host.Outcome State Fault Refusal :=
  .next (if 2 ≤ port then s else { s with hostDown := s.hostDown.put port false, devWindows := s.devWindows.filter fun e => e.1 / 256 ≠ port })

/-- DEVICE_WINDOW_MAP by Titania; no pages unmap it. -/
def execDeviceWindowMap (port index base page pages : Nat) (s : State) : Host.Outcome State Fault Refusal :=
  .next (if 256 ≤ index || 2 ≤ port || s.guardedIn page pages then s
    else if pages = 0 then { s with devWindows := s.devWindows.del (256 * port + index) }
    else { s with devWindows := s.devWindows.put (256 * port + index) (some { base := base, page := page, pages := pages, stream := none }) })

/-- TDISP_BIND: the window is reachable only over the binding's stream. -/
def execTdispBind (port index stream : Nat) (s : State) : Host.Outcome State Fault Refusal :=
  .next (match SMap.get none s.devWindows (256 * port + index) with
    | some w => { s with devWindows := s.devWindows.put (256 * port + index) (some { w with stream := some stream }) }
    | none => s)

/-- A change of host window `w` unmaps a page that is pinned: a page beyond the new size, or any where the window goes or changes its
port. -/
def State.dropsPinned (s : State) (w : Nat) (new : Option HostWindow) : Bool :=
  match SMap.get none s.hostWindows w with
  | none => false
  | some old => s.pins.any fun e =>
      e.1 % 2 = 1 && e.1 / 2 / 2 ^ 32 = w && e.2 ≠ 0 && !(new.any fun n => n.port = old.port && e.1 / 2 % 2 ^ 32 < n.pages)

/-- Changes a host window, or unmaps it. -/
def State.setHostWindow (s : State) (w : Nat) (new : Option HostWindow) : State :=
  { s with hostWindows := match new with
      | some h => s.hostWindows.put w (some h)
      | none => s.hostWindows.del w }

/-- Performs the changes of host windows that no longer wait for a pinned page (R469). -/
def State.retryMaps (s : State) : State :=
  s.hostMaps.foldl (fun (u : State) e =>
    if u.dropsPinned e.1 e.2 then u else { u.setHostWindow e.1 e.2 with hostMaps := u.hostMaps.erase e }) s

/-- HOST_WINDOW_MAP by Titania; no pages unmap it. A change that unmaps a pinned page waits. -/
def execHostWindowMap (window port pages : Nat) (s : State) : Host.Outcome State Fault Refusal :=
  .next (if 2048 ≤ window || 2 ≤ port || 2 ^ 32 < pages then s
    else
      let new : Option HostWindow := if pages = 0 then none else some { port := port, pages := pages }
      ({ s with hostMaps := s.hostMaps.filter (fun (e : Nat × Option HostWindow) => e.1 ≠ window) ++ [(window, new)] }).retryMaps)

/-! ## Checkpoint (R482, R486) -/

/-- All that the cores, the regions and the tables of the device hold. -/
def State.saved (s : State) : Saved :=
  { strands := s.strands, cores := s.cores, dies := s.dies, interleave := s.interleave, lend := s.lend, rowSlots := s.rowSlots,
    pins := s.pins, denied := s.denied, tags := s.tags, phases := s.phases, advSent := s.advSent, advPassed := s.advPassed,
    phaseLost := s.phaseLost, bound := s.bound, regions := s.regions, jobs := s.jobs, savedResv := s.savedResv, draws := s.draws,
    placed := s.placed, backing := s.backing }

/-- Puts it back. -/
def State.restoreSaved (s : State) (x : Saved) : State :=
  { s with
    strands := x.strands, cores := x.cores, dies := x.dies, interleave := x.interleave, lend := x.lend, rowSlots := x.rowSlots,
    pins := x.pins, denied := x.denied, tags := x.tags, phases := x.phases, advSent := x.advSent, advPassed := x.advPassed,
    phaseLost := x.phaseLost, bound := x.bound, regions := x.regions, jobs := x.jobs, savedResv := x.savedResv, draws := x.draws,
    placed := x.placed, backing := x.backing }

/-- Every region freeze-scanned, or restored (R292, R294). -/
def State.freezeRegions (s : State) (on : Bool) : State :=
  { s with regions := s.regions.map fun e => (e.1, e.2.map fun r => { r with frozen := on }) }

/-- Titania freeze-scans every region and starts the checkpoint engine; the windows are closed to writes. -/
def State.startCheckpoint (s : State) : State :=
  if s.checkpoint ≠ .none then s else { s.freezeRegions true with checkpoint := .copying }

/-- CHECKPOINT_REQUEST. -/
def execCheckpointRequest (s : State) : Host.Outcome State Fault Refusal := .next (if s.booted then s.startCheckpoint else s)

/-- The checkpoint engine's ports that are UP: those of the reserved ports 15 to 17 of a group. -/
def State.enginePorts (s : State) (g : Nat) : List Nat := ([15, 16, 17].map (18 * g + ·)).filter s.upPort

/-- The image of the device: both tiers, the keys as Onyx wraps them, and the save areas as the freeze-scans left them, before any containment
reset that came meanwhile. -/
def State.image (s : State) : Image :=
  { tick := s.time, fast := s.fast, cap := s.cap, poisonFast := s.poisonFast, poisonCap := s.poisonCap,
    keys := Config.wrapKeys s.keySlots,
    saved := { s.saved with regions := s.regions.map fun e => (e.1, e.2.map fun r => { r with frozen := true, resets := [] }) } }

/-- The containment resets that wait for the end of a checkpoint. -/
def State.waitingResets (s : State) : List ResetTarget := s.regions.flatMap fun e => match e.2 with
  | some r => r.resets
  | none => []

/-- The windows open again, the regions are restored, and the containment resets that came meanwhile take effect. -/
def State.reopenDevice (s : State) : State :=
  let s1 := { s with checkpoint := .none,
                     regions := s.regions.map fun e => (e.1, e.2.map fun r => { r with frozen := false, resets := [] }) }
  s.waitingResets.foldl State.contain s1

/-- CHECKPOINT_ENGINE_DONE: the engine has moved the image to or from the safe tier over the reserved ports; what a port that goes DOWN
carried moves to the others of its group, so a group without one that is UP holds the engine up. -/
def execCheckpointEngineDone (s : State) : Host.Outcome State Fault Refusal :=
  finish (if (List.range 8).any fun g => s.enginePorts g = [] then s
    else
      match s.checkpoint with
      | .none => s
      | .copying =>
        { s with images := s.images ++ [s.image] }.reopenDevice.emit (.checkpoint ((List.range 8).flatMap s.enginePorts)
          { s.image with
            fast := s.fast.map fun (e : Nat × Byte) => (e.1, Config.stored 0 e.1 e.2)
            cap := s.cap.map fun (e : Nat × Byte) => (e.1, Config.stored 1 e.1 e.2) })
      | .restoring => s.reopenDevice)

/-- A valid interleave entry names a key slot. -/
def State.slotNamed (s : State) (slot : Nat) : Bool := s.interleave.any fun e => bit e.2.1 63 && bits e.2.1 53 48 = slot

/-- Onyx may load key slots: no valid interleave entry names one whose key changes (R480). -/
def State.mayLoadKeys (s : State) (keys : List (Nat × BitVec 512)) : Bool :=
  (List.range 64).all fun i => !s.slotNamed i || SMap.get 0 s.keySlots i = SMap.get 0 keys i

/-- The image of the safe tier with these contents of the tiers, poison markers and wrapped keys, the last one written if there are several. -/
def State.safeImage (s : State) (fast cap : SMap Byte) (poisonFast poisonCap : SMap Bool) (keys : List Byte) : Option Image :=
  s.images.reverse.find? fun x => x.fast = fast && x.cap = cap && x.poisonFast = poisonFast && x.poisonCap = poisonCap && x.keys = keys

/-- CHECKPOINT_RESTORE of an image of the safe tier, where Onyx can unwrap its key slots and may load them: the windows close to writes, both
tiers and the key slots stand as the image has them, and so do the tables and the save areas, from which the regions are restored once the
engine is done. -/
def execCheckpointRestore (fast cap : List (Nat × Byte)) (poisonFast poisonCap : List (Nat × Bool)) (keys : List Byte) (s : State) :
    Host.Outcome State Fault Refusal :=
  .next (match s.safeImage fast cap poisonFast poisonCap keys with
    | none => s
    | some x =>
      match Config.unwrapKeys x.keys with
      | none => s
      | some ks =>
        if !s.booted || s.checkpoint ≠ .none || !s.mayLoadKeys ks then s
        else
          { (s.restoreSaved x.saved).freezeRegions true with
            checkpoint := .restoring,
            fast := x.fast.foldl (fun m e => SMap.set memoryDefault m e.1 e.2) [],
            cap := x.cap.foldl (fun m e => SMap.set memoryDefault m e.1 e.2) [],
            poisonFast := x.poisonFast, poisonCap := x.poisonCap,
            keySlots := ks.foldl (fun m e => if e.1 < 64 then SMap.put m e.1 e.2 else m) [] })

/-! ## Clients (R470) -/

/-- A leaf under which Titania reads or writes a tenant's memory, where the page is mapped and the physical protection allows it. -/
def State.viaLeaf (s : State) (root va : Word) : Option Leaf := (s.walk root va).filter fun f => !s.isDenied f.page

/-- Reads `n` bytes of a tenant's memory, under its page tables; none where a page is missing or denied. -/
def State.readVia (s : State) (root va : Word) (n : Nat) : Option (List Byte) :=
  (List.range n).mapM fun i =>
    (s.viaLeaf root (va + word i)).map fun f =>
      let p := f.page.base.plus (bits (va + word i) 11 0)
      if s.poisonAt p then 0 else s.byteAt p

/-- The requests of that read: lending channels reclaim their lanes (R153). -/
def State.touchVia (s : State) (root va : Word) (n : Nat) : State :=
  (List.range n).foldl (fun (u : State) i =>
    match u.viaLeaf root (va + word i) with
    | some f => (u.walkTouch root (va + word i)).touch (f.page.base.plus (bits (va + word i) 11 0))
    | none => u) s

/-- Reads a job record for Titania. -/
def State.readRecordVia (s : State) (root va : Word) : Option Read := do
  let h ← s.readVia root va 128
  let n := if areaNum h 4 1 ≤ 64 then areaNum h 4 1 else 0
  let nodes ← (List.range n).mapM fun i => s.readVia root (va + word (128 + 32 * i)) 32
  let nests ← nodes.mapM fun b => if areaNum b 0 1 ≠ 3 then some [] else s.readVia root (word (areaNum b 24 8)) 64
  some { head := h, nodes := nodes, nests := nests }

/-- Titania's ENQ on a client's behalf (R325): none where the record is misaligned or refused, an address is not to be reached, or no open
entry is free. -/
def State.admitFor (s : State) (va : Word) (region : Nat) : Option State := do
  let r ← s.region region
  let q ← if va.toNat % 64 = 0 then s.readRecordVia r.satp va else none
  let done := word (areaNum q.head 8 8)
  let f ← s.viaLeaf r.satp done
  if (q.refused r.cores.length).isSome || done.toNat % 8 ≠ 0 || !f.w || !f.d || (s.entryFor region false).isNone then none
  else
    let place := f.page.base.plus (bits done 11 0)
    let tree := (q.nodes.zip q.nests).map fun y => treeNode y.1 y.2
    let j := jobOfRecord q.head tree region 0 r.satp place s.tick
    let s1 := q.nodes.foldl (fun (u : State) b => if areaNum b 0 1 ≠ 3 then u else u.touchVia r.satp (word (areaNum b 24 8)) 64)
      (s.touchVia r.satp va (128 + 32 * q.nodes.length))
    let s2 := (((s1.walkTouch r.satp done).touch place).loadFiles r tree).store (.other 0) (piecesOf place (toBytes pendingWord.toNat 8))
    some (s2.settle s.newJobid.toNat j)

/-- What Titania does for a client: the state, and a status where it rejects the entry. -/
def State.serve (s : State) (chan : Nat) : ClientService → State × Option Word
  | .admitJob va region => match s.admitFor va region with
    | some s1 => (s1, none)
    | none => (s, some (s.free 150000))
  | .powerCap w => if 600 ≤ w && w ≤ 2400 then ({ s with powerCap := w }, none) else (s, some (s.free 150000))
  | .attest req => (s.emit (.spdm (256 + chan) (Config.spdmAnswer req ((List.range 8).map fun i => SMap.get 0 s.measurements i))), none)
  | .checkpoint => (s.startCheckpoint, none)

/-- The 64 bytes of the oldest entry of a channel's request ring in device memory, a poisoned line reading as zeros. -/
def State.ringEntry (s : State) (chan head : Nat) : List Byte × State :=
  let p : Phys := .dev (Config.ringPlace chan + 64 * head)
  (if s.poisonAt p then List.replicate 64 0 else s.bytesAt p 64, s.touch p)

/-- Titania's reply: an entry of the channel's completion ring in host memory, through a host window. -/
def State.replyTo (s : State) (chan n : Nat) (data : List Byte) : State :=
  let p := Config.replyPlace chan n
  s.store (.other 0) (piecesOf (.host p.1 p.2.1 p.2.2) (fixed 64 data))

/-- CLIENT_REQUEST: Titania takes the oldest entry of a channel's ring, serves or rejects it, and replies; the statuses are free. The event
names what the entry asks for, none where Titania rejects it, and acts only where the entry's bytes say so. -/
def execClientRequest (chan : Nat) (svc : Option ClientService) (s : State) : Host.Outcome State Fault Refusal :=
  finish (let x := SMap.get { tail := 0, head := 0 } s.channels chan
    let (entry, s1) := s.ringEntry chan x.head
    if !s.booted || x.head = x.tail || Config.clientService entry ≠ svc then s
    else
      let s2 := { s1 with channels := s1.channels.put chan { x with head := (x.head + 1) % 4096 } }
      let (s3, st) := match svc with
        | some v => s2.serve chan v
        | none => (s2, some (s.free 150000))
      s3.replyTo chan x.head (Config.replyEntry entry (st.getD (s.free 150001))))

/-! ## Herez fabric (R472 to R476) -/

/-- The port counts a dropped flit. -/
def State.dropFlit (s : State) (p kind : Nat) : State :=
  let x := s.herezPort p
  ({ s with herez := s.herez.put p { x with drops := x.drops + 1 } }).countErr kind (groupRouter (p / 18))

/-- A tag's entry in force at a port group, which stands behind the routers of the dies. -/
def State.groupEntry (s : State) (g tag : Nat) : Word := s.tagEntry (groupRouter g) tag

/-- Queue `q` of core `c` is the end in this device of the circuit of a tag whose producer lies in another device (R248). -/
def State.endsHere (s : State) (c q tag : Nat) : Bool :=
  match (s.queue c q).owner with
  | none => false
  | some o =>
    let r := (s.slot (o / 4) (o % 4)).rec_
    r.places.any fun x => x.2 = (c, q) && (r.entry x.1).prod = 63 && (r.ref x.1).via = some tag

/-- What a TOKEN flit of port group `g` brings to queues of this device: tokens, and with kind 3 an ADVANCE of the circuit, in the order
of its lane (R257). -/
def State.bring (s : State) (g tag : Nat) (ts : List (Nat × Nat × BitVec 2 × Word)) : State :=
  ts.foldl (fun (u : State) x =>
    if x.2.2.1 = 3 then u.sendAdvance (groupRouter g) tag
    else if !u.endsHere x.1 x.2.1 tag then u
    else
      u.onCore x.1 fun r =>
        { r with flights := r.flights ++
          [{ q := x.2.1, item := .tok { kind := x.2.2.1, data := x.2.2.2 }, slot := none, node := 63, via := some tag,
             adv := SMap.get 0 u.advSent tag }] }) s

/-- The control word of a CTL flit: what the peer has received leaves the retry buffer, and what it asks for is sent again (R473). -/
def State.control (s : State) (p : Nat) (payload : List Byte) : State :=
  let c := Config.flitControl payload
  let s1 := { s with herez := s.herez.put p ((s.herezPort p).acked c.1) }
  if c.2 then s1.replay p else s1

/-- A flit that port `p` has accepted, by its header. Classes 5 to 7 are dropped and counted; so is, DESIGN CHOICE (log 138), a header with
a nonzero bit among those that are zero. -/
def State.takeFlit (s : State) (p : Nat) (head : Nat) (payload : List Byte) : State :=
  let cls := head % 8
  let tag := head / 2 ^ 8 % 256
  if 5 ≤ cls || head / 2 ^ 48 ≠ 0 then s.dropFlit p errFlitTag
  else if cls = 4 then s.control p payload
  else if !bit (s.groupEntry (p / 18) tag) 63 then s.countErr errFlitTag (groupRouter (p / 18))
  else if cls = 1 then s.bring (p / 18) tag (Config.flitTokens payload)
  else s

/-- HEREZ_FLIT_RECEIVE: a flit that cannot be corrected or whose tag fails under the port's receive key is dropped, to be replayed; a flit
out of sequence is a repeat. On the circuit of a stopped or frozen job, which stays reserved, the sender stalls (R293). -/
def execHerezFlitReceive (port : Nat) (flit : List Byte) (s : State) : Host.Outcome State Fault Refusal :=
  .next (let x := s.herezPort port
    if !s.upPort port then s
    else
      match (corrected flit).bind fun b => (s.opened port b).map fun y => (areaNum b 0 8, y) with
      | none => { s with herez := s.herez.put port { x with drops := x.drops + 1 } }
      | some (head, payload) =>
        if head / 2 ^ 16 % 2 ^ 32 ≠ x.nextSeq % 2 ^ 32 || (head % 8 = 1 && s.keptTags.contains (head / 2 ^ 8 % 256)) then s
        else { s with herez := s.herez.put port { x with nextSeq := x.nextSeq + 1 } }.takeFlit port head payload)

/-- ESCAPE_CHANNEL_MOVE: a flit that has waited 1 µs goes on over its class's escape channel, which changes timing only. -/
def execEscapeChannelMove (_group _cls : Nat) (s : State) : Host.Outcome State Fault Refusal := .next s

/-- A port in another state, told to Titania where it is UP or DOWN. The circuits of a port that is DOWN move with their flits, and a port
that comes UP sends again what has not been acknowledged (R473, R475). -/
def State.setLink (s : State) (p : Nat) (l : PortLink) : State :=
  let s1 := { s with herez := s.herez.put p { s.herezPort p with link := l, drops := 0 } }
  match l with
  | .up =>
    let s2 := s1.rebind s1.liveTags
    (((List.range 144).filter fun d => (s2.herezPort d).link = .down).foldl State.moveFlits (s2.replay p)).emit (.telemetry 3 p s.time [1])
  | .down => ((s1.rebind s1.liveTags).moveFlits p).emit (.telemetry 3 p s.time [0])
  | .retrain => s1

/-- HEREZ_PORT_RETRAIN: a port that has dropped 16 flits retrains. -/
def execHerezPortRetrain (port : Nat) (s : State) : Host.Outcome State Fault Refusal :=
  .next (if port < 144 && (s.herezPort port).link = .up && 16 ≤ (s.herezPort port).drops then s.setLink port .retrain else s)

/-- HEREZ_PORT_DOWN: a port that retrains has not become UP within 1 ms. -/
def execHerezPortDown (port : Nat) (s : State) : Host.Outcome State Fault Refusal :=
  .next (if port < 144 && (s.herezPort port).link = .retrain then s.setLink port .down else s)

/-- HEREZ_PORT_UP. -/
def execHerezPortUp (port : Nat) (s : State) : Host.Outcome State Fault Refusal :=
  .next (if (s.herezPort port).link = .up || 144 ≤ port then s else s.setLink port .up)

/-- FABRIC_WINDOW_EXPORT by Titania under a route tag granted to both devices; no pages end it. -/
def execFabricWindowExport (window tag page pages : Nat) (s : State) : Host.Outcome State Fault Refusal :=
  .next (if pages = 0 then { s with fabricWindows := s.fabricWindows.del window }
    else if 256 ≤ tag || !Config.tagGranted tag || s.guardedIn page pages then s
    else { s with fabricWindows := s.fabricWindows.put window (some { tag := tag, page := page, pages := pages }) })

/-- REMOTE_FABRIC_ACCESS: a write, or a read whose bytes leave over the tag; outside the window nothing is accessed, and a checkpoint
closes the windows to writes. -/
def execRemoteFabricAccess (window tag addr len : Nat) (data : Option (List Byte)) (s : State) : Host.Outcome State Fault Refusal :=
  finish (match SMap.get none s.fabricWindows window with
    | none => s
    | some w =>
      let n := match data with
        | some bs => bs.length
        | none => len
      if w.tag ≠ tag || 4096 * w.pages < addr + n then s
      else
        match data with
        | some bs => if s.checkpoint ≠ .none then s else s.peerWrite (4096 * w.page + addr) bs
        | none =>
          let p : Phys := .dev (4096 * w.page + addr)
          ((List.range len).foldl (fun (u : State) i => u.touch (p.plus i)) s).respond tag addr (s.bytesAt p len))

/-! ## Boot and trust (R477 to R481) -/

/-- DEVICE_RESET: every item at its reset value; what Onyx has fused, and what has left the device, the safe tier's images among it, stays. -/
def execDeviceReset (s : State) : Host.Outcome State Fault Refusal :=
  .next { State.reset with turns := s.turns, tick := s.tick, out := s.out, securityVersion := s.securityVersion, images := s.images }

/-- The bytes of a digest. -/
def digestBytes (d : BitVec 384) : List Byte := toBytes d.toNat 48

/-- A measurement register is extended with a digest: PRESUMED (log 45), the hash of its old value followed by the digest. -/
def State.extendWith (s : State) (i : Nat) (d : BitVec 384) : State :=
  let old := SMap.get 0 s.measurements i
  { s with measurements := s.measurements.put i (Config.sha384 (digestBytes old ++ digestBytes d)) }

/-- The wait after a failure: 1 s at first, and doubled up to 64 s. -/
def backoffAfter (last : Nat) : Boot := .backoff (if last = 0 then 1 else min 64 (2 * last))

/-- BOOT_IMAGE_RECEIVED: an image that both signatures and the fused version accept is measured and started, with a new key in slot 0, which
no valid interleave entry names before Titania runs; any other releases nothing. The event names the image's configuration section and
security version, and acts only where they are the image's own. -/
def execBootImageReceived (image config : List Byte) (secver : BitVec 32) (mldsa ecdsa : List Byte) (s : State) :
    Host.Outcome State Fault Refusal :=
  .next (match s.boot with
    | .fetching last =>
      if Config.imageConfig image ≠ config || Config.imageVersion image ≠ secver then s
      else if Config.mldsaOk image mldsa && Config.ecdsaOk image ecdsa && s.securityVersion.toNat ≤ secver.toNat then
        let s1 := ((s.extendWith 0 (Config.sha384 Config.onyxFirmware)).extendWith 1 (Config.sha384 image)).extendWith 2
          (Config.sha384 config)
        { s1 with keySlots := if s.slotNamed 0 then s1.keySlots else s1.keySlots.put 0 (Config.newKey s.tick),
                  boot := .running secver }
      else { s with boot := backoffAfter last }
    | _ => s)

/-- BOOT_FETCH_FAILURE. -/
def execBootFetchFailure (s : State) : Host.Outcome State Fault Refusal :=
  .next (match s.boot with
    | .fetching last => { s with boot := backoffAfter last }
    | _ => s)

/-- BOOT_RETRY: the interval is over, and Onyx fetches again. -/
def execBootRetry (s : State) : Host.Outcome State Fault Refusal :=
  .next (match s.boot with
    | .backoff n => { s with boot := .fetching n }
    | _ => s)

/-- SECURITY_VERSION_RAISE: Titania has reported a successful start of a newer image. -/
def execSecurityVersionRaise (s : State) : Host.Outcome State Fault Refusal :=
  .next (match s.boot with
    | .running v => if s.securityVersion.toNat < v.toNat then { s with securityVersion := v } else s
    | _ => s)

/-- SPDM_REQUEST on a host port or, port 2, on the management port: Onyx answers, with measurement registers 0 to 7 as its measurement
blocks. Until Titania runs, a host is told to try again (R478). -/
def execSpdmRequest (port : Nat) (req : List Byte) (s : State) : Host.Outcome State Fault Refusal :=
  .next (if 3 ≤ port then s else if port < 2 && !s.booted then s.emit (.requestRetry port) else s.emit (.spdm port (Config.spdmAnswer req ((List.range 8).map fun i => SMap.get 0 s.measurements i))))

/-- MEASUREMENT_EXTEND: Titania asks for one of registers 3 to 7. -/
def execMeasurementExtend (reg : Nat) (data : List Byte) (s : State) : Host.Outcome State Fault Refusal :=
  .next (if s.booted && 3 ≤ reg && reg ≤ 7 then s.extendWith reg (Config.sha384 data) else s)

/-- KEY_SLOT_LOAD. -/
def execKeySlotLoad (slot : Nat) (key : BitVec 512) (s : State) : Host.Outcome State Fault Refusal :=
  .next (if 64 ≤ slot || s.slotNamed slot then s else { s with keySlots := s.keySlots.put slot key })

/-- KEY_SLOT_ZEROIZE. -/
def execKeySlotZeroize (slot : Nat) (s : State) : Host.Outcome State Fault Refusal :=
  .next (if s.slotNamed slot then s else { s with keySlots := s.keySlots.del slot })

/-- LINK_KEY_UPDATE of a Herez port or an IDE stream, at a flit boundary. -/
def execLinkKeyUpdate (port : Nat) (tx rx : BitVec 256) (s : State) : Host.Outcome State Fault Refusal :=
  .next { s with linkKeys := s.linkKeys.put port (tx, rx) }

/-! ## Power, freeze and telemetry (R277, R295, R483 to R485) -/

/-- POWER_CAP_SET, from 600 to 2,400 W; DERATE takes it in the next microsecond. -/
def execPowerCapSet (watts : Nat) (s : State) : Host.Outcome State Fault Refusal :=
  .next (if 600 ≤ watts && watts ≤ 2400 then { s with powerCap := watts } else s)

/-- Every compute die's clock, with a change. -/
def State.clocks (s : State) (f : Nat → Nat) : State :=
  (List.range 4).foldl (fun (u : State) d => u.setDie d { u.die d with clock := f (u.die d).clock }) s

/-- CLOCK_STEP: the power limiter, each 10 µs, with the power averaged over 100 µs. -/
def execClockStep (power : Nat) (s : State) : Host.Outcome State Fault Refusal :=
  .next (if s.powerCap < power then
      let s1 := s.clocks fun m => max 800 (m - 100)
      if s.powerLimited then s1 else ({ s1 with powerLimited := true }).emit (.telemetry 4 0 s.time [1])
    else if 100 * power < 95 * s.powerCap then
      let s1 := s.clocks fun m => min 1600 (m + 100)
      if s.powerLimited && (List.range 4).all (fun d => (s1.die d).clock = 1600) then
        ({ s1 with powerLimited := false }).emit (.telemetry 4 0 s.time [0])
      else s1
    else s)

/-- The key slot under which a byte of a tier is encrypted: that of the interleave entry whose pages hold it (R151, R152). -/
def State.keySlotAt (s : State) (t : Tier) (a : Nat) : Option Nat :=
  (s.interleave.find? fun e =>
    let x := extents e.2.1 e.2.2
    let pages := match t with
      | .fast => x.2.1
      | .capacity => x.2.2
    bit e.2.1 63 && pages.1 ≤ a / 4096 && a / 4096 < pages.1 + pages.2).map fun e => bits e.2.1 53 48

/-- A byte of DRAM as Encke reads it: as stored, unless Onyx releases its key slot. -/
def State.readOutByte (s : State) (t : Tier) (n : Nat) (e : Nat × Byte) : Nat × Byte :=
  (e.1, if (s.keySlotAt t e.1).any Config.keysReleased then e.2 else Config.stored n e.1 e.2)

/-- What Encke reads out (R295): all state but Onyx's keys, measurements and boot. -/
def State.readOut (s : State) : ReadOut :=
  { time := s.time, fast := s.fast.map (s.readOutByte .fast 0), cap := s.cap.map (s.readOutByte .capacity 1),
    poisonFast := s.poisonFast, poisonCap := s.poisonCap, saved := s.saved, undos := s.undos, errs := s.errs, account := s.account,
    powerCap := s.powerCap, temp := s.temp, derate := s.derate, powerLimited := s.powerLimited, devWindows := s.devWindows,
    hostWindows := s.hostWindows, hostMaps := s.hostMaps, fabricWindows := s.fabricWindows, channels := s.channels,
    hostDown := s.hostDown, herez := s.herez, checkpoint := s.checkpoint }

/-- A freeze signal: every clock of the device stops, and Encke reads out its state. A device that is frozen stays so, and a signal from
Onyx then makes the freeze one that is never thawed (R295). -/
def State.freezeBy (s : State) (source : FreezeSource) : State :=
  let s1 := { s with frozen := if s.frozen = some .onyx then some .onyx else some source }
  if s.frozen.isNone then s1.emit (.readOut s.readOut) else s1

/-- ENERGY_ACCOUNT_TICK: one microsecond, with the energy measured for each region and outside every region, and the hottest junction
temperature; quantum timers count it. At 115 °C Onyx signals a freeze (R484). -/
def execEnergyAccountTick (measured : List (Nat × Nat)) (outside temp : Nat) (s : State) : Host.Outcome State Fault Refusal :=
  .next (let d := derateOf s.powerCap temp
    let s1 := { s with account := min 2400000 (s.account + ((2400 - d : Nat) : Int)), temp := temp, derate := d }
    let s2 := s1.jobs.foldl (drawFor measured) s1
    let s3 := { s2 with account := s2.account - (outside : Int) }
    if temp < 115 then s3 else s3.freezeBy .onyx)

/-- THERMAL_FREEZE: at 115 °C Onyx signals a freeze. -/
def execThermalFreeze (temp : Nat) (s : State) : Host.Outcome State Fault Refusal :=
  .next (if temp < 115 then s else ({ s with temp := temp }).freezeBy .onyx)

/-- ENCKE_FREEZE: every clock of the device stops. -/
def execEnckeFreeze (source : FreezeSource) (s : State) : Host.Outcome State Fault Refusal := .next (s.freezeBy source)

/-- The host links that are not down retrain. -/
def State.retrainHosts (s : State) : State :=
  (List.range 2).foldl (fun (u : State) p => if u.hostDown.any fun e => e.1 = p then u else u.emit (.linkRetrain p)) s

/-- THAW: every clock runs again, and the Herez and host links retrain; a freeze that Onyx signalled is never thawed. -/
def execThaw (s : State) : Host.Outcome State Fault Refusal :=
  .next (match s.frozen with
    | some .onyx => s
    | none => s
    | some _ =>
      let retrained (e : Nat × Herez) : Nat × Herez := (e.1, if e.2.link = .up then { e.2 with link := .retrain } else e.2)
      State.retrainHosts { s with frozen := none, herez := s.herez.map retrained })

/-- ERROR_COUNTER_SNAPSHOT: each error counter leaves as a telemetry record of its unit, with its kind and its count, and Titania may clear
them. -/
def execErrorCounterSnapshot (clear : Bool) (s : State) : Host.Outcome State Fault Refusal :=
  .next (let s1 := s.errs.foldl (fun (u : State) e => u.emit (.telemetry 5 (e.1 % 2 ^ 24) s.time [e.1 / 2 ^ 24, e.2])) s
    if clear then { s1 with errs := [] } else s1)

end Sys2Proof.Machine
end

