-- ==== Sys2Proof/Machine/Dispatch.lean ====
section
/-!
DEFINITION. The meaning of every instruction and event: one arm for each constructor, each a direct call of its meaning.
-/
namespace Sys2Proof.Machine

def exec (i : Instr) (s : State) : Host.Outcome State Fault Refusal :=
  match i with
  | .vadd d a b => Sys2Proof.Machine.execVadd d a b s
  | .vaddx d a b => Sys2Proof.Machine.execVaddx d a b s
  | .vsub d a b => Sys2Proof.Machine.execVsub d a b s
  | .vsubx d a b => Sys2Proof.Machine.execVsubx d a b s
  | .vrsubx d a b => Sys2Proof.Machine.execVrsubx d a b s
  | .vmul d a b => Sys2Proof.Machine.execVmul d a b s
  | .vmulx d a b => Sys2Proof.Machine.execVmulx d a b s
  | .vmulh d a b => Sys2Proof.Machine.execVmulh d a b s
  | .vmulhu d a b => Sys2Proof.Machine.execVmulhu d a b s
  | .vmulhx d a b => Sys2Proof.Machine.execVmulhx d a b s
  | .vmac d a b => Sys2Proof.Machine.execVmac d a b s
  | .vmacx d a b => Sys2Proof.Machine.execVmacx d a b s
  | .vdot2 d a b => Sys2Proof.Machine.execVdot2 d a b s
  | .vdot2x d a b => Sys2Proof.Machine.execVdot2x d a b s
  | .vdiv d a b => Sys2Proof.Machine.execVdiv d a b s
  | .vrem d a b => Sys2Proof.Machine.execVrem d a b s
  | .vmin d a b => Sys2Proof.Machine.execVmin d a b s
  | .vmax d a b => Sys2Proof.Machine.execVmax d a b s
  | .vminx d a b => Sys2Proof.Machine.execVminx d a b s
  | .vmaxx d a b => Sys2Proof.Machine.execVmaxx d a b s
  | .vand d a b => Sys2Proof.Machine.execVand d a b s
  | .vor d a b => Sys2Proof.Machine.execVor d a b s
  | .vxor d a b => Sys2Proof.Machine.execVxor d a b s
  | .vandx d a b => Sys2Proof.Machine.execVandx d a b s
  | .vorx d a b => Sys2Proof.Machine.execVorx d a b s
  | .vxorx d a b => Sys2Proof.Machine.execVxorx d a b s
  | .vsll d a b => Sys2Proof.Machine.execVsll d a b s
  | .vsllx d a b => Sys2Proof.Machine.execVsllx d a b s
  | .vsrl d a b => Sys2Proof.Machine.execVsrl d a b s
  | .vsrlx d a b => Sys2Proof.Machine.execVsrlx d a b s
  | .vsra d a b => Sys2Proof.Machine.execVsra d a b s
  | .vsrax d a b => Sys2Proof.Machine.execVsrax d a b s
  | .vsrar d a b => Sys2Proof.Machine.execVsrar d a b s
  | .vsrarx d a b => Sys2Proof.Machine.execVsrarx d a b s
  | .vnarrow d a b => Sys2Proof.Machine.execVnarrow d a b s
  | .vwidenl d a b => Sys2Proof.Machine.execVwidenl d a b s
  | .vwidenh d a b => Sys2Proof.Machine.execVwidenh d a b s
  | .vabs d a b => Sys2Proof.Machine.execVabs d a b s
  | .vneg d a b => Sys2Proof.Machine.execVneg d a b s
  | .vclz d a b => Sys2Proof.Machine.execVclz d a b s
  | .vpopc d a b => Sys2Proof.Machine.execVpopc d a b s
  | .vavg d a b => Sys2Proof.Machine.execVavg d a b s
  | .vmerge d a b => Sys2Proof.Machine.execVmerge d a b s
  | .vsplat d a b => Sys2Proof.Machine.execVsplat d a b s
  | .viota d a b => Sys2Proof.Machine.execViota d a b s
  | .vcmpeq d a b => Sys2Proof.Machine.execVcmpeq d a b s
  | .vcmpne d a b => Sys2Proof.Machine.execVcmpne d a b s
  | .vcmplt d a b => Sys2Proof.Machine.execVcmplt d a b s
  | .vcmpltu d a b => Sys2Proof.Machine.execVcmpltu d a b s
  | .vcmple d a b => Sys2Proof.Machine.execVcmple d a b s
  | .vcmpeqx d a b => Sys2Proof.Machine.execVcmpeqx d a b s
  | .vcmpltx d a b => Sys2Proof.Machine.execVcmpltx d a b s
  | .vcmpltux d a b => Sys2Proof.Machine.execVcmpltux d a b s
  | .vcmplex d a b => Sys2Proof.Machine.execVcmplex d a b s
  | .vfadd d a b => Sys2Proof.Machine.execVfadd d a b s
  | .vfaddx d a b => Sys2Proof.Machine.execVfaddx d a b s
  | .vfsub d a b => Sys2Proof.Machine.execVfsub d a b s
  | .vfsubx d a b => Sys2Proof.Machine.execVfsubx d a b s
  | .vfmul d a b => Sys2Proof.Machine.execVfmul d a b s
  | .vfmulx d a b => Sys2Proof.Machine.execVfmulx d a b s
  | .vfmac d a b => Sys2Proof.Machine.execVfmac d a b s
  | .vfmacx d a b => Sys2Proof.Machine.execVfmacx d a b s
  | .vfnms d a b => Sys2Proof.Machine.execVfnms d a b s
  | .vfdiv d a b => Sys2Proof.Machine.execVfdiv d a b s
  | .vfsqrt d a b => Sys2Proof.Machine.execVfsqrt d a b s
  | .vfrcp d a b => Sys2Proof.Machine.execVfrcp d a b s
  | .vfrsq d a b => Sys2Proof.Machine.execVfrsq d a b s
  | .vfmin d a b => Sys2Proof.Machine.execVfmin d a b s
  | .vfmax d a b => Sys2Proof.Machine.execVfmax d a b s
  | .vfabs d a b => Sys2Proof.Machine.execVfabs d a b s
  | .vfneg d a b => Sys2Proof.Machine.execVfneg d a b s
  | .vfrint d a b => Sys2Proof.Machine.execVfrint d a b s
  | .vfexp2f d a b => Sys2Proof.Machine.execVfexp2f d a b s
  | .vflog2f d a b => Sys2Proof.Machine.execVflog2f d a b s
  | .vfldexp d a b => Sys2Proof.Machine.execVfldexp d a b s
  | .vfgetexp d a b => Sys2Proof.Machine.execVfgetexp d a b s
  | .vfcmpeq d a b => Sys2Proof.Machine.execVfcmpeq d a b s
  | .vfcmplt d a b => Sys2Proof.Machine.execVfcmplt d a b s
  | .vfcmple d a b => Sys2Proof.Machine.execVfcmple d a b s
  | .vfcmpun d a b => Sys2Proof.Machine.execVfcmpun d a b s
  | .vfclass d a b => Sys2Proof.Machine.execVfclass d a b s
  | .vcvtif d a b => Sys2Proof.Machine.execVcvtif d a b s
  | .vcvtfi d a b => Sys2Proof.Machine.execVcvtfi d a b s
  | .vcvtff d a b => Sys2Proof.Machine.execVcvtff d a b s
  | .vfdot2 d a b => Sys2Proof.Machine.execVfdot2 d a b s
  | .vslideup d a b => Sys2Proof.Machine.execVslideup d a b s
  | .vslidedn d a b => Sys2Proof.Machine.execVslidedn d a b s
  | .vslide1up d a b => Sys2Proof.Machine.execVslide1up d a b s
  | .vslide1dn d a b => Sys2Proof.Machine.execVslide1dn d a b s
  | .vrgath d a b => Sys2Proof.Machine.execVrgath d a b s
  | .vcompress d a b => Sys2Proof.Machine.execVcompress d a b s
  | .vexpand d a b => Sys2Proof.Machine.execVexpand d a b s
  | .vrev d a b => Sys2Proof.Machine.execVrev d a b s
  | .vzip d a b => Sys2Proof.Machine.execVzip d a b s
  | .vunzip d a b => Sys2Proof.Machine.execVunzip d a b s
  | .vredsum d a b => Sys2Proof.Machine.execVredsum d a b s
  | .vredmax d a b => Sys2Proof.Machine.execVredmax d a b s
  | .vredmin d a b => Sys2Proof.Machine.execVredmin d a b s
  | .vredand d a b => Sys2Proof.Machine.execVredand d a b s
  | .vredor d a b => Sys2Proof.Machine.execVredor d a b s
  | .vfredsum d a b => Sys2Proof.Machine.execVfredsum d a b s
  | .vfredmax d a b => Sys2Proof.Machine.execVfredmax d a b s
  | .vfredmin d a b => Sys2Proof.Machine.execVfredmin d a b s
  | .vmand d a b => Sys2Proof.Machine.execVmand d a b s
  | .vmor d a b => Sys2Proof.Machine.execVmor d a b s
  | .vmxor d a b => Sys2Proof.Machine.execVmxor d a b s
  | .vmnot d a b => Sys2Proof.Machine.execVmnot d a b s
  | .vmpopc d a b => Sys2Proof.Machine.execVmpopc d a b s
  | .vmfirst d a b => Sys2Proof.Machine.execVmfirst d a b s
  | .vextx d a b => Sys2Proof.Machine.execVextx d a b s
  | .vinsx d a b => Sys2Proof.Machine.execVinsx d a b s
  | .vmov d a b => Sys2Proof.Machine.execVmov d a b s
  | .vmtov d a b => Sys2Proof.Machine.execVmtov d a b s
  | .vvtom d a b => Sys2Proof.Machine.execVvtom d a b s
  | .vld d a b => Sys2Proof.Machine.execVld d a b s
  | .vlds d a b => Sys2Proof.Machine.execVlds d a b s
  | .vldx d a b => Sys2Proof.Machine.execVldx d a b s
  | .vldb d a b => Sys2Proof.Machine.execVldb d a b s
  | .vst d a b => Sys2Proof.Machine.execVst d a b s
  | .vsts d a b => Sys2Proof.Machine.execVsts d a b s
  | .vstx d a b => Sys2Proof.Machine.execVstx d a b s
  | .vstu d a b => Sys2Proof.Machine.execVstu d a b s
  | .vstsu d a b => Sys2Proof.Machine.execVstsu d a b s
  | .vstxu d a b => Sys2Proof.Machine.execVstxu d a b s
  | .vldt d a b => Sys2Proof.Machine.execVldt d a b s
  | .vstt d a b => Sys2Proof.Machine.execVstt d a b s
  | .vldtx d a b => Sys2Proof.Machine.execVldtx d a b s
  | .vsttx d a b => Sys2Proof.Machine.execVsttx d a b s
  | .vtaddx d a b => Sys2Proof.Machine.execVtaddx d a b s
  | .vtcasx d a b => Sys2Proof.Machine.execVtcasx d a b s
  | .vtmaxx d a b => Sys2Proof.Machine.execVtmaxx d a b s
  | .vldw d a b => Sys2Proof.Machine.execVldw d a b s
  | .vstw d a b => Sys2Proof.Machine.execVstw d a b s
  | .vataddx d a b => Sys2Proof.Machine.execVataddx d a b s
  | .vatcasx d a b => Sys2Proof.Machine.execVatcasx d a b s
  | .vpush d a b => Sys2Proof.Machine.execVpush d a b s
  | .varm d a b => Sys2Proof.Machine.execVarm d a b s
  | .vpref d a b => Sys2Proof.Machine.execVpref d a b s
  | .mldw d a b => Sys2Proof.Machine.execMldw d a b s
  | .mrow d a b => Sys2Proof.Machine.execMrow d a b s
  | .mrelw d a b => Sys2Proof.Machine.execMrelw d a b s
  | .mwaitw d a b => Sys2Proof.Machine.execMwaitw d a b s
  | .mstat d a b => Sys2Proof.Machine.execMstat d a b s
  | .vscacc d a b => Sys2Proof.Machine.execVscacc d a b s
  | .vscapply d a b => Sys2Proof.Machine.execVscapply d a b s
  | .vbscale d a b => Sys2Proof.Machine.execVbscale d a b s
  | .vmxq d a b => Sys2Proof.Machine.execVmxq d a b s
  | .vcbdec d a b => Sys2Proof.Machine.execVcbdec d a b s
  | .vcbld d a b => Sys2Proof.Machine.execVcbld d a b s
  | .vaccrd d a b => Sys2Proof.Machine.execVaccrd d a b s
  | .fscan d a b => Sys2Proof.Machine.execFscan d a b s
  | .fscand d a b => Sys2Proof.Machine.execFscand d a b s
  | .fisect d a b => Sys2Proof.Machine.execFisect d a b s
  | .funion d a b => Sys2Proof.Machine.execFunion d a b s
  | .frept d a b => Sys2Proof.Machine.execFrept d a b s
  | .fredc d a b => Sys2Proof.Machine.execFredc d a b s
  | .fval d a b => Sys2Proof.Machine.execFval d a b s
  | .fwrc d a b => Sys2Proof.Machine.execFwrc d a b s
  | .fwrv d a b => Sys2Proof.Machine.execFwrv d a b s
  | .fsteer d a b => Sys2Proof.Machine.execFsteer d a b s
  | .fmerge d a b => Sys2Proof.Machine.execFmerge d a b s
  | .floopc d a b => Sys2Proof.Machine.execFloopc d a b s
  | .fjoin d a b => Sys2Proof.Machine.execFjoin d a b s
  | .fxlate d a b => Sys2Proof.Machine.execFxlate d a b s
  | .fgath d a b => Sys2Proof.Machine.execFgath d a b s
  | .fscat d a b => Sys2Proof.Machine.execFscat d a b s
  | .fsink d a b => Sys2Proof.Machine.execFsink d a b s
  | .fcrd d a b => Sys2Proof.Machine.execFcrd d a b s
  | .fref d a b => Sys2Proof.Machine.execFref d a b s
  | .fpack d a b => Sys2Proof.Machine.execFpack d a b s
  | .fhashi d a b => Sys2Proof.Machine.execFhashi d a b s
  | .fdrop d a b => Sys2Proof.Machine.execFdrop d a b s
  | .rmatch d a b => Sys2Proof.Machine.execRmatch d a b s
  | .qpushx d a b => Sys2Proof.Machine.execQpushx d a b s
  | .qpopx d a b => Sys2Proof.Machine.execQpopx d a b s
  | .qstopx d a b => Sys2Proof.Machine.execQstopx d a b s
  | .qdone d a b => Sys2Proof.Machine.execQdone d a b s
  | .qpeek d a b => Sys2Proof.Machine.execQpeek d a b s
  | .qdrain d a b => Sys2Proof.Machine.execQdrain d a b s
  | .interruptEntry core strand => Sys2Proof.Machine.execInterruptEntry core strand s
  | .breakTrapEntry core strand => Sys2Proof.Machine.execBreakTrapEntry core strand s
  | .waitEnd core strand => Sys2Proof.Machine.execWaitEnd core strand s
  | .vectorAdmission core strand => Sys2Proof.Machine.execVectorAdmission core strand s
  | .vectorWalkComplete core strand reg => Sys2Proof.Machine.execVectorWalkComplete core strand reg s
  | .copyActivate core entry => Sys2Proof.Machine.execCopyActivate core entry s
  | .copyBeat core entry => Sys2Proof.Machine.execCopyBeat core entry s
  | .arrivalToken core entry => Sys2Proof.Machine.execArrivalToken core entry s
  | .copyCompletionToken core entry => Sys2Proof.Machine.execCopyCompletionToken core entry s
  | .chainBreak core slot => Sys2Proof.Machine.execChainBreak core slot s
  | .slotEnterTemporal core slot => Sys2Proof.Machine.execSlotEnterTemporal core slot s
  | .remainderWord core slot => Sys2Proof.Machine.execRemainderWord core slot s
  | .runComplete core slot => Sys2Proof.Machine.execRunComplete core slot s
  | .lgNodeFire core slot node => Sys2Proof.Machine.execLgNodeFire core slot node s
  | .mnNodeFire core slot node => Sys2Proof.Machine.execMnNodeFire core slot node s
  | .sourcePortPush core slot node => Sys2Proof.Machine.execSourcePortPush core slot node s
  | .sinkPortWrite core slot node => Sys2Proof.Machine.execSinkPortWrite core slot node s
  | .tokenLand core queue => Sys2Proof.Machine.execTokenLand core queue s
  | .advancePass router tag => Sys2Proof.Machine.execAdvancePass router tag s
  | .watchFire core strand index => Sys2Proof.Machine.execWatchFire core strand index s
  | .stepEntry region leaf => Sys2Proof.Machine.execStepEntry region leaf s
  | .stepComplete region leaf => Sys2Proof.Machine.execStepComplete region leaf s
  | .jobSelection region => Sys2Proof.Machine.execJobSelection region s
  | .dependenceMet job => Sys2Proof.Machine.execDependenceMet job s
  | .stipSet core strand => Sys2Proof.Machine.execStipSet core strand s
  | .instructionFetchFault why => Sys2Proof.Machine.execInstructionFetchFault why s
  | .reservedEncoding w => Sys2Proof.Machine.execReservedEncoding w s
  | .rowReopenGiveup core strand index => Sys2Proof.Machine.execRowReopenGiveup core strand index s
  | .graceExpiry region => Sys2Proof.Machine.execGraceExpiry region s
  | .stepBoundaryStop region => Sys2Proof.Machine.execStepBoundaryStop region s
  | .setmode rd rs1 rs2 => Sys2Proof.Machine.execSetmode rd rs1 rs2 s
  | .getmode rd rs1 rs2 => Sys2Proof.Machine.execGetmode rd rs1 rs2 s
  | .setvl rd rs1 rs2 => Sys2Proof.Machine.execSetvl rd rs1 rs2 s
  | .setvstart rd rs1 rs2 => Sys2Proof.Machine.execSetvstart rd rs1 rs2 s
  | .probe rd rs1 rs2 => Sys2Proof.Machine.execProbe rd rs1 rs2 s
  | .punpin rd rs1 rs2 => Sys2Proof.Machine.execPunpin rd rs1 rs2 s
  | .pstat rd rs1 rs2 => Sys2Proof.Machine.execPstat rd rs1 rs2 s
  | .talloc rd rs1 rs2 => Sys2Proof.Machine.execTalloc rd rs1 rs2 s
  | .tfree rd rs1 rs2 => Sys2Proof.Machine.execTfree rd rs1 rs2 s
  | .tstate rd rs1 rs2 => Sys2Proof.Machine.execTstate rd rs1 rs2 s
  | .tsetst rd rs1 rs2 => Sys2Proof.Machine.execTsetst rd rs1 rs2 s
  | .tgen rd rs1 rs2 => Sys2Proof.Machine.execTgen rd rs1 rs2 s
  | .rowopen rd rs1 rs2 => Sys2Proof.Machine.execRowopen rd rs1 rs2 s
  | .rowrel rd rs1 rs2 => Sys2Proof.Machine.execRowrel rd rs1 rs2 s
  | .rowstat rd rs1 rs2 => Sys2Proof.Machine.execRowstat rd rs1 rs2 s
  | .acopy rd rs1 rs2 => Sys2Proof.Machine.execAcopy rd rs1 rs2 s
  | .await rd rs1 rs2 => Sys2Proof.Machine.execAwait rd rs1 rs2 s
  | .acancel rd rs1 rs2 => Sys2Proof.Machine.execAcancel rd rs1 rs2 s
  | .astat rd rs1 rs2 => Sys2Proof.Machine.execAstat rd rs1 rs2 s
  | .chcfg rd rs1 rs2 => Sys2Proof.Machine.execChcfg rd rs1 rs2 s
  | .chrel rd rs1 rs2 => Sys2Proof.Machine.execChrel rd rs1 rs2 s
  | .run rd rs1 rs2 => Sys2Proof.Machine.execRun rd rs1 rs2 s
  | .chwait rd rs1 rs2 => Sys2Proof.Machine.execChwait rd rs1 rs2 s
  | .chstat rd rs1 rs2 => Sys2Proof.Machine.execChstat rd rs1 rs2 s
  | .chbar rd rs1 rs2 => Sys2Proof.Machine.execChbar rd rs1 rs2 s
  | .chresp rd rs1 rs2 => Sys2Proof.Machine.execChresp rd rs1 rs2 s
  | .chbrk rd rs1 rs2 => Sys2Proof.Machine.execChbrk rd rs1 rs2 s
  | .sbind rd rs1 rs2 => Sys2Proof.Machine.execSbind rd rs1 rs2 s
  | .sunbind rd rs1 rs2 => Sys2Proof.Machine.execSunbind rd rs1 rs2 s
  | .fenceo rd rs1 rs2 => Sys2Proof.Machine.execFenceo rd rs1 rs2 s
  | .fencee rd rs1 rs2 => Sys2Proof.Machine.execFencee rd rs1 rs2 s
  | .fencex rd rs1 rs2 => Sys2Proof.Machine.execFencex rd rs1 rs2 s
  | .hintnext rd rs1 rs2 => Sys2Proof.Machine.execHintnext rd rs1 rs2 s
  | .waitvis rd rs1 rs2 => Sys2Proof.Machine.execWaitvis rd rs1 rs2 s
  | .enq rd rs1 rs2 => Sys2Proof.Machine.execEnq rd rs1 rs2 s
  | .deq rd rs1 rs2 => Sys2Proof.Machine.execDeq rd rs1 rs2 s
  | .enqc rd rs1 rs2 => Sys2Proof.Machine.execEnqc rd rs1 rs2 s
  | .ctxsv rd rs1 rs2 => Sys2Proof.Machine.execCtxsv rd rs1 rs2 s
  | .ctxld rd rs1 rs2 => Sys2Proof.Machine.execCtxld rd rs1 rs2 s
  | .evrd rd rs1 rs2 => Sys2Proof.Machine.execEvrd rd rs1 rs2 s
  | .tsnow rd rs1 rs2 => Sys2Proof.Machine.execTsnow rd rs1 rs2 s
  | .strstart rd rs1 rs2 => Sys2Proof.Machine.execStrstart rd rs1 rs2 s
  | .stepend rd rs1 rs2 => Sys2Proof.Machine.execStepend rd rs1 rs2 s
  | .trapx rd rs1 rs2 => Sys2Proof.Machine.execTrapx rd rs1 rs2 s
  | .rlimset rd rs1 rs2 => Sys2Proof.Machine.execRlimset rd rs1 rs2 s
  | .lui rd imm => Sys2Proof.Machine.execLui rd imm s
  | .auipc rd imm => Sys2Proof.Machine.execAuipc rd imm s
  | .jal rd imm => Sys2Proof.Machine.execJal rd imm s
  | .jalr rd rs1 imm => Sys2Proof.Machine.execJalr rd rs1 imm s
  | .beq rs1 rs2 imm => Sys2Proof.Machine.execBeq rs1 rs2 imm s
  | .bne rs1 rs2 imm => Sys2Proof.Machine.execBne rs1 rs2 imm s
  | .blt rs1 rs2 imm => Sys2Proof.Machine.execBlt rs1 rs2 imm s
  | .bge rs1 rs2 imm => Sys2Proof.Machine.execBge rs1 rs2 imm s
  | .bltu rs1 rs2 imm => Sys2Proof.Machine.execBltu rs1 rs2 imm s
  | .bgeu rs1 rs2 imm => Sys2Proof.Machine.execBgeu rs1 rs2 imm s
  | .lb rd rs1 imm => Sys2Proof.Machine.execLb rd rs1 imm s
  | .lh rd rs1 imm => Sys2Proof.Machine.execLh rd rs1 imm s
  | .lw rd rs1 imm => Sys2Proof.Machine.execLw rd rs1 imm s
  | .ld rd rs1 imm => Sys2Proof.Machine.execLd rd rs1 imm s
  | .lbu rd rs1 imm => Sys2Proof.Machine.execLbu rd rs1 imm s
  | .lhu rd rs1 imm => Sys2Proof.Machine.execLhu rd rs1 imm s
  | .lwu rd rs1 imm => Sys2Proof.Machine.execLwu rd rs1 imm s
  | .sb rs1 rs2 imm => Sys2Proof.Machine.execSb rs1 rs2 imm s
  | .sh rs1 rs2 imm => Sys2Proof.Machine.execSh rs1 rs2 imm s
  | .sw rs1 rs2 imm => Sys2Proof.Machine.execSw rs1 rs2 imm s
  | .sd rs1 rs2 imm => Sys2Proof.Machine.execSd rs1 rs2 imm s
  | .addi rd rs1 imm => Sys2Proof.Machine.execAddi rd rs1 imm s
  | .slti rd rs1 imm => Sys2Proof.Machine.execSlti rd rs1 imm s
  | .sltiu rd rs1 imm => Sys2Proof.Machine.execSltiu rd rs1 imm s
  | .xori rd rs1 imm => Sys2Proof.Machine.execXori rd rs1 imm s
  | .ori rd rs1 imm => Sys2Proof.Machine.execOri rd rs1 imm s
  | .andi rd rs1 imm => Sys2Proof.Machine.execAndi rd rs1 imm s
  | .slli rd rs1 sh => Sys2Proof.Machine.execSlli rd rs1 sh s
  | .srli rd rs1 sh => Sys2Proof.Machine.execSrli rd rs1 sh s
  | .srai rd rs1 sh => Sys2Proof.Machine.execSrai rd rs1 sh s
  | .add rd rs1 rs2 => Sys2Proof.Machine.execAdd rd rs1 rs2 s
  | .sub rd rs1 rs2 => Sys2Proof.Machine.execSub rd rs1 rs2 s
  | .sll rd rs1 rs2 => Sys2Proof.Machine.execSll rd rs1 rs2 s
  | .slt rd rs1 rs2 => Sys2Proof.Machine.execSlt rd rs1 rs2 s
  | .sltu rd rs1 rs2 => Sys2Proof.Machine.execSltu rd rs1 rs2 s
  | .xor rd rs1 rs2 => Sys2Proof.Machine.execXor rd rs1 rs2 s
  | .srl rd rs1 rs2 => Sys2Proof.Machine.execSrl rd rs1 rs2 s
  | .sra rd rs1 rs2 => Sys2Proof.Machine.execSra rd rs1 rs2 s
  | .or rd rs1 rs2 => Sys2Proof.Machine.execOr rd rs1 rs2 s
  | .and rd rs1 rs2 => Sys2Proof.Machine.execAnd rd rs1 rs2 s
  | .addiw rd rs1 imm => Sys2Proof.Machine.execAddiw rd rs1 imm s
  | .slliw rd rs1 sh => Sys2Proof.Machine.execSlliw rd rs1 sh s
  | .srliw rd rs1 sh => Sys2Proof.Machine.execSrliw rd rs1 sh s
  | .sraiw rd rs1 sh => Sys2Proof.Machine.execSraiw rd rs1 sh s
  | .addw rd rs1 rs2 => Sys2Proof.Machine.execAddw rd rs1 rs2 s
  | .subw rd rs1 rs2 => Sys2Proof.Machine.execSubw rd rs1 rs2 s
  | .sllw rd rs1 rs2 => Sys2Proof.Machine.execSllw rd rs1 rs2 s
  | .srlw rd rs1 rs2 => Sys2Proof.Machine.execSrlw rd rs1 rs2 s
  | .sraw rd rs1 rs2 => Sys2Proof.Machine.execSraw rd rs1 rs2 s
  | .fence rd rs1 imm => Sys2Proof.Machine.execFence rd rs1 imm s
  | .fenceI rd rs1 imm => Sys2Proof.Machine.execFenceI rd rs1 imm s
  | .ecall => Sys2Proof.Machine.execEcall s
  | .ebreak => Sys2Proof.Machine.execEbreak s
  | .mul rd rs1 rs2 => Sys2Proof.Machine.execMul rd rs1 rs2 s
  | .mulh rd rs1 rs2 => Sys2Proof.Machine.execMulh rd rs1 rs2 s
  | .mulhsu rd rs1 rs2 => Sys2Proof.Machine.execMulhsu rd rs1 rs2 s
  | .mulhu rd rs1 rs2 => Sys2Proof.Machine.execMulhu rd rs1 rs2 s
  | .div rd rs1 rs2 => Sys2Proof.Machine.execDiv rd rs1 rs2 s
  | .divu rd rs1 rs2 => Sys2Proof.Machine.execDivu rd rs1 rs2 s
  | .rem rd rs1 rs2 => Sys2Proof.Machine.execRem rd rs1 rs2 s
  | .remu rd rs1 rs2 => Sys2Proof.Machine.execRemu rd rs1 rs2 s
  | .mulw rd rs1 rs2 => Sys2Proof.Machine.execMulw rd rs1 rs2 s
  | .divw rd rs1 rs2 => Sys2Proof.Machine.execDivw rd rs1 rs2 s
  | .divuw rd rs1 rs2 => Sys2Proof.Machine.execDivuw rd rs1 rs2 s
  | .remw rd rs1 rs2 => Sys2Proof.Machine.execRemw rd rs1 rs2 s
  | .remuw rd rs1 rs2 => Sys2Proof.Machine.execRemuw rd rs1 rs2 s
  | .lrW rd rs1 aq rl => Sys2Proof.Machine.execLrW rd rs1 aq rl s
  | .lrD rd rs1 aq rl => Sys2Proof.Machine.execLrD rd rs1 aq rl s
  | .scW rd rs1 rs2 aq rl => Sys2Proof.Machine.execScW rd rs1 rs2 aq rl s
  | .scD rd rs1 rs2 aq rl => Sys2Proof.Machine.execScD rd rs1 rs2 aq rl s
  | .amoswapW rd rs1 rs2 aq rl => Sys2Proof.Machine.execAmoswapW rd rs1 rs2 aq rl s
  | .amoswapD rd rs1 rs2 aq rl => Sys2Proof.Machine.execAmoswapD rd rs1 rs2 aq rl s
  | .amoaddW rd rs1 rs2 aq rl => Sys2Proof.Machine.execAmoaddW rd rs1 rs2 aq rl s
  | .amoaddD rd rs1 rs2 aq rl => Sys2Proof.Machine.execAmoaddD rd rs1 rs2 aq rl s
  | .amoxorW rd rs1 rs2 aq rl => Sys2Proof.Machine.execAmoxorW rd rs1 rs2 aq rl s
  | .amoxorD rd rs1 rs2 aq rl => Sys2Proof.Machine.execAmoxorD rd rs1 rs2 aq rl s
  | .amoandW rd rs1 rs2 aq rl => Sys2Proof.Machine.execAmoandW rd rs1 rs2 aq rl s
  | .amoandD rd rs1 rs2 aq rl => Sys2Proof.Machine.execAmoandD rd rs1 rs2 aq rl s
  | .amoorW rd rs1 rs2 aq rl => Sys2Proof.Machine.execAmoorW rd rs1 rs2 aq rl s
  | .amoorD rd rs1 rs2 aq rl => Sys2Proof.Machine.execAmoorD rd rs1 rs2 aq rl s
  | .amominW rd rs1 rs2 aq rl => Sys2Proof.Machine.execAmominW rd rs1 rs2 aq rl s
  | .amominD rd rs1 rs2 aq rl => Sys2Proof.Machine.execAmominD rd rs1 rs2 aq rl s
  | .amomaxW rd rs1 rs2 aq rl => Sys2Proof.Machine.execAmomaxW rd rs1 rs2 aq rl s
  | .amomaxD rd rs1 rs2 aq rl => Sys2Proof.Machine.execAmomaxD rd rs1 rs2 aq rl s
  | .amominuW rd rs1 rs2 aq rl => Sys2Proof.Machine.execAmominuW rd rs1 rs2 aq rl s
  | .amominuD rd rs1 rs2 aq rl => Sys2Proof.Machine.execAmominuD rd rs1 rs2 aq rl s
  | .amomaxuW rd rs1 rs2 aq rl => Sys2Proof.Machine.execAmomaxuW rd rs1 rs2 aq rl s
  | .amomaxuD rd rs1 rs2 aq rl => Sys2Proof.Machine.execAmomaxuD rd rs1 rs2 aq rl s
  | .csrrw rd csr rs1 => Sys2Proof.Machine.execCsrrw rd csr rs1 s
  | .csrrs rd csr rs1 => Sys2Proof.Machine.execCsrrs rd csr rs1 s
  | .csrrc rd csr rs1 => Sys2Proof.Machine.execCsrrc rd csr rs1 s
  | .csrrwi rd csr rs1 => Sys2Proof.Machine.execCsrrwi rd csr rs1 s
  | .csrrsi rd csr rs1 => Sys2Proof.Machine.execCsrrsi rd csr rs1 s
  | .csrrci rd csr rs1 => Sys2Proof.Machine.execCsrrci rd csr rs1 s
  | .addUw rd rs1 rs2 => Sys2Proof.Machine.execAddUw rd rs1 rs2 s
  | .sh1add rd rs1 rs2 => Sys2Proof.Machine.execSh1add rd rs1 rs2 s
  | .sh2add rd rs1 rs2 => Sys2Proof.Machine.execSh2add rd rs1 rs2 s
  | .sh3add rd rs1 rs2 => Sys2Proof.Machine.execSh3add rd rs1 rs2 s
  | .sh1addUw rd rs1 rs2 => Sys2Proof.Machine.execSh1addUw rd rs1 rs2 s
  | .sh2addUw rd rs1 rs2 => Sys2Proof.Machine.execSh2addUw rd rs1 rs2 s
  | .sh3addUw rd rs1 rs2 => Sys2Proof.Machine.execSh3addUw rd rs1 rs2 s
  | .slliUw rd rs1 sh => Sys2Proof.Machine.execSlliUw rd rs1 sh s
  | .andn rd rs1 rs2 => Sys2Proof.Machine.execAndn rd rs1 rs2 s
  | .orn rd rs1 rs2 => Sys2Proof.Machine.execOrn rd rs1 rs2 s
  | .xnor rd rs1 rs2 => Sys2Proof.Machine.execXnor rd rs1 rs2 s
  | .clz rd rs1 => Sys2Proof.Machine.execClz rd rs1 s
  | .clzw rd rs1 => Sys2Proof.Machine.execClzw rd rs1 s
  | .ctz rd rs1 => Sys2Proof.Machine.execCtz rd rs1 s
  | .ctzw rd rs1 => Sys2Proof.Machine.execCtzw rd rs1 s
  | .cpop rd rs1 => Sys2Proof.Machine.execCpop rd rs1 s
  | .cpopw rd rs1 => Sys2Proof.Machine.execCpopw rd rs1 s
  | .max rd rs1 rs2 => Sys2Proof.Machine.execMax rd rs1 rs2 s
  | .maxu rd rs1 rs2 => Sys2Proof.Machine.execMaxu rd rs1 rs2 s
  | .min rd rs1 rs2 => Sys2Proof.Machine.execMin rd rs1 rs2 s
  | .minu rd rs1 rs2 => Sys2Proof.Machine.execMinu rd rs1 rs2 s
  | .sextB rd rs1 => Sys2Proof.Machine.execSextB rd rs1 s
  | .sextH rd rs1 => Sys2Proof.Machine.execSextH rd rs1 s
  | .zextH rd rs1 => Sys2Proof.Machine.execZextH rd rs1 s
  | .rol rd rs1 rs2 => Sys2Proof.Machine.execRol rd rs1 rs2 s
  | .rolw rd rs1 rs2 => Sys2Proof.Machine.execRolw rd rs1 rs2 s
  | .ror rd rs1 rs2 => Sys2Proof.Machine.execRor rd rs1 rs2 s
  | .rori rd rs1 sh => Sys2Proof.Machine.execRori rd rs1 sh s
  | .roriw rd rs1 sh => Sys2Proof.Machine.execRoriw rd rs1 sh s
  | .rorw rd rs1 rs2 => Sys2Proof.Machine.execRorw rd rs1 rs2 s
  | .orcB rd rs1 => Sys2Proof.Machine.execOrcB rd rs1 s
  | .rev8 rd rs1 => Sys2Proof.Machine.execRev8 rd rs1 s
  | .czeroEqz rd rs1 rs2 => Sys2Proof.Machine.execCzeroEqz rd rs1 rs2 s
  | .czeroNez rd rs1 rs2 => Sys2Proof.Machine.execCzeroNez rd rs1 rs2 s
  | .sret => Sys2Proof.Machine.execSret s
  | .wfi => Sys2Proof.Machine.execWfi s
  | .sfenceVma rs1 => Sys2Proof.Machine.execSfenceVma rs1 s
  | .deviceReset => Sys2Proof.Machine.execDeviceReset s
  | .bootImageReceived image config secver mldsa ecdsa => Sys2Proof.Machine.execBootImageReceived image config secver mldsa ecdsa s
  | .bootRetry => Sys2Proof.Machine.execBootRetry s
  | .securityVersionRaise => Sys2Proof.Machine.execSecurityVersionRaise s
  | .spdmRequest port req => Sys2Proof.Machine.execSpdmRequest port req s
  | .keySlotLoad slot key => Sys2Proof.Machine.execKeySlotLoad slot key s
  | .keySlotZeroize slot => Sys2Proof.Machine.execKeySlotZeroize slot s
  | .linkKeyUpdate port tx rx => Sys2Proof.Machine.execLinkKeyUpdate port tx rx s
  | .hostWindowWrite port addr stream data => Sys2Proof.Machine.execHostWindowWrite port addr stream data s
  | .hostWindowRead port addr stream len => Sys2Proof.Machine.execHostWindowRead port addr stream len s
  | .hostDoorbellWrite chan tail => Sys2Proof.Machine.execHostDoorbellWrite chan tail s
  | .clientRequest chan svc => Sys2Proof.Machine.execClientRequest chan svc s
  | .hostLinkFailure port => Sys2Proof.Machine.execHostLinkFailure port s
  | .hostLinkReset port => Sys2Proof.Machine.execHostLinkReset port s
  | .deviceWindowMap port index base page pages => Sys2Proof.Machine.execDeviceWindowMap port index base page pages s
  | .herezFlitReceive port flit => Sys2Proof.Machine.execHerezFlitReceive port flit s
  | .escapeChannelMove group cls => Sys2Proof.Machine.execEscapeChannelMove group cls s
  | .herezPortRetrain port => Sys2Proof.Machine.execHerezPortRetrain port s
  | .herezPortDown port => Sys2Proof.Machine.execHerezPortDown port s
  | .herezPortUp port => Sys2Proof.Machine.execHerezPortUp port s
  | .remoteFabricAccess window tag addr len data => Sys2Proof.Machine.execRemoteFabricAccess window tag addr len data s
  | .checkpointRequest => Sys2Proof.Machine.execCheckpointRequest s
  | .checkpointEngineDone => Sys2Proof.Machine.execCheckpointEngineDone s
  | .checkpointRestore fast cap poisonFast poisonCap keys => Sys2Proof.Machine.execCheckpointRestore fast cap poisonFast poisonCap keys s
  | .powerCapSet watts => Sys2Proof.Machine.execPowerCapSet watts s
  | .clockStep power => Sys2Proof.Machine.execClockStep power s
  | .thermalFreeze temp => Sys2Proof.Machine.execThermalFreeze temp s
  | .errorCounterSnapshot clear => Sys2Proof.Machine.execErrorCounterSnapshot clear s
  | .enckeFreeze source => Sys2Proof.Machine.execEnckeFreeze source s
  | .thaw => Sys2Proof.Machine.execThaw s
  | .regionCreate id tenant cores satp => Sys2Proof.Machine.execRegionCreate id tenant cores satp s
  | .regionDestroy id => Sys2Proof.Machine.execRegionDestroy id s
  | .interleaveTableWrite index w0 w1 => Sys2Proof.Machine.execInterleaveTableWrite index w0 w1 s
  | .routerTagTableWrite router tag phase w => Sys2Proof.Machine.execRouterTagTableWrite router tag phase w s
  | .pageTableInvalidation writes denied => Sys2Proof.Machine.execPageTableInvalidation writes denied s
  | .tileDemote core slot line => Sys2Proof.Machine.execTileDemote core slot line s
  | .tileEvict core slot => Sys2Proof.Machine.execTileEvict core slot s
  | .tileRestore core slot line => Sys2Proof.Machine.execTileRestore core slot line s
  | .handleRevocation core slot => Sys2Proof.Machine.execHandleRevocation core slot s
  | .jobAbort job => Sys2Proof.Machine.execJobAbort job s
  | .containmentReset target => Sys2Proof.Machine.execContainmentReset target s
  | .quantumExpiry region => Sys2Proof.Machine.execQuantumExpiry region s
  | .energyAccountTick measured outside temp => Sys2Proof.Machine.execEnergyAccountTick measured outside temp s
  | .rateWindowBoundary region => Sys2Proof.Machine.execRateWindowBoundary region s
  | .faultRingAdvance die count => Sys2Proof.Machine.execFaultRingAdvance die count s
  | .titaniaReply core strand a0 a1 => Sys2Proof.Machine.execTitaniaReply core strand a0 a1 s
  | .refreshBreak bank => Sys2Proof.Machine.execRefreshBreak bank s
  | .channelLend chan => Sys2Proof.Machine.execChannelLend chan s
  | .channelReclaim chan => Sys2Proof.Machine.execChannelReclaim chan s
  | .watchdogEvent subject => Sys2Proof.Machine.execWatchdogEvent subject s
  | .dramUncorrectableError tier line => Sys2Proof.Machine.execDramUncorrectableError tier line s
  | .tileUncorrectableError level unit line => Sys2Proof.Machine.execTileUncorrectableError level unit line s
  | .eccCorrected place => Sys2Proof.Machine.execEccCorrected place s
  | .vflagsWrite v => Sys2Proof.Machine.execVflagsWrite v s
  | .voorvaWrite v => Sys2Proof.Machine.execVoorvaWrite v s
  | .vslipWrite v => Sys2Proof.Machine.execVslipWrite v s
  | .vlenWrite v => Sys2Proof.Machine.execVlenWrite v s
  | .vstartWrite v => Sys2Proof.Machine.execVstartWrite v s
  | .vmodeWrite g v => Sys2Proof.Machine.execVmodeWrite g v s
  | .vtwinWrite v => Sys2Proof.Machine.execVtwinWrite v s
  | .vtsafeWrite v => Sys2Proof.Machine.execVtsafeWrite v s
  | .stimecmpWrite v => Sys2Proof.Machine.execStimecmpWrite v s
  | .csrWrite csr v => Sys2Proof.Machine.execCsrWrite csr v s
  | .hostWindowMap window port pages => Sys2Proof.Machine.execHostWindowMap window port pages s
  | .fabricWindowExport window tag page pages => Sys2Proof.Machine.execFabricWindowExport window tag page pages s
  | .tdispBind port index stream => Sys2Proof.Machine.execTdispBind port index stream s
  | .measurementExtend reg data => Sys2Proof.Machine.execMeasurementExtend reg data s
  | .bootFetchFailure => Sys2Proof.Machine.execBootFetchFailure s

end Sys2Proof.Machine
end

