-- ==== Sys2Proof/Machine/Schedule.lean ====
section
/-!
DEFINITION. Who acts in a step: fetch and issue of a strand (R19, R20, R24, R86, R282), the turns of nodes and events, the model's own
schedule, and the time that a step takes (R83, R274, R278, R279). A step is one turn of one agent (log 1).
-/
namespace Sys2Proof.Machine

/-! ## Fetch (R85, R86, R163, R170, R185) -/

/-- Reads a word of the instruction at `p`: a line that the instruction cache holds serves it, unless it has been dropped; any other
line is read and then held. A line that still stands in memory as it is held serves either way. -/
def State.fetchAt (s : State) (c : Nat) (p : Phys) : Except FetchFault (BitVec 32) × State :=
  match p with
  | .host .. => if s.poisonAt p then (.error (.poison 0), s) else (.ok (BitVec.ofNat 32 (s.numAt p 4)), s)
  | .dev a =>
    let read (s : State) : Except FetchFault (BitVec 32) × State :=
      let s1 := s.touch p
      if s1.poisonAt p then (.error (.poison 0), s1)
      else
        (.ok (BitVec.ofNat 32 (s1.numAt p 4)), s1.onCore c fun r => { r with icache := cacheFill (Config.choice s1.tick) r.icache (a / 64) (s1.lineNow a) })
    match (s.core c).icache.find? fun e => e.1 = a / 64 with
    | some (_, l) =>
      if (decide (l ≠ s.lineNow a) || s.poisonAt p) && Config.evicted (2 * s.tick + 1) then read (s.onCore c fun r => { r with icache := r.icache.del (a / 64) })
      else (.ok (BitVec.ofNat 32 (lineNum l (a % 64) 4)), s)
    | none => read s

/-- Fetches the instruction at the pc of strand `k` of core `c`. -/
def State.fetch (s : State) (c k : Nat) : Except FetchFault (BitVec 32) × State :=
  let pc := (s.strand c k).pc
  match s.translate c k pc .fetch with
  | (.error e, s1) => (.error (if e.cause = 1 then .access else .page), s1)
  | (.ok p, s1) =>
    match s1.fetchAt c p with
    | (.error (.poison _), s2) => (.error (.poison (lineAddr pc).toNat), s2)
    | r => r

/-! ## What may issue ahead of queued vector words (R20, R24, R26, R37, R87) -/

/-- The word of a vector instruction. -/
def isVectorWord (w : BitVec 32) : Bool := w.extractLsb' 0 7 = 0x0B#7 || w.extractLsb' 0 7 = 0x2B#7

/-- The x registers that a vector word writes, and those its fields name. -/
def xDest (i : Instr) : List Nat :=
  match i.fields.head? with
  | some (n, .x) => if n = 0 then [] else [n]
  | _ => []
def xFields (i : Instr) : List Nat := i.fields.filterMap fun f => match f.2 with
  | .x => some f.1
  | _ => none

/-- The x registers that queued words will write. -/
def Strand.xPending (t : Strand) : List Nat := t.pending.flatMap fun q => xDest q.word

/-- Register fields of a scalar word, as numbers. -/
def rdOf (w : BitVec 32) : Nat := (w.extractLsb' 7 5).toNat
def rs1Of (w : BitVec 32) : Nat := (w.extractLsb' 15 5).toNat
def rs2Of (w : BitVec 32) : Nat := (w.extractLsb' 20 5).toNat

/-- How a scalar word stands to the older vector words of its strand that are still queued: it goes ahead of them, and going back to
the oldest of them undoes it; it is a system word, which does not wait for them (R320), and whose effects are undone as far as nobody else
has changed what it left; or it comes after them. -/
inductive Ahead where
  | free
  | system
  | after
  deriving DecidableEq, Repr

/-- The system words that only read, besides those of modes and lengths and the fences: PSTAT, TSTATE, TGEN, ROWSTAT, ASTAT, CHSTAT,
EVRD and TSNOW. -/
def readers : List Nat := [0x06, 0x09, 0x0B, 0x0E, 0x12, 0x17, 0x27, 0x28]

/-- The CSRs whose instructions come after older vector words: vflags, voorva and vslip (R90, R92), and vtsafe, whose pins cannot be given
back (R99). -/
def lateCsrs : List Nat := [0x806, 0x807, 0x808, 0x5C4]

/-- The class of a scalar word: register arithmetic, jumps and branches, the words of modes and lengths (R116, R321), the CSR instructions
but for those of `lateCsrs`, the words that only read, the fences and FENCE.I (R322) go ahead. -/
def aheadOf (w : BitVec 32) : Ahead :=
  let op := w.toNat % 128
  let f7 := (w.extractLsb' 25 7).toNat
  let f3 := (w.extractLsb' 12 3).toNat
  if [0x13, 0x1B, 0x33, 0x3B, 0x37, 0x17, 0x63, 0x6F, 0x67].contains op then .free
  else if op = 0x0F then .free
  else if op = 0x73 then (if f3 ≠ 0 && !lateCsrs.contains (w.toNat / 2 ^ 20) then .free else .after)
  else if op = 0x7B then (if f7 < 4 || readers.contains f7 || [0x1D, 0x1E, 0x1F].contains f7 then .free else .system)
  else .after

/-- The x registers that a system word's fields name. -/
def sysRegs (f7 rd rs1 rs2 : Nat) : List Nat :=
  (if [0x01, 0x02, 0x06, 0x07, 0x09, 0x0B, 0x0C, 0x0E, 0x0F, 0x10, 0x12, 0x16, 0x17, 0x21, 0x22, 0x23, 0x24, 0x27, 0x28, 0x29].contains f7 then
    [rd] else []) ++
  (if [0x00, 0x02, 0x03, 0x04, 0x07, 0x08, 0x09, 0x0A, 0x0B, 0x0C, 0x0D, 0x0E, 0x0F, 0x10, 0x11, 0x12, 0x21, 0x22, 0x23, 0x24, 0x25, 0x26,
      0x27, 0x29, 0x2B, 0x2C].contains f7 then [rs1] else []) ++
  (if [0x04, 0x0A, 0x13, 0x17, 0x18, 0x1B, 0x22, 0x24, 0x25, 0x26, 0x29, 0x2B].contains f7 then [rs2] else [])

/-- The x registers that a scalar word's fields name (R26). -/
def scalarRegs (w : BitVec 32) : List Nat :=
  let op := w.toNat % 128
  let rd := rdOf w
  let rs1 := rs1Of w
  let rs2 := rs2Of w
  if op = 0x37 || op = 0x17 || op = 0x6F then [rd]
  else if op = 0x63 || op = 0x23 then [rs1, rs2]
  else if op = 0x13 || op = 0x1B || op = 0x67 || op = 0x03 then [rd, rs1]
  else if op = 0x73 then [rd] ++ (if (w.extractLsb' 12 3).toNat < 4 then [rs1] else [])
  else if op = 0x7B then sysRegs (w.extractLsb' 25 7).toNat rd rs1 rs2
  else if op = 0x0F then []
  else [rd, rs1, rs2]

/-- A word that a waiting fence keeps from issuing: an access of a fenced domain, be it a scalar access, the scalar loads that read a command,
a descriptor or a job record, or a tile read of a chain record; and what waits for every older access itself, RUN, CTXSV, CTXLD and STEPEND
(R180, R182, R188, R322). Vector words wait in their queues, and other fences issue. -/
def fencedWord (w : BitVec 32) : Bool :=
  let op := w.toNat % 128
  let f7 := (w.extractLsb' 25 7).toNat
  op = 0x03 || op = 0x23 || op = 0x2F ||
    (op = 0x7B && [0x0F, 0x13, 0x15, 0x1B, 0x21, 0x22, 0x23, 0x24, 0x25, 0x26, 0x2A].contains f7)

/-- A vector word that passes its checks at issue, and is no node word. -/
def vectorAhead (t : Strand) (i : Instr) (w : BitVec 32) : Bool :=
  let opn := opnOf w
  (wordRefusal i t.modes).isNone && !(0xB0 ≤ opn && opn ≤ 0xC6)

/-- The strand owns a slot whose remainder runs: it issues no vector word of its own (R37). -/
def State.inRemainder (s : State) (c k : Nat) : Bool := (s.core c).slots.any fun e => e.2.owner = k && e.2.state = .temporal

/-- An MLDW or VCBLD at the head of AQ has found no FREE entry in the copy table, which keeps the strand from issuing (R237). -/
def State.tableFull (s : State) (c k : Nat) : Bool := (s.strand c k).aq.head?.any fun q => s.noEntry c (opnOf (encode q.word))

/-- The front end may issue the fetched word now (R20, R24, R26, R37, R237, R320, R322, log 6). -/
def State.mayIssue (s : State) (c k : Nat) (i : Instr) (w : BitVec 32) : Bool :=
  let t := s.strand c k
  if isVectorWord w && s.inRemainder c k then false
  else if !t.fences.isEmpty && fencedWord w then false
  else if t.pending.isEmpty then true
  else if s.tableFull c k then false
  else if isVectorWord w then vectorAhead t i w && (xFields i).all fun x => !t.xPending.contains x
  else if i = .reservedEncoding w then false
  else if (scalarRegs w).any t.xPending.contains then false
  else
    match aheadOf w with
    | .free => true
    | .system => !s.trapDue c k
    | .after => false

/-! ## A strand's turn -/

/-- What a strand takes at a boundary once no precise fault comes first: its break trap, else its interrupt (R282). -/
inductive Boundary where
  | nothing
  | breakTrap
  | interrupt
  deriving DecidableEq, Repr

/-- The trap that strand `k` of core `c` has to take. -/
def State.boundary (s : State) (c k : Nat) : Boundary :=
  if s.inContext c k then .nothing
  else if (s.breakSlot c k).isSome then .breakTrap
  else if (s.interruptCode c k).isSome then .interrupt
  else .nothing

/-- An instruction of strand `k` has raised an exception: TW has come up, a double fault has halted the strand, or the fault waits for
room in the ring. -/
def trapped (s s' : State) (c k : Nat) : Bool :=
  (!(s.strand c k).tw && (s'.strand c k).tw) || (s'.strand c k).status = .halted || (s'.strand c k).fault.isSome

/-- The trap of a boundary. -/
def State.boundaryTrap (s : State) (c k : Nat) : Boundary → Host.Outcome State Fault Refusal
  | .nothing => .next s
  | .breakTrap => execBreakTrapEntry c k s
  | .interrupt => execInterruptEntry c k s

/-- A full queue, a job queue or copy table without a free entry, or a handle keeps the strand from issuing the word `w` (R20, R135, R227,
R237, R404). -/
def State.keepsIssue (s : State) (c k : Nat) (w : BitVec 32) : Bool :=
  let t := s.strand c k
  let f7 := (w.extractLsb' 25 7).toNat
  if isVectorWord w then t.queueFull (opnOf w) || s.noEntry c (opnOf w)
  else w.toNat % 128 = 0x7B &&
    (t.request.any (fun r => !r.words.isEmpty) || (f7 = 0x13 && (s.tile c (handleSlot (t.x? (rs2Of w)))).state = .filling))

/-- Whether the strand was kept from issuing at its turn, and whether only what a fence undoes has issued after the fences that wait (R278,
R320). -/
def State.noteIssue (s : State) (c k : Nat) (w : BitVec 32) (issued : Bool) : State :=
  s.onStrand c k fun t =>
    { t with
      kept := t.status = .active && (s.waitsHandle c k || (!issued && (s.keepsIssue c k w || s.tableFull c k)))
      fences := if issued && (isVectorWord w || aheadOf w ≠ .free) then t.fences.map fun f => { f with clean := false } else t.fences }

/-- The instruction of a strand, against what is older than it and what the boundary before it holds. An exception of it is not taken
before everything older has completed; the instruction is then tried again (R87, R225). -/
def State.atInstr (s : State) (c k : Nat) (w : BitVec 32) (r : Host.Outcome State Fault Refusal) : Host.Outcome State Fault Refusal :=
  match r with
  | .next s' =>
    if trapped s s' c k then (if (s.strand c k).older then r else .next (s.noteIssue c k w false))
    else
      match s.boundary c k with
      | .nothing =>
        let issued : Bool := (s'.strand c k).pc ≠ (s.strand c k).pc || (s'.strand c k).instret ≠ (s.strand c k).instret
        let s2 := if issued && !isVectorWord w && aheadOf w = .system then s.noteChanges s' c k (s.strand c k).vpos else s'
        .next (s2.noteIssue c k w issued)
      | b => s.boundaryTrap c k b
  | r => r

/-- One instruction of an ACTIVE strand. A boundary's trap waits until the strand's vector words have completed, and a queued QPOPX that
finds its queue empty makes the strand WAITING (R18, R431). -/
noncomputable def State.runStrand (s : State) (c k : Nat) : Host.Outcome State Fault Refusal :=
  let t := s.strand c k
  if t.heldBy.isSome then .next s
  else if s.boundary c k ≠ .nothing && !t.older then (if t.atBoundary then s.boundaryTrap c k (s.boundary c k) else .next s)
  else
    match s.emptyPop c k with
    | some (_, q) => .next (s.waitQueue c k q)
    | none =>
      if t.pc.toNat % 4 ≠ 0 then s.atInstr c k 0 (finish (s.raise (exc 0 t.pc)))
      else
        match s.fetch c k with
        | (.error why, s1) => s1.atInstr c k 0 (exec (.instructionFetchFault why) s1)
        | (.ok w, s1) =>
          if s1.mayIssue c k (decode w) w then s1.atInstr c k w (exec (decode w) s1) else .next (s1.noteIssue c k w false)

/-- The clocks of core `c` run: Titania does, and the core belongs to a region that no checkpoint freezes (R39, R292, R477). -/
def State.clocked (s : State) (c : Nat) : Bool :=
  s.booted && match (s.core c).region with
  | none => false
  | some r => match s.region r with
    | some x => !x.frozen
    | none => false

/-- A turn of strand `k` of core `c`, which first ends its fences that are met. A fault that waits for room in the ring, be it of a word of
a remainder while the strand waits, is tried again (R242). -/
noncomputable def State.strandTurn (s0 : State) (c k : Nat) : Host.Outcome State Fault Refusal :=
  let s := s0.settleFence c k
  match (s.strand c k).status, (s.strand c k).fault with
  | .active, some f | .waiting, some f => finish (s.takeFault c k f)
  | .active, none => s.runStrand c k
  | .waiting, none =>
    match s.boundary c k with
    | .nothing => execWaitEnd c k s
    | b => if (s.strand c k).atBoundary then s.boundaryTrap c k b else .next s
  | _, _ => .next s

/-! ## Turns of nodes and events -/

/-- The core whose clock an event of a core runs on. -/
def eventCore : Instr → Option Nat
  | .interruptEntry c _ | .breakTrapEntry c _ | .waitEnd c _ | .vectorAdmission c _ | .vectorWalkComplete c _ _
  | .copyActivate c _ | .copyBeat c _ | .arrivalToken c _ | .copyCompletionToken c _ | .chainBreak c _
  | .slotEnterTemporal c _ | .remainderWord c _ | .runComplete c _ | .lgNodeFire c _ _ | .mnNodeFire c _ _
  | .sourcePortPush c _ _ | .sinkPortWrite c _ _ | .tokenLand c _ | .watchFire c _ _ | .stipSet c _ => some c
  | _ => none

/-- Strand `k` of core `c` is one of the device's 1,024 (R2, R3). -/
def strandExists (c k : Nat) : Bool := c < 256 && k < 4

/-- The cores, strands and dies that an event names are those of the device (R2). -/
def named : Instr → Bool
  | .interruptEntry c k | .breakTrapEntry c k | .waitEnd c k | .vectorAdmission c k | .vectorWalkComplete c k _ | .watchFire c k _
  | .stipSet c k | .rowReopenGiveup c k _ | .titaniaReply c k _ _ | .watchdogEvent (.strand c k) => strandExists c k
  | .chainBreak c sl | .slotEnterTemporal c sl | .remainderWord c sl | .runComplete c sl | .lgNodeFire c sl _ | .mnNodeFire c sl _
  | .sourcePortPush c sl _ | .sinkPortWrite c sl _ => c < 256 && sl < 4
  | .copyActivate c n | .copyBeat c n | .arrivalToken c n | .copyCompletionToken c n => c < 256 && n < 32
  | .tokenLand c n | .watchdogEvent (.queue c n) => c < 256 && n < 16
  | .watchdogEvent (.circuit c n) => c < 256 && n < 16 + 256
  | .tileDemote c _ _ | .tileEvict c _ | .tileRestore c _ _ | .handleRevocation c _ | .containmentReset (.core c) => c < 256
  | .faultRingAdvance d _ => d < 4
  | .refreshBreak b => b < 8192
  | .advancePass r t => r < 256 + 8 && t < 256
  | _ => true

/-- An act of Titania's own, which Titania does not take while it has quiesced its cores for the checkpoint engine (R482). -/
def ofTitania : Instr → Bool
  | .regionCreate .. | .regionDestroy _ | .interleaveTableWrite .. | .routerTagTableWrite .. | .pageTableInvalidation ..
  | .tileDemote .. | .tileEvict .. | .tileRestore .. | .handleRevocation .. | .jobAbort _ | .faultRingAdvance .. | .titaniaReply ..
  | .deviceWindowMap .. | .hostWindowMap .. | .tdispBind .. | .fabricWindowExport .. | .powerCapSet _ | .clientRequest ..
  | .measurementExtend .. | .securityVersionRaise | .errorCounterSnapshot _ | .checkpointRestore .. => true
  | _ => false

/-- An event that acts before Titania runs, while all but Onyx is held (R477, R478): Onyx's own, requests of hosts, errors, links and
freezes. -/
def beforeBoot : Instr → Bool
  | .deviceReset | .bootImageReceived .. | .bootRetry | .bootFetchFailure | .spdmRequest .. | .keySlotLoad .. | .keySlotZeroize _
  | .linkKeyUpdate .. | .hostWindowWrite .. | .hostWindowRead .. | .hostDoorbellWrite .. | .hostLinkFailure _ | .hostLinkReset _
  | .herezPortRetrain _ | .herezPortDown _ | .herezPortUp _ | .dramUncorrectableError .. | .tileUncorrectableError .. | .eccCorrected _
  | .thermalFreeze _ | .enckeFreeze _ | .thaw => true
  | _ => false

/-- An event that acts while Encke holds the device frozen: Encke and Onyx keep running, and hosts get no response (R295). -/
def whileFrozen : Instr → Bool
  | .thaw | .deviceReset | .enckeFreeze _ | .thermalFreeze _ | .keySlotLoad _ _ | .keySlotZeroize _ | .linkKeyUpdate _ _ _
  | .bootRetry | .bootFetchFailure | .bootImageReceived .. => true
  | .spdmRequest port _ => port = 2
  | _ => false

/-- One turn. -/
noncomputable def State.act (s : State) : Turn → Host.Outcome State Fault Refusal
  | .strand c k => if s.frozen.isSome || !s.clocked c || !strandExists c k then .next s else ({ s with agent := .strand c k }).strandTurn c k
  | .node c sl n =>
    let x := (s.slot c sl).rec_.node n
    if s.frozen.isSome || !s.clocked c || x.kind ≠ 2 || 256 ≤ c || 4 ≤ sl then .next s
    else exec (decode x.word) { s with agent := .node c sl n }
  | .event e =>
    if (s.frozen.isSome && !whileFrozen e) || !named e || (!s.booted && !beforeBoot e) || (s.checkpoint ≠ .none && ofTitania e) then .next s
    else if (eventCore e).any fun c => !s.clocked c then .next s
    else exec e s

/-! ## The model's own schedule -/

/-- The turns that the entries of one slot can take. -/
def slotTurns (c sl : Nat) (y : Slot) : List Turn :=
  match y.state with
  | .spatial =>
    if y.breaking.isSome then [.event (.chainBreak c sl)]
    else
      (List.range y.rec_.nodes.length).map (fun n =>
        match (y.rec_.node n).kind with
        | 0 => .event (.lgNodeFire c sl n)
        | 1 => .event (.mnNodeFire c sl n)
        | 2 => .node c sl n
        | _ => if y.rec_.ins n = [] then .event (.sourcePortPush c sl n) else .event (.sinkPortWrite c sl n)) ++
      [.event (.runComplete c sl)]
  | .broken => if y.resume then [.event (.slotEnterTemporal c sl)] else []
  | .temporal => [.event (.remainderWord c sl), .event (.runComplete c sl)]
  | _ => []

/-- The turns that a copy table entry can take. -/
def copyTurns (c n : Nat) (x : Copy) : List Turn :=
  match x.state with
  | .waiting => [.event (.copyActivate c n)]
  | .active =>
    if !x.beatsDone then [.event (.copyBeat c n)]
    else if !x.arrived then [.event (.arrivalToken c n)]
    else [.event (.copyCompletionToken c n)]
  | _ => []

/-- The turns of one core, apart from its strands. -/
noncomputable def coreTurns (c : Nat) (r : Core) : List Turn :=
  r.slots.flatMap (fun e => slotTurns c e.1 e.2) ++ r.copies.flatMap (fun e => copyTurns c e.1 e.2) ++
    ((r.flights.map (·.q)).eraseDups.map fun q => .event (.tokenLand c q)) ++
    (r.queues.filterMap fun e => if watchdogLimit ≤ e.2.wdRun then some (.event (.watchdogEvent (.queue c e.1))) else none) ++
    (r.circuits.filterMap fun e =>
      if e.1 % 2 = 0 && watchdogLimit ≤ e.2 then some (.event (.watchdogEvent (.circuit c (e.1 / 2)))) else none) ++
    (if r.flights.isEmpty then (r.slots.flatMap fun e => e.2.rec_.routes.map fun x => .event (.advancePass c x.tag)) else [])

/-- The turns of one strand. -/
noncomputable def strandTurns (c k : Nat) (t : Strand) : List Turn :=
  (match t.status with
    | .active | .waiting => [.strand c k]
    | _ => []) ++
  (if t.pending.isEmpty then [] else [.event (.vectorAdmission c k)]) ++
  (match t.walks with
    | [] => []
    | r :: _ => [.event (.vectorWalkComplete c k r)]) ++
  (if watchdogLimit ≤ t.wdRun then [.event (.watchdogEvent (.strand c k))] else []) ++
  (List.range t.watches.length).map fun i => .event (.watchFire c k i)

/-- The turns of the regions' controllers. -/
def regionTurns (s : State) : List Turn :=
  s.jobs.flatMap fun e =>
    match e.2 with
    | none => []
    | some j =>
      match j.state with
      | .queued => [.event (.dependenceMet (BitVec.ofNat 32 e.1))]
      | .ready => [.event (.jobSelection j.region)]
      | .running =>
        (List.range j.tree.length).flatMap fun i =>
          if (j.walker i).running then [.event (.stepComplete j.region i)]
          else if j.mayStep i then [.event (.stepEntry j.region i)]
          else []
      | .stopping => [.event (.stepBoundaryStop j.region)]
      | .done => []

/-- The turns of the regions' windows, and of channels that lend their lanes. -/
noncomputable def windowTurns (s : State) : List Turn :=
  (s.regions.filterMap fun e => e.2.bind fun r =>
    if r.cores.any fun c => (s.core c).windowOver then some (.event (.rateWindowBoundary e.1)) else none) ++
  (s.lend.filterMap fun e => if e.2.toNat % 4 = 1 then some (.event (.channelReclaim e.1)) else none)

/-- Everything that can act. -/
noncomputable def State.turnsNow (s : State) : List Turn :=
  s.strands.flatMap (fun e => strandTurns (e.1 / 4) (e.1 % 4) e.2) ++ s.cores.flatMap (fun e => coreTurns e.1 e.2) ++ regionTurns s ++ windowTurns s

/-- The model's own schedule: everything that can act, in turn. -/
noncomputable def State.nextTurn (s : State) : Turn :=
  let ts := s.turnsNow
  ts.getD (s.tick % ts.length) (.strand 0 0)

/-! ## Time (R83, R274, R278, R279) -/

/-- A strand after a step: events 0x00 and 0x05, and its watchdog (R278). -/
def Strand.age (t : Strand) (n : Nat) : Strand :=
  match t.status with
  | .active => { t.count 0 n with wdRun := if t.kept then t.wdRun + n else 0 }
  | .waiting => { t.count 5 n with wdRun := t.wdRun + n }
  | _ => { t with wdRun := 0 }

/-- Tokens that a node takes or gives at once on a queue: 32 for the input of an MN node, a strip for a strip-bound word (R210, R211). -/
def Rec.span (r : Rec) (vl n : Nat) (input : Bool) : Nat :=
  let x := r.node n
  if x.kind = 1 && input then 32 else if x.strip then max 1 (x.vlIn vl) else 1

/-- Node `n` looks for tokens at field `f` now: FLOOPC, when it carries none, at a in FRONT mode and at b in the others (R423). -/
def Slot.wants (y : Slot) (n f : Nat) : Bool :=
  let x := y.rec_.node n
  let z := y.node n
  !z.finished && (!x.loop || (z.toks.isEmpty && (if z.reg 1 = 0 then f = x.a else f = x.b)))

/-- A chain whose nodes look for tokens and room. -/
def Slot.runs (y : Slot) : Bool := y.state = .spatial || y.state = .temporal

/-- The consumer of the queue of entry `i` of a slot waits for a token (R278). -/
def State.starved (s : State) (y : Slot) (i : Nat) : Bool :=
  let r := y.rec_
  let e := r.entry i
  let x := s.queue (r.queueCore e) e.q
  r.queueCore e < 256 && e.cons ≠ 63 && y.wants e.cons (48 + e.q) && x.held < r.span y.vl e.cons true && (tokensOf x.items).all Token.isVal

/-- The producer of the queue of entry `i` of a slot waits for room, or for credit (R206, R278). -/
def State.blocked (s : State) (y : Slot) (i : Nat) : Bool :=
  let r := y.rec_
  let e := r.entry i
  e.prod ≠ 63 && !(y.node e.prod).finished && s.roomIn (r.ref i) < r.span y.vl e.prod false &&
    (r.ins e.prod).all fun j => r.queueCore (r.entry j) = 256 || 0 < (s.queue (r.queueCore (r.entry j)) (r.entry j).q).held

/-- The queue of entry `i` of a slot, or the circuit that feeds it, is stalled (R278). -/
def State.stalled (s : State) (y : Slot) (i : Nat) : Bool := y.runs && (s.starved y i || s.blocked y i)

/-- The slot that claims queue `q` of core `c`, and the queue's entry in its record. -/
def State.claim (s : State) (c q : Nat) : Option (Nat × Nat × Nat) :=
  (s.queue c q).owner.bind fun o =>
    ((s.slot (o / 4) (o % 4)).rec_.places.find? fun pl => pl.2 = (c, q)).map fun pl => (o / 4, o % 4, pl.1)

/-- Tokens have moved through the queue or circuit of an entry of a slot in the step from `s` to `s'`: the queue's contents have changed, or
its producer has pushed or its consumer popped (R266, R278). -/
def State.moved (s s' : State) (core sl i : Nat) : Bool :=
  let r := (s'.slot core sl).rec_
  let e := r.entry i
  let p (u : State) (j : Nat) : Nat := SMap.get 0 (u.slot core sl).prog (2 * i + j)
  (r.queueCore e < 256 && (s.queue (r.queueCore e) e.q).items ≠ (s'.queue (r.queueCore e) e.q).items) ||
    p s 0 ≠ p s' 0 || p s 1 ≠ p s' 1

/-- The circuit endpoints of core `c`, each under its watchdog key with the slot and the entry: a queue that a circuit feeds under its own
number, and a circuit that a node of the core sends on under 16 + its tag (R278). -/
def State.circuitEnds (s : State) (c : Nat) : List (Nat × Nat × Nat × Nat) :=
  ((List.range 16).filterMap fun q => (s.claim c q).bind fun x =>
    if ((s.slot x.1 x.2.1).rec_.entry x.2.2).xport = 2 then some (q, x) else none) ++
  s.cores.flatMap fun e => e.2.slots.flatMap fun z =>
    let r := z.2.rec_
    (List.range r.queues.length).filterMap fun i =>
      let x := r.entry i
      if x.xport = 2 && x.prod ≠ 63 && (r.node x.prod).core = c then some (16 + ((r.ref i).via.getD 0), e.1, z.1, i) else none

/-- A watchdog's run count after `n` cycles: a token that moves precedes a stall (R278). -/
def watchdogAfter (run n : Nat) (moved stalled : Bool) : Nat := if moved then 0 else if stalled then run + n else run

/-- The window of a core's input ports after `n` cycles: a count that would reach W starts again from 0 under the limiter `l` that RLIMSET
has asked for last (R273). -/
def Core.runWindow (r : Core) (l : Option (Nat × Nat)) (n : Nat) : Core :=
  match r.limit with
  | none => r
  | some (_, w) =>
    if r.window + n < w then { r with window := r.window + n }
    else { r with limit := l, window := l.elim 0 fun m => (r.window + n - w) % m.2, admitted := [] }

/-- A core after `n` cycles of its clock in the step from `s` to `s'`: its cycle count and windows, its queues and circuit endpoints, and
event 0x12: of the step's cycles, `late` with a late L0 bank (R83, R273, R278, R279). -/
def State.ageCore (s s' : State) (c n late : Nat) (r : Core) : Core :=
  let after (run : Nat) (x : Nat × Nat × Nat) : Nat :=
    watchdogAfter run n (s.moved s' x.1 x.2.1 x.2.2) (s'.stalled (s'.slot x.1 x.2.1) x.2.2)
  { r.runWindow (r.region.bind fun i => (s'.region i).bind (·.limit)) n with
    cycle := r.cycle + n
    events := SMap.set 0 r.events 0x12 (SMap.get 0 r.events 0x12 + BitVec.ofNat 64 (min n late))
    queues := r.queues.map fun e => (e.1, (s'.claim c e.1).elim e.2 fun x => { e.2 with wdRun := after e.2.wdRun x })
    circuits := (s'.circuitEnds c).foldl (fun m e => SMap.set 0 m (2 * e.1) (after (SMap.get 0 m (2 * e.1)) e.2)) r.circuits }

/-! ## What a job has written (R10) -/

/-- The words of a strand's registers and masks. -/
def Strand.words (t : Strand) : List Word :=
  t.x.map (·.2) ++ t.v.map (·.2) ++ t.m.flatMap fun e => (List.range 32).map fun i => word (e.2.toNat / 2 ^ (64 * i))

/-- The byte `n` places on. -/
def Spot.plus : Spot → Nat → Spot
  | .mem p, n => .mem (p.plus n)
  | .tile u b, n => .tile u (b + n)

/-- What a strand has written in the step from `s` to `s'`: words that its registers did not hold before, and the words of memory and of
tiles that it has stored to. -/
def State.wroteIn (s s' : State) (e : Nat × Strand) : List Word :=
  let old := (SMap.get Strand.reset s.strands e.1).words
  (e.2.words.filter fun w => !old.contains w) ++
    e.2.stores.filterMap fun u =>
      if u.tick = s.tick then some (word (ofBytes ((List.range 8).map fun i => s'.spotByte (u.spot.unit.plus i)))) else none

/-- What the strands of core `c`'s job have written in the step. -/
def State.jobWrote (s s' : State) (c : Nat) : List Word :=
  (s'.strands.filter fun e => (s'.core (e.1 / 4)).jobid = (s'.core c).jobid).flatMap (s.wroteIn s')

/-- Host links that train after a reset come up in their time (R486). -/
def State.trainLinks (s : State) : State := { s with hostDown := s.hostDown.filter fun e => e.2 || !Config.linkTrained s.tick e.1 }

/-- Time passes with a step from `s` to `s'`; while the device is frozen it stands still (R295), and the clocks of a core that no region
runs, or that a checkpoint freezes, do not run (R39, R292). -/
def State.elapse (s s' : State) : State :=
  if s'.frozen.isSome then { s' with tick := s'.tick + 1 }
  else
    let cycles (c : Nat) : Nat := if s'.clocked c then cyclesOf s (dieOf c) else 0
    let strandAfter (e : Nat × Strand) : Nat × Strand := 
      (e.1, { e.2.age (cycles (e.1 / 4)) with written := e.2.written ++ s.jobWrote s' (e.1 / 4) })
    let coreAfter (e : Nat × Core) : Nat × Core := (e.1, s.ageCore s' e.1 (cycles e.1) (s.free (160000 + e.1)).toNat e.2)
    let s1 : State :=
      { s' with
        strands := s'.strands.map strandAfter
        cores := s'.cores.map coreAfter
        time := s'.time + Config.ticks s.tick
        tick := s'.tick + 1 }
    s1.trainLinks.retryMaps

/-! ## One step -/

/-- Whose turn it is, and the state with that turn taken off the list (log 1). -/
noncomputable def State.takeTurn (s : State) : Turn × State :=
  match s.turns with
  | [] => (s.nextTurn, s)
  | t :: ts => (t, { s with turns := ts })

/-- The outcome of a turn with the time that it takes; a turn that met an address that does not exist stops. -/
def State.afterTurn (s : State) : Host.Outcome State Fault Refusal → Host.Outcome State Fault Refusal
  | .next s' => finish (s.elapse s')
  | r => r

/-- One turn of one agent. -/
noncomputable def State.turn (s : State) : Host.Outcome State Fault Refusal :=
  s.takeTurn.2.afterTurn (s.takeTurn.2.act s.takeTurn.1)

/-! ## Placing an instruction (log 7) -/

/-- The pc where an instruction can be placed: the strand's own, if it can be fetched from at all. -/
def fetchable (pc : Word) : Word := if pc.toNat % 4 = 0 && (bits pc 63 56 = 0 || bits pc 63 56 = 0xFF) then pc else 0

/-- Writes a page table entry: entry `i` of the table in page `t` of the fast tier. -/
def State.setEntry (s : State) (t i : Nat) (v : Word) : State := s.writeFast (4096 * t + 8 * i) (toBytes v.toNat 8)

/-- Page tables in pages 1 to 5 that map the page of `pc` to page 6. -/
def State.mapPage (s : State) (pc : Word) (u : Bool) : State :=
  let table (n : Nat) : Word := word (n * 2 ^ 10 + 1)
  let leaf : Word := word (6 * 2 ^ 10 + (if u then 0xDF else 0xCF))
  ((((s.setEntry 1 (bits pc 56 48) (table 2)).setEntry 2 (bits pc 47 39) (table 3)).setEntry 3 (bits pc 38 30) (table 4)).setEntry 4
    (bits pc 29 21) (table 5)).setEntry 5 (bits pc 20 12) leaf

/-- Stores an instruction where strand 0 of core 0 fetches next, with all that it takes for that strand to be next: a running
device, a region whose clocks run, page tables, and an ACTIVE strand with nothing queued (log 7). -/
def State.placeWord (s : State) (w : Nat) : State :=
  let t := s.strand 0 0
  let pc := fetchable t.pc
  let t' : Strand :=
    { t with
      pc := pc, status := .active, wait := none, satp := 0xA000000000000001, tlb := [], lq := [], aq := [], sq := [], walks := [],
      sie := 0, fault := none, fences := [], request := none, heldBy := none }
  let r := s.core 0
  let g : Region := (s.region 0).getD
    { cores := [0], tenant := 0, satp := 0xA000000000000001, running := none, limit := none, frozen := false, resets := [] }
  let s1 : State :=
    { s with
      turns := [.strand 0 0], boot := .running 0, frozen := none, stop := none, interleave := [(0, (0x8000000000200000, 0))],
      denied := [], poisonFast := [], regions := s.regions.put 0 (some { g with frozen := false }) }
  let s2 := (s1.setStrand 0 0 t').setCore 0 { r with region := some 0, icache := [], slots := [] }
  (s2.mapPage pc (t.priv = .u)).writeFast (4096 * 6 + bits pc 11 0) (toBytes w 4)

end Sys2Proof.Machine
end

