-- ==== Sys2Proof/Machine/Step.lean ====
section
/-!
DEFINITION. One step of the machine, and the state in which the next step runs a given word.
-/
namespace Sys2Proof.Machine

/-- One step: one turn of one agent, and the time it takes (log 1). -/
noncomputable def step (s : State) : Host.Outcome State Fault Refusal := s.turn

/-- `s` with the word `w` of an `nbits`-bit instruction stored where the next step fetches (log 7). -/
def State.withFetchWord (s : State) (nbits w : Nat) : State := s.placeWord (w % 2 ^ nbits)

end Sys2Proof.Machine
end

