-- ==== Sys2Proof/Safety.lean ====
section
/-!
DEFINITION. What counts as a safe run: steps that go on, and the states that steps reach.
-/
namespace Sys2Proof.Machine

/-- A step that goes on. -/
def StepTo (s t : State) : Prop := step s = .next t

/-- The states that steps reach from `s`. -/
inductive Reach (s : State) : State → Prop where
  | refl : Reach s s
  | tail {t u : State} (h : Reach s t) (st : StepTo t u) : Reach s u

/-- A run from `s` that never stops: every state it reaches has a next state. -/
def Safe (s : State) : Prop := ∀ t, Reach s t → ∃ u, StepTo t u

end Sys2Proof.Machine
end

