-- ==== Sys2Proof/Certificates/Slice0/Obligations.lean ====
section
/-! DEFINITION. The statements for the provers. Each says what the numbered rules of the spec say that an instruction, an event or the machine does;
what the model itself chose is said so, with its log entry. The shared vocabulary of the statements stands in the namespace Sys2Proof.Claims. -/

open Sys2Proof Sys2Proof.Machine

/-! ## What changes from one state to another -/

namespace Sys2Proof.Claims

/-- From `s` to `t` nothing has changed but strand `k` of core `c`: every other strand, every core, every byte of memory and all
else is as before. -/
def OnlyStrand (c k : Nat) (s t : State) : Prop :=
  t = { s with strands := t.strands } ∧
  ∀ j, j ≠ 4 * c + k → SMap.get Strand.reset t.strands j = SMap.get Strand.reset s.strands j

/-- From `s` to `t` nothing has changed but core `c` and strand `k` of that core. -/
def OnlyCoreStrand (c k : Nat) (s t : State) : Prop :=
  t = { s with strands := t.strands, cores := t.cores } ∧
  (∀ j, j ≠ 4 * c + k → SMap.get Strand.reset t.strands j = SMap.get Strand.reset s.strands j) ∧
  ∀ j, j ≠ c → SMap.get Core.reset t.cores j = SMap.get Core.reset s.cores j

/-- From `a` to `b` a strand has retired one scalar instruction: x[rd] holds `v` unless rd is x0, every other x register is as
before, the pc is `pc`, instret and event counter 0x01 have counted one instruction (R279), and nothing else has changed. -/
def Retired (pc : Word) (rd : BitVec 5) (v : Word) (a b : Strand) : Prop :=
  (∀ r, b.readX r = if r = rd ∧ rd ≠ 0 then v else a.readX r) ∧
  b = { a with x := b.x, pc := pc, instret := a.instret + 1, events := b.events } ∧
  ∀ e, SMap.get 0 b.events e = SMap.get 0 a.events e + (if e = 1 then 1 else 0)

/-- The step is one scalar instruction of the acting strand, which writes `v` to x[rd] and goes to `pc`. -/
def RetiresTo (i : Instr) (s : State) (pc : Word) (rd : BitVec 5) (v : Word) : Prop :=
  ∃ t, exec i s = .next t ∧ OnlyStrand s.who.1 s.who.2 s t ∧ Retired pc rd v s.cur t.cur

/-- The acting strand takes exception `e` at its own pc: the outcome is the trap of R87 (with its record, or its wait for one, R242,
and the double fault of R100, where those apply). -/
def Raises (i : Instr) (s : State) (e : Exc) : Prop := exec i s = .next (s.takeTrap s.who.1 s.who.2 s.cur.pc e)

/-- The acting strand's instruction retires with `v` in rd, and `s1` is the state apart from that. -/
def Gives (i : Instr) (s : State) (rd : BitVec 5) (v : Word) (s1 : State) : Prop :=
  exec i s = .next (s1.onCur fun t => (t.writeX rd v).retire)

/-- The acting strand's instruction retires without a result, and `s1` is the state apart from that. -/
def Leaves (i : Instr) (s s1 : State) : Prop := exec i s = .next (s1.onCur Strand.retire)

/-- The instruction waits: nothing changes. -/
def Waits (i : Instr) (s : State) : Prop := exec i s = .next s

/-- The vector words of the acting strand have completed. -/
def Drained (s : State) : Prop := s.cur.lq = [] ∧ s.cur.aq = [] ∧ s.cur.sq = [] ∧ s.cur.walks = []

/-- Bits `hi` to `lo` of a word, as a number. -/
def part (v : Word) (hi lo : Nat) : Nat := v.toNat / 2 ^ lo % 2 ^ (hi + 1 - lo)

/-- A field of a word, in bits `hi` to `lo`, is not 0. -/
def nonzero (v : Word) (hi lo : Nat) : Bool := part v hi lo != 0

/-- The memory map places every byte that the sinks of a record have gathered, or it lies in host memory (R152). -/
def SinksMapped (s : State) (r : Rec) : Prop :=
  ∀ x ∈ r.nodes, x.kind = 3 → ∀ g ∈ (s.port x.core x.unit).gather, ∀ a, g.1 = .dev a → (s.place a).isSome = true

/-- Strand `k` of core `c` acts, and nothing has stopped the machine. -/
def Acts (s : State) (c k : Nat) : Prop := s.agent = .strand c k ∧ s.stop = none

end Sys2Proof.Claims

open Sys2Proof.Claims

/-! ## The RISC-V subset -/

namespace Sys2Proof.Claims

/-- A 32-bit result, sign-extended as every W form delivers it. -/
def w32 (v : BitVec 32) : Word := v.signExtend 64

/-- The low 32 bits of a word, and those bits zero-extended. -/
def lo (v : Word) : BitVec 32 := v.setWidth 32
def zx (v : Word) : Word := (v.setWidth 32).setWidth 64

/-- DIV, DIVU, REM and REMU on words of either size (R317). -/
def quotS {w : Nat} (a b : BitVec w) : BitVec w := if b = 0 then BitVec.allOnes w else BitVec.sdiv a b
def quotU {w : Nat} (a b : BitVec w) : BitVec w := if b = 0 then BitVec.allOnes w else a / b
def remS {w : Nat} (a b : BitVec w) : BitVec w := if b = 0 then a else BitVec.srem a b
def remU {w : Nat} (a b : BitVec w) : BitVec w := if b = 0 then a else a % b

/-- Bits set among the low `n`, and zero bits from bit `i` up to the first that is set, at most `n`. -/
def ones (v : Word) : Nat → Nat
  | 0 => 0
  | n + 1 => ones v n + (if v.getLsbD n then 1 else 0)
def zerosUp (v : Word) : Nat → Nat → Nat
  | 0, _ => 0
  | n + 1, i => if v.getLsbD i then 0 else 1 + zerosUp v n (i + 1)
def zerosDown (v : Word) : Nat → Nat
  | 0 => 0
  | n + 1 => if v.getLsbD n then 0 else 1 + zerosDown v n

/-- A byte all ones where it holds a bit. -/
def orcByte (b : BitVec 8) : BitVec 8 := if b = 0 then 0 else 0xFF

/-- Byte `i` of a word. -/
def byteN (v : Word) (i : Nat) : BitVec 8 := v.extractLsb' (8 * i) 8

/-- The result of each register instruction of the subset, from the strand that runs it (R315, R317): its destination and value. -/
def aluResult : Instr → Option (BitVec 5 × (Strand → Word))
  | .lui rd imm => some (rd, fun _ => (imm ++ 0#12).signExtend 64)
  | .auipc rd imm => some (rd, fun t => t.pc + (imm ++ 0#12).signExtend 64)
  | .addi rd a i => some (rd, fun t => t.readX a + i.signExtend 64)
  | .slti rd a i => some (rd, fun t => if (t.readX a).slt (i.signExtend 64) then 1 else 0)
  | .sltiu rd a i => some (rd, fun t => if (t.readX a).ult (i.signExtend 64) then 1 else 0)
  | .xori rd a i => some (rd, fun t => t.readX a ^^^ i.signExtend 64)
  | .ori rd a i => some (rd, fun t => t.readX a ||| i.signExtend 64)
  | .andi rd a i => some (rd, fun t => t.readX a &&& i.signExtend 64)
  | .slli rd a n => some (rd, fun t => t.readX a <<< n.toNat)
  | .srli rd a n => some (rd, fun t => t.readX a >>> n.toNat)
  | .srai rd a n => some (rd, fun t => (t.readX a).sshiftRight n.toNat)
  | .add rd a b => some (rd, fun t => t.readX a + t.readX b)
  | .sub rd a b => some (rd, fun t => t.readX a - t.readX b)
  | .sll rd a b => some (rd, fun t => t.readX a <<< ((t.readX b).toNat % 64))
  | .slt rd a b => some (rd, fun t => if (t.readX a).slt (t.readX b) then 1 else 0)
  | .sltu rd a b => some (rd, fun t => if (t.readX a).ult (t.readX b) then 1 else 0)
  | .xor rd a b => some (rd, fun t => t.readX a ^^^ t.readX b)
  | .srl rd a b => some (rd, fun t => t.readX a >>> ((t.readX b).toNat % 64))
  | .sra rd a b => some (rd, fun t => (t.readX a).sshiftRight ((t.readX b).toNat % 64))
  | .or rd a b => some (rd, fun t => t.readX a ||| t.readX b)
  | .and rd a b => some (rd, fun t => t.readX a &&& t.readX b)
  | .addiw rd a i => some (rd, fun t => w32 (lo (t.readX a) + i.signExtend 32))
  | .slliw rd a n => some (rd, fun t => w32 (lo (t.readX a) <<< n.toNat))
  | .srliw rd a n => some (rd, fun t => w32 (lo (t.readX a) >>> n.toNat))
  | .sraiw rd a n => some (rd, fun t => w32 ((lo (t.readX a)).sshiftRight n.toNat))
  | .addw rd a b => some (rd, fun t => w32 (lo (t.readX a) + lo (t.readX b)))
  | .subw rd a b => some (rd, fun t => w32 (lo (t.readX a) - lo (t.readX b)))
  | .sllw rd a b => some (rd, fun t => w32 (lo (t.readX a) <<< ((t.readX b).toNat % 32)))
  | .srlw rd a b => some (rd, fun t => w32 (lo (t.readX a) >>> ((t.readX b).toNat % 32)))
  | .sraw rd a b => some (rd, fun t => w32 ((lo (t.readX a)).sshiftRight ((t.readX b).toNat % 32)))
  | .mul rd a b => some (rd, fun t => t.readX a * t.readX b)
  | .mulh rd a b => some (rd, fun t => BitVec.ofInt 64 ((t.readX a).toInt * (t.readX b).toInt / 2 ^ 64))
  | .mulhsu rd a b => some (rd, fun t => BitVec.ofInt 64 ((t.readX a).toInt * (t.readX b).toNat / 2 ^ 64))
  | .mulhu rd a b => some (rd, fun t => BitVec.ofNat 64 ((t.readX a).toNat * (t.readX b).toNat / 2 ^ 64))
  | .div rd a b => some (rd, fun t => quotS (t.readX a) (t.readX b))
  | .divu rd a b => some (rd, fun t => quotU (t.readX a) (t.readX b))
  | .rem rd a b => some (rd, fun t => remS (t.readX a) (t.readX b))
  | .remu rd a b => some (rd, fun t => remU (t.readX a) (t.readX b))
  | .mulw rd a b => some (rd, fun t => w32 (lo (t.readX a) * lo (t.readX b)))
  | .divw rd a b => some (rd, fun t => w32 (quotS (lo (t.readX a)) (lo (t.readX b))))
  | .divuw rd a b => some (rd, fun t => w32 (quotU (lo (t.readX a)) (lo (t.readX b))))
  | .remw rd a b => some (rd, fun t => w32 (remS (lo (t.readX a)) (lo (t.readX b))))
  | .remuw rd a b => some (rd, fun t => w32 (remU (lo (t.readX a)) (lo (t.readX b))))
  | .addUw rd a b => some (rd, fun t => zx (t.readX a) + t.readX b)
  | .sh1add rd a b => some (rd, fun t => 2 * t.readX a + t.readX b)
  | .sh2add rd a b => some (rd, fun t => 4 * t.readX a + t.readX b)
  | .sh3add rd a b => some (rd, fun t => 8 * t.readX a + t.readX b)
  | .sh1addUw rd a b => some (rd, fun t => 2 * zx (t.readX a) + t.readX b)
  | .sh2addUw rd a b => some (rd, fun t => 4 * zx (t.readX a) + t.readX b)
  | .sh3addUw rd a b => some (rd, fun t => 8 * zx (t.readX a) + t.readX b)
  | .slliUw rd a n => some (rd, fun t => zx (t.readX a) <<< n.toNat)
  | .andn rd a b => some (rd, fun t => t.readX a &&& ~~~(t.readX b))
  | .orn rd a b => some (rd, fun t => t.readX a ||| ~~~(t.readX b))
  | .xnor rd a b => some (rd, fun t => ~~~(t.readX a ^^^ t.readX b))
  | .clz rd a => some (rd, fun t => BitVec.ofNat 64 (zerosDown (t.readX a) 64))
  | .clzw rd a => some (rd, fun t => BitVec.ofNat 64 (zerosDown (t.readX a) 32))
  | .ctz rd a => some (rd, fun t => BitVec.ofNat 64 (zerosUp (t.readX a) 64 0))
  | .ctzw rd a => some (rd, fun t => BitVec.ofNat 64 (zerosUp (t.readX a) 32 0))
  | .cpop rd a => some (rd, fun t => BitVec.ofNat 64 (ones (t.readX a) 64))
  | .cpopw rd a => some (rd, fun t => BitVec.ofNat 64 (ones (t.readX a) 32))
  | .max rd a b => some (rd, fun t => if (t.readX a).slt (t.readX b) then t.readX b else t.readX a)
  | .maxu rd a b => some (rd, fun t => if (t.readX a).ult (t.readX b) then t.readX b else t.readX a)
  | .min rd a b => some (rd, fun t => if (t.readX a).slt (t.readX b) then t.readX a else t.readX b)
  | .minu rd a b => some (rd, fun t => if (t.readX a).ult (t.readX b) then t.readX a else t.readX b)
  | .sextB rd a => some (rd, fun t => ((t.readX a).extractLsb' 0 8).signExtend 64)
  | .sextH rd a => some (rd, fun t => ((t.readX a).extractLsb' 0 16).signExtend 64)
  | .zextH rd a => some (rd, fun t => ((t.readX a).extractLsb' 0 16).setWidth 64)
  | .rol rd a b => some (rd, fun t => (t.readX a).rotateLeft ((t.readX b).toNat % 64))
  | .rolw rd a b => some (rd, fun t => w32 ((lo (t.readX a)).rotateLeft ((t.readX b).toNat % 32)))
  | .ror rd a b => some (rd, fun t => (t.readX a).rotateRight ((t.readX b).toNat % 64))
  | .rori rd a n => some (rd, fun t => (t.readX a).rotateRight n.toNat)
  | .roriw rd a n => some (rd, fun t => w32 ((lo (t.readX a)).rotateRight n.toNat))
  | .rorw rd a b => some (rd, fun t => w32 ((lo (t.readX a)).rotateRight ((t.readX b).toNat % 32)))
  | .orcB rd a => some (rd, fun t =>
      let b (i : Nat) : BitVec 8 := orcByte (byteN (t.readX a) i)
      b 7 ++ b 6 ++ b 5 ++ b 4 ++ b 3 ++ b 2 ++ b 1 ++ b 0)
  | .rev8 rd a => some (rd, fun t =>
      let b (i : Nat) : BitVec 8 := byteN (t.readX a) i
      b 0 ++ b 1 ++ b 2 ++ b 3 ++ b 4 ++ b 5 ++ b 6 ++ b 7)
  | .czeroEqz rd a b => some (rd, fun t => if t.readX b = 0 then 0 else t.readX a)
  | .czeroNez rd a b => some (rd, fun t => if t.readX b = 0 then t.readX a else 0)
  | _ => none

end Sys2Proof.Claims

/-- Every register instruction of the subset (the I, M, Zba, Zbb and Zicond words with a destination register, LUI and AUIPC) completes
in every state: it writes its result (R315, R317), and nothing else but the pc and the counts of the strand changes. -/
def Obligations.RegisterInstructionResults : Prop :=
  ∀ i rd v, aluResult i = some (rd, v) → ∀ s : State, RetiresTo i s (s.cur.pc + 4) rd (v s.cur)

namespace Sys2Proof.Claims

/-- The target of a jump or a taken branch, its destination register, and whether it is taken (R82). -/
def jumpOf (t : Strand) : Instr → Option (Bool × BitVec 5 × Word)
  | .jal rd i => some (true, rd, t.pc + (i ++ 0#1).signExtend 64)
  | .jalr rd a i => some (true, rd, (t.readX a + i.signExtend 64) &&& ~~~1#64)
  | .beq a b i => some (t.readX a == t.readX b, 0, t.pc + (i ++ 0#1).signExtend 64)
  | .bne a b i => some (t.readX a != t.readX b, 0, t.pc + (i ++ 0#1).signExtend 64)
  | .blt a b i => some ((t.readX a).slt (t.readX b), 0, t.pc + (i ++ 0#1).signExtend 64)
  | .bge a b i => some (!(t.readX a).slt (t.readX b), 0, t.pc + (i ++ 0#1).signExtend 64)
  | .bltu a b i => some ((t.readX a).ult (t.readX b), 0, t.pc + (i ++ 0#1).signExtend 64)
  | .bgeu a b i => some (!(t.readX a).ult (t.readX b), 0, t.pc + (i ++ 0#1).signExtend 64)
  | _ => none

end Sys2Proof.Claims

/-- JAL, JALR and the branches: not taken, the strand goes past the word; taken to a target with bits 1:0 = 0, rd receives the address
after the word and the strand goes there; taken to any other target, the word raises scause 0 with stval the target and writes nothing
(R82). -/
def Obligations.JumpsAndBranches : Prop :=
  ∀ (i : Instr) (s : State) (taken : Bool) (rd : BitVec 5) (target : Word), jumpOf s.cur i = some (taken, rd, target) → s.stop = none →
    (taken = false → RetiresTo i s (s.cur.pc + 4) 0 0) ∧
    (taken = true → target.toNat % 4 = 0 → RetiresTo i s target rd (s.cur.pc + 4)) ∧
    (taken = true → target.toNat % 4 ≠ 0 →
      Raises i s { cause := 0, stval := target, vcause := 0, pages := [] })

/-! ## Loads, stores and atomics -/

namespace Sys2Proof.Claims

/-- A load: its width in bytes, how its value is extended, rd, rs1 and offset (R316). -/
structure LoadForm where
  n : Nat
  ext : Nat → Word
  rd : BitVec 5
  rs1 : BitVec 5
  imm : BitVec 12

/-- The load instructions (R315, R316). -/
def loadOf : Instr → Option LoadForm
  | .lb rd a i => some ⟨1, fun v => (BitVec.ofNat 8 v).signExtend 64, rd, a, i⟩
  | .lh rd a i => some ⟨2, fun v => (BitVec.ofNat 16 v).signExtend 64, rd, a, i⟩
  | .lw rd a i => some ⟨4, fun v => (BitVec.ofNat 32 v).signExtend 64, rd, a, i⟩
  | .ld rd a i => some ⟨8, fun v => BitVec.ofNat 64 v, rd, a, i⟩
  | .lbu rd a i => some ⟨1, fun v => BitVec.ofNat 64 v, rd, a, i⟩
  | .lhu rd a i => some ⟨2, fun v => BitVec.ofNat 64 v, rd, a, i⟩
  | .lwu rd a i => some ⟨4, fun v => BitVec.ofNat 64 v, rd, a, i⟩
  | _ => none

/-- A store: its width in bytes, rs1 and rs2 and offset. -/
def storeOf : Instr → Option (Nat × BitVec 5 × BitVec 5 × BitVec 12)
  | .sb a b i => some (1, a, b, i)
  | .sh a b i => some (2, a, b, i)
  | .sw a b i => some (4, a, b, i)
  | .sd a b i => some (8, a, b, i)
  | _ => none

/-- From `s` to `t` some channels that lent their lanes have taken them back (R153): every entry of the lending table is as before, or
stands in the state in which a channel owns its own lanes, where the channel or its partner lent. -/
def LanesBack (s t : State) : Prop :=
  ∀ ch, SMap.get 0 t.lend ch = SMap.get 0 s.lend ch ∨
    ((SMap.get 0 t.lend ch).extractLsb' 0 8 = 0 ∧
      ((SMap.get 0 s.lend ch).extractLsb' 0 2 = 1 ∨ (SMap.get 0 s.lend (if ch % 2 = 0 then ch + 1 else ch - 1)).extractLsb' 0 2 = 1))

/-- From `s` to `t` a page has been looked up for strand `k` of core `c` (R163): at most the translations that the strand holds and the
lanes of the channels of its page tables have changed. -/
def LookedUp (c k : Nat) (s t : State) : Prop :=
  t = { s with lend := t.lend, strands := t.strands } ∧ LanesBack s t ∧
  (∀ j, j ≠ 4 * c + k → SMap.get Strand.reset t.strands j = SMap.get Strand.reset s.strands j) ∧
  t.strand c k = { s.strand c k with tlb := (t.strand c k).tlb }

/-- The acting strand's access at `va` of `n` bytes is aligned and translates to `p`; `s1` is the state with the translation that the
strand then holds (R163). -/
def Reaches (s : State) (va : Word) (n : Nat) (a : Access) (p : Phys) (s1 : State) : Prop :=
  va.toNat % n = 0 ∧ s.translate s.who.1 s.who.2 va a = (.ok p, s1)

/-- Line `l` brought into a cache of 1,024 lines (R2): where it is full, one of its lines, which the model leaves free at tick `n` (log
11), makes room. -/
def filled (n : Nat) (d : SMap (BitVec 512)) (l : Nat) (v : BitVec 512) : SMap (BitVec 512) :=
  SMap.put (if 1024 ≤ d.length then d.eraseIdx (Config.choice n % d.length) else d) l v

/-- The line of `a` as memory has it. -/
def lineAt (s : State) (a : Nat) : BitVec 512 := BitVec.ofNat 512 (s.numAt (.dev (a / 64 * 64)) 64)

/-- From `s` to `t` memory has changed at most in the `n` bytes from tier address `o` of tier `T`. -/
def BytesOnlyAt (T : Tier) (o n : Nat) (s t : State) : Prop :=
  ∀ T' o', (T' ≠ T ∨ o' < o ∨ o + n ≤ o') → t.tierByte T' o' = s.tierByte T' o'

end Sys2Proof.Claims

/-- A load that is aligned and translates completes with the value of the bytes it reaches, little-endian, extended as its form says:
read at memory, where the core's scalar data cache does not hold the line (it then holds it, R185, in the place of another line where it
is full), or from the line held, unless the core has dropped it by then; host memory is read and not held; a poisoned line reads as 0
with PSN set and the read counted, where the job takes no trap for it (R170). No byte of memory changes, and
of the strand only rd, the pc, the counts and the translation it holds; a read at memory, like the look into the page tables before it,
has a channel that lends its lanes take them back (R153). -/
def Obligations.LoadResults : Prop :=
  ∀ (i : Instr) (f : LoadForm), loadOf i = some f → ∀ (s s1 : State) (c k : Nat) (p : Phys), s.agent = .strand c k →
    Reaches s (s.cur.readX f.rs1 + f.imm.signExtend 64) f.n .load p s1 → s.stop = none →
    LookedUp c k s s1 ∧
    (∀ a, p = .dev a → (s.place a).isSome = true → s.poisonAt p = false →
      (s.core c).dcache.find? (fun e => e.1 = a / 64) = none →
      ∃ t, exec i s = .next t ∧ OnlyCoreStrand c k (s1.touch p) t ∧
        Retired (s.cur.pc + 4) f.rd (f.ext (s.numAt p f.n)) { s.cur with tlb := s1.cur.tlb } t.cur ∧
        t.core c = { s.core c with dcache := filled s.tick (s.core c).dcache (a / 64) (lineAt s a) }) ∧
    (∀ a j l, p = .dev a → (s.place a).isSome = true → s.poisonAt p = false →
      (s.core c).dcache.find? (fun e => e.1 = a / 64) = some (j, l) →
      ∃ t v, exec i s = .next t ∧ Retired (s.cur.pc + 4) f.rd (f.ext v) { s.cur with tlb := s1.cur.tlb } t.cur ∧
        ((v = l.toNat / 2 ^ (8 * (a % 64)) % 2 ^ (8 * f.n) ∧ OnlyStrand c k s1 t) ∨
          (v = s.numAt p f.n ∧ OnlyCoreStrand c k (s1.touch p) t ∧
            t.core c = { s.core c with dcache := (s.core c).dcache.del (a / 64) }))) ∧
    (∀ w g o, p = .host w g o → s.hostDead w g = true ∨
      ∃ t, exec i s = .next t ∧ OnlyStrand c k s1 t ∧
        Retired (s.cur.pc + 4) f.rd (f.ext (s.numAt p f.n)) { s.cur with tlb := s1.cur.tlb } t.cur) ∧
    (s.poisonAt p = true → s.poisonTrap c = false →
      (∀ a, p = .dev a → (s.core c).dcache.find? (fun e => e.1 = a / 64) = none) →
      Gives i s f.rd (f.ext 0) ((s1.touch p).poisonRead c k))

namespace Sys2Proof.Claims

/-- From the cache lines `d` to `e` the `n` bytes from device address `a` have become `bytes`, where a line holds them, and nothing else
has changed. -/
def CacheTook (a n : Nat) (bytes : Nat → BitVec 8) (d e : SMap (BitVec 512)) : Prop :=
  e.map (·.1) = d.map (·.1) ∧
  ∀ (m : Nat) (x y : Nat × BitVec 512), d[m]? = some x → e[m]? = some y → ∀ j, j < 64 →
    y.2.extractLsb' (8 * j) 8 =
      if x.1 = a / 64 ∧ a % 64 ≤ j ∧ j < a % 64 + n then bytes (j - a % 64) else x.2.extractLsb' (8 * j) 8

/-- What other strands and stopped jobs keep of their reservations when the line of `p` is written (R197). -/
def OthersLose (c k : Nat) (p : Phys) (s t : State) : Prop :=
  t.savedResv = (s.savedResv.filter fun r => decide (r.line ≠ p.line)) ∧
  ∀ c' k', 4 * c' + k' ≠ 4 * c + k →
    t.strand c' k' = { s.strand c' k' with
      resv := if (s.strand c' k').resv = some p.line then none else (s.strand c' k').resv }

/-- From `s` to `t` strand `k` of core `c` has written `bytes 0` to `bytes (n-1)` from device address `a`, which lies at tier address `o` of
tier `T`: no other byte of either tier has changed, a channel that lends its lanes has taken them back (R153), other strands and stopped
jobs have lost a reservation of the line (R197), the strand's engine operations may still see each byte as it was (R184, log 5), and beside
that only that strand and the scalar data cache of its core may differ. -/
def WroteBytes (c k a : Nat) (T : Tier) (o n : Nat) (bytes : Nat → BitVec 8) (s t : State) : Prop :=
  (∀ j, j < n → t.tierByte T (o + j) = bytes j) ∧ BytesOnlyAt T o n s t ∧
  t = { s.touch (.dev a) with
    fast := t.fast
    cap := t.cap
    strands := t.strands
    cores := t.cores
    savedResv := t.savedResv } ∧
  OthersLose c k (.dev a) s t ∧
  (∀ c', c' ≠ c → t.core c' = s.core c') ∧ t.core c = { s.core c with dcache := (t.core c).dcache } ∧
  (t.strand c k).stores = ((List.range n).map fun j =>
    { spot := .mem (.dev (a + j)), old := s.tierByte T (o + j), new := bytes j, mask := 0xFF, tick := s.tick }) ++ (s.strand c k).stores

end Sys2Proof.Claims

/-- A store that is aligned and translates to device memory outside poisoned lines completes: byte j of x[rs2] stands at byte j from the
address, and no other byte of either tier changes; a line of the core's scalar data cache that the store hits takes the bytes (R185); of the
strand only the pc, the counts, the translation it holds and what its engine operations may see of its stores change. To a poisoned line the
bytes are dropped and one drop is counted at the die (R169); that a line held in the cache takes them even then is the model's choice (log
102). To a host window the bytes go out to the host, byte by byte, and no byte of device memory changes (R469); an access that the host
link cannot complete is dropped and counted as one to a poisoned line is. -/
def Obligations.StoreResults : Prop :=
  ∀ (i : Instr) (n : Nat) (rs1 rs2 : BitVec 5) (imm : BitVec 12), storeOf i = some (n, rs1, rs2, imm) →
    ∀ (s s1 : State) (c k : Nat) (p : Phys), s.agent = .strand c k →
    Reaches s (s.cur.readX rs1 + imm.signExtend 64) n .store p s1 → s.stop = none →
    let bytes := fun j => (s.cur.readX rs2).extractLsb' (8 * j) 8
    LookedUp c k s s1 ∧
    (∀ a T o, p = .dev a → s.place a = some (T, o) → s.tierPoison T o = false →
      ∃ t, exec i s = .next t ∧ WroteBytes c k a T o n bytes { s with lend := s1.lend } t ∧
        CacheTook a n bytes (s.core c).dcache (t.core c).dcache ∧
        Retired (s.cur.pc + 4) 0 0 { s.cur with tlb := s1.cur.tlb, stores := t.cur.stores } t.cur) ∧
    (∀ a T o, p = .dev a → s.place a = some (T, o) → s.tierPoison T o = true →
      ∃ t, exec i s = .next t ∧
        t = { (s1.touch p).countErr 5 (dieOf c) with strands := t.strands, cores := t.cores, savedResv := t.savedResv } ∧
        OthersLose c k p s t ∧ (∀ c', c' ≠ c → t.core c' = s.core c') ∧ t.core c = { s.core c with dcache := (t.core c).dcache } ∧
        CacheTook a n bytes (s.core c).dcache (t.core c).dcache ∧
        Retired (s.cur.pc + 4) 0 0 { s.cur with tlb := s1.cur.tlb } t.cur) ∧
    ∀ w g o, p = .host w g o →
      ∃ t, exec i s = .next t ∧
        t = { (if s.hostDead w g then s1.countErr 5 (dieOf c) else
            { s1 with out := s.out ++ (List.range n).map fun j => .hostWrite w g (o + j) [bytes j] }) with
          strands := t.strands, cores := t.cores, savedResv := t.savedResv } ∧
        OthersLose c k p s t ∧ (∀ c', t.core c' = s.core c') ∧
        Retired (s.cur.pc + 4) 0 0 { s.cur with tlb := s1.cur.tlb, stores := t.cur.stores } t.cur

namespace Sys2Proof.Claims

/-- A value of 4 or 8 bytes, sign-extended. -/
def sext (n : Nat) (v : Nat) : Word := if n = 4 then (BitVec.ofNat 32 v).signExtend 64 else BitVec.ofNat 64 v

/-- An AMO: its width, what it stores from the old value and its operand, and its fields (R318). The operands are those of its width,
sign-extended. -/
structure AmoForm where
  n : Nat
  f : Word → Word → Word
  rd : BitVec 5
  rs1 : BitVec 5
  rs2 : BitVec 5
  aq : BitVec 1
  rl : BitVec 1

/-- The AMO instructions. -/
def amoOf : Instr → Option AmoForm
  | .amoswapW rd a b q l => some ⟨4, fun _ y => y, rd, a, b, q, l⟩
  | .amoaddW rd a b q l => some ⟨4, fun x y => x + y, rd, a, b, q, l⟩
  | .amoxorW rd a b q l => some ⟨4, fun x y => x ^^^ y, rd, a, b, q, l⟩
  | .amoandW rd a b q l => some ⟨4, fun x y => x &&& y, rd, a, b, q, l⟩
  | .amoorW rd a b q l => some ⟨4, fun x y => x ||| y, rd, a, b, q, l⟩
  | .amominW rd a b q l => some ⟨4, fun x y => if y.slt x then y else x, rd, a, b, q, l⟩
  | .amomaxW rd a b q l => some ⟨4, fun x y => if x.slt y then y else x, rd, a, b, q, l⟩
  | .amominuW rd a b q l => some ⟨4, fun x y => if y.ult x then y else x, rd, a, b, q, l⟩
  | .amomaxuW rd a b q l => some ⟨4, fun x y => if x.ult y then y else x, rd, a, b, q, l⟩
  | .amoswapD rd a b q l => some ⟨8, fun _ y => y, rd, a, b, q, l⟩
  | .amoaddD rd a b q l => some ⟨8, fun x y => x + y, rd, a, b, q, l⟩
  | .amoxorD rd a b q l => some ⟨8, fun x y => x ^^^ y, rd, a, b, q, l⟩
  | .amoandD rd a b q l => some ⟨8, fun x y => x &&& y, rd, a, b, q, l⟩
  | .amoorD rd a b q l => some ⟨8, fun x y => x ||| y, rd, a, b, q, l⟩
  | .amominD rd a b q l => some ⟨8, fun x y => if y.slt x then y else x, rd, a, b, q, l⟩
  | .amomaxD rd a b q l => some ⟨8, fun x y => if x.slt y then y else x, rd, a, b, q, l⟩
  | .amominuD rd a b q l => some ⟨8, fun x y => if y.ult x then y else x, rd, a, b, q, l⟩
  | .amomaxuD rd a b q l => some ⟨8, fun x y => if x.ult y then y else x, rd, a, b, q, l⟩
  | _ => none

/-- LR and SC: the width, rd, rs1, rs2 and the bits aq and rl. -/
def lrOf : Instr → Option (Nat × BitVec 5 × BitVec 5 × BitVec 1 × BitVec 1)
  | .lrW rd a q l => some (4, rd, a, q, l)
  | .lrD rd a q l => some (8, rd, a, q, l)
  | _ => none
def scOf : Instr → Option (Nat × BitVec 5 × BitVec 5 × BitVec 5 × BitVec 1 × BitVec 1)
  | .scW rd a b q l => some (4, rd, a, b, q, l)
  | .scD rd a b q l => some (8, rd, a, b, q, l)
  | _ => none

end Sys2Proof.Claims

namespace Sys2Proof.Claims

/-- A scalar data cache after an access at memory to the line of `a`, which it takes up where it holds that line (R176). -/
def refreshed (s : State) (c a : Nat) : SMap (BitVec 512) :=
  (s.core c).dcache.map fun e => if e.1 = a / 64 then (e.1, lineAt s a) else e

end Sys2Proof.Claims

/-- An AMO that is aligned and translates to device memory outside poisoned lines completes: rd receives the old value at memory,
sign-extended, and the bytes there become those of the function of the old value and x[rs2]; no other byte changes. A line of the core's
scalar data cache that it hits is brought up to date with memory and takes the bytes (R176, R185). With aq or rl the
core's scalar data cache forgets its lines, which is the model's choice (log 103). -/
def Obligations.AmoResults : Prop :=
  ∀ (i : Instr) (m : AmoForm), amoOf i = some m → ∀ (s s1 : State) (c k a : Nat) (T : Tier) (o : Nat), s.agent = .strand c k →
    Reaches s (s.cur.readX m.rs1) m.n .store (.dev a) s1 → s.stop = none → s.place a = some (T, o) → s.tierPoison T o = false →
    let bytes := fun j =>
      (m.f (sext m.n (s.numAt (.dev a) m.n)) (sext m.n ((s.cur.readX m.rs2).toNat % 2 ^ (8 * m.n)))).extractLsb' (8 * j) 8
    LookedUp c k s s1 ∧ ∃ t, exec i s = .next t ∧
      WroteBytes c k a T o m.n bytes { s with lend := s1.lend } t ∧
      (m.aq = 1 ∨ m.rl = 1 → (t.core c).dcache = []) ∧
      (m.aq = 0 → m.rl = 0 → CacheTook a m.n bytes (refreshed s c a) (t.core c).dcache) ∧
      Retired (s.cur.pc + 4) m.rd (sext m.n (s.numAt (.dev a) m.n)) { s.cur with tlb := s1.cur.tlb, stores := t.cur.stores } t.cur

namespace Sys2Proof.Claims

/-- A scalar data cache after an access at memory to the line of `a` and after the
ordering bits of an atomic, with either of which it forgets its lines (the model's choice, log 103). -/
def cacheAfter (s : State) (c a : Nat) (aq rl : BitVec 1) (read : Bool) : SMap (BitVec 512) :=
  if aq = 1 ∨ rl = 1 then []
  else if read then refreshed s c a else (s.core c).dcache

end Sys2Proof.Claims

/-- An LR that is aligned and translates to device memory outside poisoned lines reads at memory and reserves the line; an SC there
writes and gives 0 while the strand's reservation names that line, and otherwise writes nothing and gives 1; either way the reservation
is gone. That aq or rl empties the core's scalar data cache is the model's choice (log 103). -/
def Obligations.ReservedAndConditional : Prop :=
  (∀ i n rd rs1 aq rl, lrOf i = some (n, rd, rs1, aq, rl) → ∀ (s s1 : State) (c k a : Nat), s.agent = .strand c k →
    Reaches s (s.cur.readX rs1) n .load (.dev a) s1 → s.stop = none → (s.place a).isSome = true → s.poisonAt (.dev a) = false →
    LookedUp c k s s1 ∧ ∃ t, exec i s = .next t ∧ OnlyCoreStrand c k (s1.touch (.dev a)) t ∧
      t.core c = { s.core c with dcache := cacheAfter s c a aq rl true } ∧
      Retired (s.cur.pc + 4) rd (sext n (s.numAt (.dev a) n))
        { s.cur with tlb := s1.cur.tlb, resv := some (.dev (a / 64 * 64)) } t.cur) ∧
  (∀ i n rd rs1 rs2 aq rl, scOf i = some (n, rd, rs1, rs2, aq, rl) →
    ∀ (s s1 : State) (c k a : Nat) (T : Tier) (o : Nat), s.agent = .strand c k →
    Reaches s (s.cur.readX rs1) n .store (.dev a) s1 → s.stop = none → s.place a = some (T, o) → s.tierPoison T o = false →
    let bytes := fun j => (s.cur.readX rs2).extractLsb' (8 * j) 8
    LookedUp c k s s1 ∧
    (s.cur.resv = some (.dev (a / 64 * 64)) →
      ∃ t, exec i s = .next t ∧ WroteBytes c k a T o n bytes { s with lend := s1.lend } t ∧
        (aq = 1 ∨ rl = 1 → (t.core c).dcache = []) ∧
        (aq = 0 → rl = 0 → CacheTook a n bytes (s.core c).dcache (t.core c).dcache) ∧
        Retired (s.cur.pc + 4) rd 0 { s.cur with tlb := s1.cur.tlb, resv := none, stores := t.cur.stores } t.cur) ∧
    (s.cur.resv ≠ some (.dev (a / 64 * 64)) →
      ∃ t, exec i s = .next t ∧ OnlyCoreStrand c k s1 t ∧
        t.core c = { s.core c with dcache := cacheAfter s c a aq rl false } ∧
        Retired (s.cur.pc + 4) rd 1 { s.cur with tlb := s1.cur.tlb, resv := none } t.cur))

namespace Sys2Proof.Claims

/-- A scalar load, store or atomic: its width, the address it accesses, and whether it stores (R316, R318). -/
def accessOf (t : Strand) (i : Instr) : Option (Nat × Word × Bool) :=
  match loadOf i, storeOf i, lrOf i, scOf i, amoOf i with
  | some f, _, _, _, _ => some (f.n, t.readX f.rs1 + f.imm.signExtend 64, false)
  | _, some (n, rs1, _, imm), _, _, _ => some (n, t.readX rs1 + imm.signExtend 64, true)
  | _, _, some (n, _, rs1, _, _), _, _ => some (n, t.readX rs1, false)
  | _, _, _, some (n, _, rs1, _, _, _), _ => some (n, t.readX rs1, true)
  | _, _, _, _, some m => some (m.n, t.readX m.rs1, true)
  | _, _, _, _, _ => none

/-- A leaf permits a scalar load or store of a strand (R84, R259): read, or with MXR execute, for a load; write with D for a store; and
U in U mode, and in S mode no U without SUM. -/
def leafAllows (f : Leaf) (t : Strand) (store : Bool) : Bool :=
  (if store then f.w && f.d else f.r || (f.x && t.sstatus.getLsbD 19)) &&
    (if t.priv = .u then f.u else !f.u || t.sstatus.getLsbD 18)

/-- The strand holds no translation of the page of `va`, so that the walk of the page tables decides (R163). -/
def NotHeld (t : Strand) (va : Word) : Prop := ∀ f ∈ t.tlb, ¬ (f.root = t.satp ∧ f.vpn = part va 56 12)

/-- The exception is raised once the page has been looked up. -/
def RaisesLookedUp (i : Instr) (s : State) (c k : Nat) (e : Exc) : Prop :=
  ∃ u, LookedUp c k s u ∧ exec i s = .next (u.takeTrap c k s.cur.pc e)

/-- POISON of the line of `va` (R170). -/
def poisonExc (va : Word) : Exc :=
  { cause := 48, stval := BitVec.ofNat 64 (va.toNat / 64 * 64), vcause := 0x10, pages := [] }

end Sys2Proof.Claims

/-- A misaligned load or LR raises scause 4 and a misaligned store, SC or AMO raises scause 6, with stval the address, before anything
else (R316). A page that the page tables do not hold, or that forbids the access, raises scause 13 for a load or LR and 15 for a store, SC
or AMO; a page that Titania denies raises scause 5 or 7 (R86, R163, R259; that a store through a leaf with D = 0 is a page fault is log 13);
a store in U mode to the step record of a running step raises PROTECTION with detail 1 (R44). An LR, SC or AMO that translates to a host
window raises scause 7 (R316). A load, LR or AMO of a poisoned line raises POISON, with PSN set and the read counted, where the job takes
a trap for it (R170). -/
def Obligations.AccessExceptions : Prop :=
  (∀ i f, loadOf i = some f → ∀ s : State, s.stop = none → (s.cur.readX f.rs1 + f.imm.signExtend 64).toNat % f.n ≠ 0 →
    Raises i s { cause := 4, stval := s.cur.readX f.rs1 + f.imm.signExtend 64, vcause := 0, pages := [] }) ∧
  (∀ i n rs1 rs2 imm, storeOf i = some (n, rs1, rs2, imm) → ∀ s : State, s.stop = none →
    (s.cur.readX rs1 + imm.signExtend 64).toNat % n ≠ 0 →
    Raises i s { cause := 6, stval := s.cur.readX rs1 + imm.signExtend 64, vcause := 0, pages := [] }) ∧
  (∀ i n rd rs1 aq rl, lrOf i = some (n, rd, rs1, aq, rl) → ∀ s : State, s.stop = none → (s.cur.readX rs1).toNat % n ≠ 0 →
    Raises i s { cause := 4, stval := s.cur.readX rs1, vcause := 0, pages := [] }) ∧
  (∀ i n rd rs1 rs2 aq rl, scOf i = some (n, rd, rs1, rs2, aq, rl) → ∀ s : State, s.stop = none → (s.cur.readX rs1).toNat % n ≠ 0 →
    Raises i s { cause := 6, stval := s.cur.readX rs1, vcause := 0, pages := [] }) ∧
  (∀ i m, amoOf i = some m → ∀ s : State, s.stop = none → (s.cur.readX m.rs1).toNat % m.n ≠ 0 →
    Raises i s { cause := 6, stval := s.cur.readX m.rs1, vcause := 0, pages := [] }) ∧
  (∀ (i : Instr) (n : Nat) (va : Word) (store : Bool) (s : State) (c k : Nat), Acts s c k → accessOf s.cur i = some (n, va, store) →
    va.toNat % n = 0 → NotHeld s.cur va →
    (s.walk s.cur.satp va = none →
      RaisesLookedUp i s c k { cause := if store then 15 else 13, stval := va, vcause := 0, pages := [] }) ∧
    ∀ f, s.walk s.cur.satp va = some f →
      (leafAllows f s.cur store = false →
        RaisesLookedUp i s c k { cause := if store then 15 else 13, stval := va, vcause := 0, pages := [] }) ∧
      (∀ m, leafAllows f s.cur store = true → f.page = .dev m → m ∈ s.denied →
        RaisesLookedUp i s c k { cause := if store then 7 else 5, stval := va, vcause := 0, pages := [] }) ∧
      (∀ m e, leafAllows f s.cur store = true → f.page = .dev m → m ∉ s.denied → store = true → s.cur.priv = .u → e ∈ s.cores →
        e.2.record = some (.dev ((4096 * m + part va 11 0) / 64 * 64)) →
        RaisesLookedUp i s c k { cause := 48, stval := va, vcause := BitVec.ofNat 64 (7 + 2 ^ 32), pages := [] })) ∧
  ∀ (i : Instr) (n : Nat) (va : Word) (store : Bool) (s s1 : State) (c k : Nat) (p : Phys), Acts s c k →
    accessOf s.cur i = some (n, va, store) → Reaches s va n (if store then .store else .load) p s1 →
    (∀ w g o, p = .host w g o → (lrOf i).isSome ∨ (scOf i).isSome ∨ (amoOf i).isSome →
      exec i s = .next (s1.takeTrap c k s.cur.pc { cause := 7, stval := va, vcause := 0, pages := [] })) ∧
    (s.poisonAt p = true → s.poisonTrap c = true → (loadOf i).isSome ∨ p.isHost = false → (loadOf i).isSome ∨ (lrOf i).isSome ∨ (amoOf i).isSome →
      (∀ a, (loadOf i).isSome → p = .dev a → (s.core c).dcache.find? (fun e => e.1 = a / 64) = none) →
      exec i s = .next (((s1.touch p).poisonRead c k).takeTrap c k s.cur.pc (poisonExc va)))

/-! ## Control and status registers -/

namespace Sys2Proof.Claims

/-- A Zicsr instruction: its word, rd, CSR number, and what it writes from the old value, none where it writes nothing (R319). -/
def csrOf (t : Strand) : Instr → Option (BitVec 32 × BitVec 5 × Nat × Option (Word → Word))
  | .csrrw rd a r => some (encodeI 0x73 1 rd r a, rd, a.toNat, some fun _ => t.readX r)
  | .csrrs rd a r => some (encodeI 0x73 2 rd r a, rd, a.toNat, if r = 0 then none else some fun v => v ||| t.readX r)
  | .csrrc rd a r => some (encodeI 0x73 3 rd r a, rd, a.toNat, if r = 0 then none else some fun v => v &&& ~~~(t.readX r))
  | .csrrwi rd a r => some (encodeI 0x73 5 rd r a, rd, a.toNat, some fun _ => r.setWidth 64)
  | .csrrsi rd a r => some (encodeI 0x73 6 rd r a, rd, a.toNat, if r = 0 then none else some fun v => v ||| r.setWidth 64)
  | .csrrci rd a r => some (encodeI 0x73 7 rd r a, rd, a.toNat, if r = 0 then none else some fun v => v &&& ~~~(r.setWidth 64))
  | _ => none

/-- The rows of a CSR write alone: the CSR's number and the value. -/
def csrWriteOf : Instr → Option (Nat × Word)
  | .vflagsWrite v => some (0x806, v)
  | .voorvaWrite v => some (0x807, v)
  | .vslipWrite v => some (0x808, v)
  | .vlenWrite v => some (0x804, v)
  | .vstartWrite v => some (0x805, v)
  | .vmodeWrite g v => some (0x800 + g.toNat, v)
  | .vtwinWrite v => some (0x5C5, v)
  | .stimecmpWrite v => some (0x14D, v)
  | .csrWrite a v => some (a.toNat, v)
  | _ => none

/-- What a write of `v` leaves in the strand, for each writable CSR but vtsafe; `none` where a WZ field or a range refuses the value with
ILLEGAL_OPERAND detail 5 (R8, R83, R84, R89, R91, R92, R94, R98, R114 to R119, R319). Every other CSR ignores writes. -/
def csrLeaves (t : Strand) (a : Nat) (v : Word) : Option Strand :=
  let mode (m : Modes) : Option Strand :=
    if nonzero v 63 17 || (12 ≤ (v.extractLsb' 12 4).toNat && (v.extractLsb' 12 4).toNat ≤ 14) || 4 < (v.extractLsb' 8 3).toNat then none
    else some { t with modes := m }
  match a with
  | 0x100 => some { t with sstatus := (t.sstatus &&& ~~~0xC0122#64) ||| (v &&& 0xC0122#64) }
  | 0x104 => some { t with sie := v &&& 0x222#64 }
  | 0x105 => some { t with stvec := if v.getLsbD 1 then v &&& ~~~3#64 else v }
  | 0x106 => some { t with scounteren := v &&& 7#64 }
  | 0x140 => some { t with sscratch := v }
  | 0x141 => some { t with sepc := v &&& ~~~3#64 }
  | 0x142 => some { t with scause := v }
  | 0x143 => some { t with stval := v }
  | 0x144 => some { t with ssip := v.getLsbD 1 }
  | 0x14D => some { t with stimecmp := v }
  | 0x5C0 => if nonzero v 63 48 || nonzero v 19 18 || nonzero v 15 8 then none else some { t with vcause := v }
  | 0x5C5 => if nonzero v 63 1 then none else some (if v.getLsbD 0 then { t with tw := false } else t)
  | 0x800 => mode { t.modes with i := v.setWidth 32 }
  | 0x801 => mode { t.modes with f := v.setWidth 32 }
  | 0x802 => mode { t.modes with m := v.setWidth 32 }
  | 0x803 => mode { t.modes with x := v.setWidth 32 }
  | 0x804 => if 2048 < v.toNat then none else some { t with vl := v.setWidth 12 }
  | 0x805 => if 2047 < v.toNat then none else some { t with vstart := v.setWidth 11 }
  | 0x806 => if nonzero v 63 8 then none else some { t with vflags := v.setWidth 8 }
  | 0x807 => if nonzero v 43 42 then none else some { t with voorva := v }
  | 0x808 => if v.toNat < 1 || 32 < v.toNat then none else some { t with vslip := v.setWidth 6 }
  | _ => some t

/-- An access of the strand to CSR `a` is refused as R83, R94 and R319 say: from U mode to 0x5C0 to 0x5FF with PRIVILEGE; to a CSR that does
not exist, by a write to a read-only number, from U mode to a standard S-mode CSR, or from U mode to a counter that scounteren hides, with
scause 2; stval is the word. -/
def csrDenied (t : Strand) (w : BitVec 32) (a : Nat) (writes present : Bool) : Option Exc :=
  let user : Bool := t.priv == .u
  if user && 0x5C0 ≤ a && a ≤ 0x5FF then some { cause := 48, stval := w.setWidth 64, vcause := 0x15, pages := [] }
  else if !present || (writes && a / 1024 == 3) || (user && a / 256 % 4 == 1) ||
      (user && 0xC00 ≤ a && a ≤ 0xC02 && !t.scounteren.getLsbD (a - 0xC00)) then
    some { cause := 2, stval := w.setWidth 64, vcause := 0, pages := [] }
  else none

/-- ILLEGAL_OPERAND with detail `d` of a word. -/
def illegalOperand (d : Nat) (w : BitVec 32) : Exc :=
  { cause := 48, stval := w.setWidth 64, vcause := BitVec.ofNat 64 (2 + d * 2 ^ 32), pages := [] }

end Sys2Proof.Claims

/-- The six Zicsr instructions on every CSR but vtsafe: a denied access raises its exception; otherwise rd receives the old value, and a
write leaves what the CSR's map says, or raises ILLEGAL_OPERAND detail 5 and changes nothing (R319). A read of time is remembered, so
that later reads never fall below it (R274). The rows of a CSR write alone: a permitted write leaves what the CSR's map says, and nothing
else changes, the pc included; a refused value raises ILLEGAL_OPERAND detail 5 (R8, R119, R319). An access to vflags, voorva or vslip waits
until every older vector word of the strand has completed (R90 to R92). -/
def Obligations.CsrInstructions : Prop :=
  (∀ (i : Instr) (s : State) (c k : Nat) (w : BitVec 32) (rd : BitVec 5) (a : Nat) (f : Option (Word → Word)), s.agent = .strand c k →
     csrOf s.cur i = some (w, rd, a, f) → a ≠ 0x5C4 → s.stop = none →
     (∀ e, csrDenied s.cur w a f.isSome (s.csrValue c k a).isSome = some e → Raises i s e) ∧
     (0x806 ≤ a → a ≤ 0x808 → ¬ Drained s → Waits i s) ∧
     (∀ old, csrDenied s.cur w a f.isSome true = none → s.csrValue c k a = some old → a < 0x806 ∨ 0x808 < a ∨ Drained s →
       let t0 : Strand := if a = 0xC01 then { s.cur with lastTime := s.timeFor c k } else s.cur
       (f = none → ∃ t, exec i s = .next t ∧ OnlyStrand c k s t ∧ Retired (s.cur.pc + 4) rd old t0 t.cur) ∧
       (∀ g t1, f = some g → csrLeaves t0 a (g old) = some t1 →
         ∃ t, exec i s = .next t ∧ OnlyStrand c k s t ∧ Retired (s.cur.pc + 4) rd old t1 t.cur) ∧
       (∀ g, f = some g → a ≠ 0xC01 → csrLeaves t0 a (g old) = none → Raises i s (illegalOperand 5 w)))) ∧
  (∀ (i : Instr) (s : State) (c k : Nat) (a : Nat) (v : Word), s.agent = .strand c k → csrWriteOf i = some (a, v) → a ≠ 0x5C4 →
     s.stop = none → (s.csrValue c k a).isSome = true →
     let waits := 0x806 ≤ a ∧ a ≤ 0x808 ∧ ¬ Drained s
     (waits → Waits i s) ∧
     (¬ waits → csrDenied s.cur (encodeI 0x73 1 0 0 (BitVec.ofNat 12 a)) a true true = none →
     (∀ t1, csrLeaves s.cur a v = some t1 → exec i s = .next (s.setStrand c k t1)) ∧
     (csrLeaves s.cur a v = none → Raises i s (illegalOperand 5 (encodeI 0x73 1 0 0 (BitVec.ofNat 12 a))))))

namespace Sys2Proof.Claims

/-- The range that a write of `v` to vtsafe with V = 1 asks for: its first page's address and its number of pages (R99). -/
def safeBase (v : Word) : Word := BitVec.ofNat 64 (v.toNat / 2 ^ 16 * 2 ^ 16)
def safePages (v : Word) : Nat := v.toNat % 16 + 1

/-- From `s` to `t` a range has been looked up by the walker of die `d` (R163): at most the translations that it holds and the lanes of
the channels of the page tables have changed. -/
def RangeLookedUp (d : Nat) (s t : State) : Prop :=
  t = { s with lend := t.lend, dies := t.dies } ∧ LanesBack s t ∧ (∀ d', d' ≠ d → t.die d' = s.die d') ∧
  t.die d = { s.die d with walker := (t.die d).walker }

/-- The pages of a range in ascending order: page `i` is at `base` + 4096·i. -/
def pageAddr (base : Word) (i : Nat) : Word := base + BitVec.ofNat 64 (4096 * i)

/-- What the walk of `n` pages from `base` finds (R99, R121): the pages, where none is missing and none lacks what is asked; the first
failing page with what it lacks, where that page is forbidden; and all missing pages of the range, at most 16, where the first failing page
is missing. `missing` says which of the leaves found count as missing, and `lacks` what one does not grant. -/
def RangeFinds (s : State) (root base : Word) (n : Nat) (missing : Leaf → Bool) (lacks : Leaf → Option Nat) (r : RangeResult) : Prop :=
  let leaf (i : Nat) : Option Leaf := (s.walk root (pageAddr base i)).filter fun f => !missing f
  let good (i : Nat) : Prop := ∃ f, leaf i = some f ∧ lacks f = none
  ((∀ i, i < n → good i) →
    ∃ ps, r = .ok ps ∧ ps.length = n ∧ ∀ i f, i < n → leaf i = some f → ps[i]? = some f.page) ∧
  ∀ j, j < n → (∀ i, i < j → good i) →
    (∀ f d, leaf j = some f → lacks f = some d → r = .forbidden (pageAddr base j) d) ∧
    (leaf j = none → r = .missing ((((List.range n).filter fun i => (leaf i).isNone).map (pageAddr base)).take 16))

/-- No translation of a page of the range that the walker of die `d` holds differs from what the page tables say (R163). -/
def WalkerFresh (s : State) (d : Nat) (root base : Word) (n : Nat) : Prop :=
  ∀ i, i < n → ∀ f ∈ (s.die d).walker, f.root = root → f.vpn = part (pageAddr base i) 56 12 → s.walk root (pageAddr base i) = some f

/-- What a page of the trap-safe range lacks (R99): 0 for read, 1 for write and 2 for execute, in that order. A leaf with U = 1 gives S mode
read and write only with SUM, and never execute, which is log 14. -/
def safeLacks (sum : Bool) (f : Leaf) : Option Nat :=
  if !(f.r && (!f.u || sum)) then some 0 else if !(f.w && (!f.u || sum)) then some 1 else if !(f.x && !f.u) then some 2 else none

/-- What a page of a probe lacks (R377): 0 for read, or for U in U mode, and 1 for write. -/
def probeLacks (user r w : Bool) (f : Leaf) : Option Nat :=
  if (r && !f.r) || (user && !f.u) then some 0 else if w && !f.w then some 1 else none

end Sys2Proof.Claims

/-- A write of vtsafe from S mode with bits 15:5 zero (R99): with V = 0 the range is unpinned; with V = 1, where every page of the range
is found and grants read, write and execute to S mode, the pages are pinned and vtsafe takes the value, and the pages of a range that was
registered before are unpinned (the model's choice, log 124); where the range fails, the fault is raised and vtsafe keeps its old value. The
walk finds the pages in ascending order, the first failing page where that is forbidden, and all missing pages where the first failing one
is missing (R99); a writable leaf with D = 0 counts as missing (R259, log 13), and a leaf with U = 1 grants S mode read and write only with
SUM, and never execute (log 14). -/
def Obligations.TrapSafeRange : Prop :=
  ∀ (s : State) (c k : Nat) (v : Word), s.agent = .strand c k → s.stop = none → s.cur.priv = .s → nonzero v 15 5 = false →
    (v.getLsbD 4 = false →
      exec (.vtsafeWrite v) s = .next ((s.unpinAll s.cur.vtsafePages).onStrand c k fun t => { t with vtsafe := v, vtsafePages := [] })) ∧
    (v.getLsbD 4 = true →
      let r := State.walkRange (dieOf c) s.cur.satp (fun f => f.d || !f.w) (trapSafeCheck (s.cur.sstatus.getLsbD 18)) (safePages v)
        (safeBase v) s [] []
      RangeLookedUp (dieOf c) s r.2 ∧
      (WalkerFresh s (dieOf c) s.cur.satp (safeBase v) (safePages v) →
        RangeFinds s s.cur.satp (safeBase v) (safePages v) (fun f => f.w && !f.d) (safeLacks (s.cur.sstatus.getLsbD 18)) r.1) ∧
      (∀ ps, r.1 = .ok ps →
        exec (.vtsafeWrite v) s =
          .next (((r.2.pinAll ps).unpinAll s.cur.vtsafePages).onStrand c k fun t => { t with vtsafe := v, vtsafePages := ps })) ∧
      (∀ page d, r.1 = .forbidden page d →
        exec (.vtsafeWrite v) s =
          .next (r.2.raise { cause := 48, stval := page, vcause := BitVec.ofNat 64 (7 + d % 2 ^ 16 * 2 ^ 32), pages := [] })) ∧
      (∀ ps, r.1 = .missing ps →
        exec (.vtsafeWrite v) s = .next (r.2.raise
          { cause := 48, stval := ps.headD 0, vcause := BitVec.ofNat 64 (6 + ps.length % 2 ^ 16 * 2 ^ 32), pages := ps })))

/-! ## Ordering, privilege and traps -/

namespace Sys2Proof.Claims

/-- A vector word accesses memory or tiles in the ordinary domain (R180), or, with `engine`, starts an engine operation (R181). -/
def accessWord (engine : Bool) (w : Instr) : Bool :=
  let opn := opnOf (encode w)
  (0x78 ≤ opn && opn < 0x90 && opn != 0x8D) || (engine && (opn == 0x98 || opn == 0xA2))

/-- An access of strand `k` of core `c` that is older than its fence `f` is not performed: one of a queued vector word, or for a fence of
both domains one of its copies. -/
def stillOlder (s : State) (c k : Nat) (f : Fence) : Bool :=
  ((s.strand c k).lq ++ (s.strand c k).aq ++ (s.strand c k).sq).any (fun q => q.pos < f.pos && accessWord f.engine q.word) ||
    (f.engine && s.copiesBusy c k f.order)

/-- The acting strand goes past a fence (R180, R182, R322), which joins those that it waits for; every one whose older accesses have all
been performed is met at once, drops the core's scalar data cache where it does so, and with `engine` orders the strand's stores before its
engine operations (R184); the others wait in the strand, whose younger words go on meanwhile (log 119). -/
def PassesFence (i : Instr) (s : State) (c k : Nat) (engine inval : Bool) : Prop :=
  let f : Fence := { pc := s.cur.pc, front := s.cur.front, pos := s.cur.vpos, engine := engine, order := (s.core c).copyOrder,
                     inval := inval, clean := true }
  let met := (s.cur.fences ++ [f]).filter fun g => !stillOlder s c k g
  ∃ t, exec i s = .next t ∧ OnlyCoreStrand c k s t ∧
    t.cur = { s.cur.retire with
      fences := (s.cur.fences ++ [f]).filter (stillOlder s c k)
      stores := if met.any (·.engine) then [] else s.cur.stores } ∧
    t.core c = { s.core c with dcache := if met.any (·.inval) then [] else (s.core c).dcache }

end Sys2Proof.Claims

/-- The privileged and ordering instructions complete as R85 says: FENCE is a fence of the strand's ordinary accesses that forgets the scalar data
cache once they are performed, and waits in the strand until then (log 119), and FENCE.I forgets the instruction cache; SRET in S mode restores the pc, the mode and SIE, sets SPIE, clears SPP and TW, and lets the broken slots in service go on; WFI
waits until an interrupt is pending in sip and sie; SFENCE.VMA forgets the strand's scalar translations; ECALL in S mode waits for
Titania. -/
def Obligations.OrderingAndPrivilegedInstructions : Prop :=
  ∀ (s : State) (c k : Nat), s.agent = .strand c k → s.stop = none →
    (∀ rd rs1 imm, PassesFence (.fence rd rs1 imm) s c k false true) ∧
    (∀ rd rs1 imm, exec (.fenceI rd rs1 imm) s = .next ((s.onCore c fun r => { r with icache := [] }).onStrand c k Strand.retire)) ∧
    (s.cur.priv = .s → ∀ rs1, exec (.sfenceVma rs1) s = .next (s.onStrand c k fun t => { t with tlb := [] }.retire)) ∧
    (s.cur.priv = .s → s.sip c k &&& s.cur.sie ≠ 0 → exec .wfi s = .next (s.onStrand c k Strand.retire)) ∧
    (s.cur.priv = .s → s.sip c k &&& s.cur.sie = 0 →
      exec .wfi s = .next (s.onStrand c k fun t => { t with status := .waiting, wait := some .interrupt })) ∧
    (s.cur.priv = .s →
      exec .ecall s = .next { s.onStrand c k fun t => { t with status := .waiting, wait := some .titania } with
        out := s.out ++ [.monitorCall c k] }) ∧
    (s.cur.priv = .s → ∃ t, exec .sret s = .next t ∧ OnlyCoreStrand c k s t ∧
      t.cur = { s.cur with
        pc := s.cur.sepc
        priv := if s.cur.sstatus.getLsbD 8 then .s else .u
        sstatus := t.cur.sstatus
        tw := false
        instret := s.cur.instret + 1
        events := t.cur.events } ∧
      (∀ n, t.cur.sstatus.getLsbD n =
        if n = 1 then s.cur.sstatus.getLsbD 5 else if n = 5 then true else if n = 8 then false else s.cur.sstatus.getLsbD n) ∧
      t.core c = { s.core c with slots := (t.core c).slots } ∧
      ∀ n, (t.slot c n) =
        if (s.slot c n).owner = k ∧ (s.slot c n).sv = true ∧ (s.slot c n).state = .broken then
          { s.slot c n with sv := false, state := .temporal }
        else if (s.slot c n).owner = k ∧ (s.slot c n).away = true then { s.slot c n with away := false }
        else s.slot c n)

/-- The words that raise an exception as their own effect raise it: ECALL in U mode scause 8 and EBREAK scause 3 with stval the pc,
TRAPX SOFTWARE with its code and value, an instruction fetch that fails scause 12 or 1 at the pc or POISON, and a word that is no
instruction scause 2, or ILLEGAL_OP for the device's own opcodes (R85, R86, R170, R305, R332). In U mode SRET, WFI and SFENCE.VMA raise
scause 2 with stval the word (R85). -/
def Obligations.ExceptionWords : Prop :=
  (∀ (s : State) (c k : Nat), s.agent = .strand c k → s.stop = none →
     (s.cur.priv = .u → Raises .ecall s { cause := 8, stval := 0, vcause := 0, pages := [] }) ∧
     Raises .ebreak s { cause := 3, stval := s.cur.pc, vcause := 0, pages := [] } ∧
     (∀ rs1 rs2, Raises (.trapx 0 rs1 rs2) s
       { cause := 48, stval := s.cur.readX rs2, vcause := BitVec.ofNat 64 (0x12 + (s.cur.readX rs1).toNat % 2 ^ 16 * 2 ^ 32), pages := [] }) ∧
     Raises (.instructionFetchFault .page) s { cause := 12, stval := s.cur.pc, vcause := 0, pages := [] } ∧
     Raises (.instructionFetchFault .access) s { cause := 1, stval := s.cur.pc, vcause := 0, pages := [] } ∧
     (∀ line, exec (.instructionFetchFault (.poison line)) s =
       .next ((s.poisonRead c k).raise { cause := 48, stval := BitVec.ofNat 64 line, vcause := 0x10, pages := [] })) ∧
     (∀ w : BitVec 32, Raises (.reservedEncoding w) s
       { cause := if [0x0B#7, 0x2B#7, 0x5B#7, 0x7B#7].contains (w.extractLsb' 0 7) then 48 else 2, stval := w.setWidth 64,
         vcause := if [0x0B#7, 0x2B#7, 0x5B#7, 0x7B#7].contains (w.extractLsb' 0 7) then 1 else 0, pages := [] })) ∧
  (∀ (s : State) (c k : Nat), s.agent = .strand c k → s.stop = none → s.cur.priv = .u →
     Raises .sret s { cause := 2, stval := 0x10200073, vcause := 0, pages := [] } ∧
     Raises .wfi s { cause := 2, stval := 0x10500073, vcause := 0, pages := [] } ∧
     (∀ rs1, Raises (.sfenceVma rs1) s { cause := 2, stval := (encodeR 0x73 0x09 0 0 rs1 0).setWidth 64, vcause := 0, pages := [] }))

namespace Sys2Proof.Claims

/-- From `a` to `b` a strand has entered its trap handler for exception `e` at `pc` (R87): pc and cause saved, SPP and SPIE from the mode
and SIE, SIE cleared, mode S, TW set, the pc at stvec's base, or at base + 4·cause for an interrupt in vectored mode; a wait and a
reservation end. -/
def Entered (pc : Word) (e : Exc) (a b : Strand) : Prop :=
  b = { a with
    sepc := pc &&& ~~~3#64
    scause := e.cause
    stval := e.stval
    vcause := e.vcause
    sstatus := b.sstatus
    priv := .s
    tw := true
    pc := (a.stvec &&& ~~~3#64) +
      if e.cause.getLsbD 63 ∧ a.stvec.extractLsb' 0 2 = 1 then 4 * (e.cause &&& 0x7FFFFFFFFFFFFFFF#64) else 0
    status := .active
    wait := none
    resv := none
    fault := none
    request := none
    kept := false } ∧
  ∀ n, b.sstatus.getLsbD n =
    if n = 8 then decide (a.priv = .s) else if n = 5 then a.sstatus.getLsbD 1 else if n = 1 then false else a.sstatus.getLsbD n

end Sys2Proof.Claims

/-- Taking an exception that needs no fault record, outside the trap window, is the trap entry of R87, and nothing but the strand
changes. -/
def Obligations.TrapEntry : Prop :=
  ∀ (s : State) (c k : Nat) (pc : Word) (e : Exc), (s.strand c k).tw = false →
    (e.cause ≠ 48 ∨ (e.vcause.toNat % 256 ≠ 6 ∧ e.vcause.toNat % 256 ≠ 7 ∧ e.vcause.toNat % 256 ≠ 16 ∧ e.vcause.toNat % 256 ≠ 20)) →
    OnlyStrand c k s (s.takeTrap c k pc e) ∧ Entered pc e (s.strand c k) ((s.takeTrap c k pc e).strand c k)

/-- A fault while TW is 1, with room in the record ring, is the double fault of R100: the shadow registers take the cause that was being
handled, the cause registers the second fault, a DOUBLE_FAULT record stands at vfrec, and the strand is HALTED with its other state kept.
Other strands keep all but a reservation of a line that the record is written to (R197). The record takes the line of its slot, whose poison
is cleared (R169, R242), and its time counts as one that the strand has read (R274). -/
def Obligations.DoubleFault : Prop :=
  ∀ (s : State) (c k : Nat) (pc : Word) (e : Exc), (s.strand c k).tw = true → s.ringRoom (dieOf c) 1 = true →
    (s.strand c k).fault = none →
    let a := s.strand c k
    let b := (s.takeTrap c k pc e).strand c k
    let slot := (Config.ringBase (dieOf c) / 64 + (s.die (dieOf c)).ringW % 4096) * 64
    b = { a with
      vshcause := b.vshcause
      vshaddr := a.sepc
      scause := e.cause
      vcause := e.vcause
      stval := e.stval
      sepc := pc &&& ~~~3#64
      vfrec := BitVec.ofNat 64 slot
      status := .halted
      wait := none
      resv := none
      fault := none
      request := none
      lastTime := s.timeFor c k
      kept := false } ∧
    (s.takeTrap c k pc e).tierByte .fast slot = 0x13 ∧ (s.takeTrap c k pc e).tierPoison .fast slot = false ∧
    (∀ j, j < 8 → (s.takeTrap c k pc e).tierByte .fast (slot + 8 + j) = BitVec.ofNat 8 (s.timeFor c k / 2 ^ (8 * j))) ∧
    b.vshcause.getLsbD 63 = a.scause.getLsbD 63 ∧ b.vshcause.extractLsb' 48 8 = a.vcause.extractLsb' 0 8 ∧
    b.vshcause.extractLsb' 32 16 = a.vcause.extractLsb' 32 16 ∧ b.vshcause.extractLsb' 0 8 = a.scause.extractLsb' 0 8 ∧
    ((s.takeTrap c k pc e).die (dieOf c)).ringW = (s.die (dieOf c)).ringW + 1 ∧
    ((s.takeTrap c k pc e).core c).seq = (s.core c).seq + 1 ∧
    ∀ c' k', 4 * c' + k' ≠ 4 * c + k → (s.takeTrap c k pc e).strand c' k' = s.strand c' k' ∨
      (s.takeTrap c k pc e).strand c' k' = { s.strand c' k' with resv := none }

/-! ## System-space words -/

namespace Sys2Proof.Claims

/-- The context word waits, and its strand takes no interrupt meanwhile (R328). -/
def ContextWaits (i : Instr) (s : State) : Prop :=
  exec i s = .next (s.onCur fun t => { t with request := some { pc := t.pc, words := [], place := .dev 0 } })

/-- The context word completes, and `s1` is the state apart from that. -/
def ContextEnds (i : Instr) (s s1 : State) : Prop := exec i s = .next (s1.onCur fun t => { t.retire with request := none })

/-- An exception of the device with its code, detail and stval (R94, R95). -/
def deviceFault (code detail : Nat) (stval : Word) : Exc :=
  { cause := 48, stval := stval, vcause := BitVec.ofNat 64 (code + detail % 2 ^ 16 * 2 ^ 32), pages := [] }

/-- The words of the system space. -/
def systemWord : Instr → Bool
  | .setmode .. | .getmode .. | .setvl .. | .setvstart .. | .probe .. | .punpin .. | .pstat .. | .talloc .. | .tfree ..
  | .tstate .. | .tsetst .. | .tgen .. | .rowopen .. | .rowrel .. | .rowstat .. | .acopy .. | .await .. | .acancel .. | .astat ..
  | .chcfg .. | .chrel .. | .run .. | .chwait .. | .chstat .. | .chbar .. | .chresp .. | .chbrk .. | .sbind .. | .sunbind ..
  | .fenceo .. | .fencee .. | .fencex .. | .hintnext .. | .waitvis .. | .enq .. | .deq .. | .enqc .. | .ctxsv .. | .ctxld ..
  | .evrd .. | .tsnow .. | .strstart .. | .stepend .. | .trapx .. | .rlimset .. => true
  | _ => false

end Sys2Proof.Claims

/-- A system-space word with a field outside its class raises ILLEGAL_OPERAND, with detail the first such field in the order rd, rs1,
rs2 and stval the word, before anything else (R305). -/
def Obligations.SystemWordFields : Prop :=
  ∀ (i : Instr) (s : State) (c k n : Nat), Acts s c k → systemWord i = true → badField i.fields 0 = some n → Raises i s (illegalOperand n (encode i))

namespace Sys2Proof.Claims

/-- The code of a handle's state (R379). -/
def stateCode : HState → Nat
  | .empty => 0
  | .filling => 1
  | .full => 2
  | .draining => 3

/-- What the system words that only read give: rd and its value; `none` where the word raises an exception instead. -/
def systemRead (s : State) (c k : Nat) : Instr → Option (BitVec 5 × Word)
  | .getmode rd _ g =>
    let m := (s.strand c k).modes
    some (rd, ([m.i, m.f, m.m, m.x].getD g.toNat 0).setWidth 64)
  | .pstat rd p _ =>
    let x := (s.strand c k).probe p.toNat
    some (rd, BitVec.ofBool x.live ++ BitVec.ofBool x.w ++ BitVec.ofBool x.r ++ 0#29 ++ x.lenm1)
  | .tstate rd h _ =>
    let v := (s.strand c k).readX h
    if s.handleOk c v then
      some (rd, BitVec.ofNat 64 (stateCode (s.tile c (part v 19 8)).state))
    else none
  | .tgen rd h _ =>
    let v := (s.strand c k).readX h
    let n := part v 19 8
    let t := s.tile c n
    some (rd, if t.allocated && t.job == (s.core c).jobid then t.shape n (s.handleOk c v) else 0)
  | .rowstat rd h _ =>
    let v := (s.strand c k).readX h
    let i := part v 2 0
    some (rd, if (s.strand c k).rowOk v then
        BitVec.ofNat 64 (2 ^ 63 + s.rowBreaks ((s.strand c k).row i) * 2 ^ 32 + (s.rowsOf (s.core c).jobid).length * 2 ^ 16 + 8 + i)
      else 0)
  | .astat rd r _ =>
    let n := ((s.strand c k).readX r).toNat
    let x := s.copy c n
    if 31 < n then none
    else some (rd, ({ x with status := if x.state = .done then x.status else 0 } : Copy).payload n +
      (match x.state with | .free => 0 | .waiting => 32 | .active => 64 | .suspended => 96 | .done => 128))
  | .chstat rd sl r =>
    let y := s.slot c sl.toNat
    let v := (s.strand c k).readX r
    if nonzero v 63 16 || 4 < part v 15 12 then none
    else if y.state = .free then some (rd, 0)
    else (y.item v).map fun w => (rd, w)
  | .evrd rd r _ =>
    let n := ((s.strand c k).readX r).toNat
    some (rd, if n ≤ 0x0B then SMap.get 0 (s.strand c k).events n
      else if 0x10 ≤ n ∧ n ≤ 0x15 then SMap.get 0 (s.core c).events n else 0)
  | _ => none

end Sys2Proof.Claims

/-- GETMODE, PSTAT, TSTATE, TGEN, ROWSTAT, ASTAT, CHSTAT and EVRD complete with the value that their entries give (R321, R379, R381,
R385, R409, R279), and change nothing but rd and what every scalar instruction counts. TSNOW gives the strand's time and remembers it
(R274, R329). What these words raise instead: TSTATE HANDLE_STALE for a handle that is not current, ASTAT ILLEGAL_OPERAND for an entry
above 31, and CHSTAT for a selector with an undefined bit or one that names nothing. -/
def Obligations.SystemReads : Prop :=
  (∀ (i : Instr) (s : State) (c k : Nat) (rd : BitVec 5) (v : Word), Acts s c k → i.WellFormed → systemRead s c k i = some (rd, v) →
     RetiresTo i s (s.cur.pc + 4) rd v) ∧
  (∀ (s : State) (c k : Nat), Acts s c k → ∀ (rd a b : BitVec 5),
     Gives (.tsnow rd 0 0) s rd (BitVec.ofNat 64 (max s.cur.lastTime (s.dieTime (dieOf c))))
       (s.onCur fun t => { t with lastTime := max t.lastTime (s.dieTime (dieOf c)) }) ∧
     (s.handleOk c (s.cur.readX a) = false →
       Raises (.tstate rd a 0) s (deviceFault 8 (part (s.cur.readX a) 19 8) (s.cur.readX a))) ∧
     (31 < (s.cur.readX a).toNat → Raises (.astat rd a 0) s (illegalOperand 1 (encode (.astat rd a 0)))) ∧
     (a.toNat < 4 → nonzero (s.cur.readX b) 63 16 ∨ 4 < part (s.cur.readX b) 15 12 ∨
         ((s.slot c a.toNat).state ≠ .free ∧ (s.slot c a.toNat).item (s.cur.readX b) = none) →
       Raises (.chstat rd a b) s (illegalOperand 2 (encode (.chstat rd a b)))))

namespace Sys2Proof.Claims

/-- A strand with one of its mode registers replaced. -/
def withMode (t : Strand) (g : Nat) (v : BitVec 32) : Strand :=
  match g with
  | 0 => { t with modes := { t.modes with i := v } }
  | 1 => { t with modes := { t.modes with f := v } }
  | 2 => { t with modes := { t.modes with m := v } }
  | _ => { t with modes := { t.modes with x := v } }

/-- The element type that a mode register names, and the elements that a vector register holds of it. -/
def lanesOf (t : Strand) (g : Nat) : Nat :=
  8192 / width ((([t.modes.i, t.modes.f, t.modes.m, t.modes.x].getD g 0)).extractLsb' 0 4)

end Sys2Proof.Claims

/-- SETMODE, SETVL and SETVSTART (R321): SETMODE writes a mode register, or raises ILLEGAL_OPERAND with detail 4 for a guard of 12 to
14, an rnd of 5 to 7 or a reserved bit; SETVL sets vl to the least of x[rs1] and the group's VLMAX and gives it in rd; SETVSTART writes
vstart, or raises ILLEGAL_OPERAND with detail 1 for a value above 2047. Nothing else changes. -/
def Obligations.ModeAndLengthWords : Prop :=
  ∀ (s : State) (c k : Nat), Acts s c k → ∀ (rd a g : BitVec 5),
    let v := s.cur.readX a
    let refused : Bool := nonzero v 63 17 || (12 ≤ part v 15 12 && part v 15 12 ≤ 14) || 4 < part v 10 8
    (g.toNat < 4 → refused = false → Leaves (.setmode 0 a g) s (s.onCur fun t => withMode t g.toNat (v.setWidth 32))) ∧
    (g.toNat < 4 → refused = true → Raises (.setmode 0 a g) s (illegalOperand 4 (encode (.setmode 0 a g)))) ∧
    (g.toNat < 4 → Gives (.setvl rd a g) s rd (BitVec.ofNat 64 (min v.toNat (lanesOf s.cur g.toNat)))
      (s.onCur fun t => { t with vl := BitVec.ofNat 12 (min v.toNat (lanesOf s.cur g.toNat)) })) ∧
    (v.toNat ≤ 2047 → Leaves (.setvstart 0 a 0) s (s.onCur fun t => { t with vstart := v.setWidth 11 })) ∧
    (2047 < v.toNat → Raises (.setvstart 0 a 0) s (illegalOperand 1 (encode (.setvstart 0 a 0))))

namespace Sys2Proof.Claims

/-- No older vector word of the acting strand that `names` picks out is still under way: queued, or its walk not at its end. -/
def Clear (s : State) (names : Queued → Bool) : Prop :=
  (∀ q ∈ s.cur.lq ++ s.cur.aq ++ s.cur.sq, names q = false) ∧ s.cur.walks = []

/-- A range of canonical Sv57 addresses in one half. -/
def oneHalf (base : Word) (len : Nat) : Prop :=
  let last := base.toNat + len - 1
  last < 2 ^ 64 ∧ (part base 63 56 = 0 ∨ part base 63 56 = 0xFF) ∧ last / 2 ^ 56 = part base 63 56

end Sys2Proof.Claims

/-- PROBE and PUNPIN (R121, R377): a malformed size word or a range that is not canonical raises ILLEGAL_OPERAND; otherwise the range is
walked, and the probe register is live with its pages pinned, or raises PROTECTION or PAGE_FAULT and is not live. PUNPIN ends a probe,
once no run of the strand names it; pins move from the old range to the new. Both wait for the older vector words that name the
register. The walk finds the pages in ascending order, the first failing page where that is forbidden, and all missing pages where the first
failing one is missing; where write is asked for, a writable leaf with D = 0 counts as missing (R259, log 13). -/
def Obligations.ProbeWords : Prop :=
  ∀ (s : State) (c k : Nat), Acts s c k → ∀ (p a b : BitVec 5), p.toNat < 8 →
    let base := s.cur.readX a
    let v := s.cur.readX b
    let malformed : Bool := v.getLsbD 63 || nonzero v 60 32 || (!v.getLsbD 62 && !v.getLsbD 61)
    let x (live : Bool) (ps : List PPage) : Probe :=
      { base := base, live := live, w := v.getLsbD 62, r := v.getLsbD 61, lenm1 := v.setWidth 32, pages := ps }
    let first : Word := BitVec.ofNat 64 (base.toNat / 4096 * 4096)
    let n := (base.toNat + part v 31 0) / 4096 - base.toNat / 4096 + 1
    let r := State.walkRange (dieOf c) s.cur.satp (fun f => f.d || !f.w || !v.getLsbD 62)
      (probeCheck (s.cur.priv = .u) (v.getLsbD 61) (v.getLsbD 62)) n first s [] []
    RangeLookedUp (dieOf c) s r.2 ∧
    (WalkerFresh s (dieOf c) s.cur.satp first n →
      RangeFinds s s.cur.satp first n (fun f => v.getLsbD 62 && f.w && !f.d) (probeLacks (s.cur.priv = .u) (v.getLsbD 61) (v.getLsbD 62)) r.1) ∧
    (malformed = true → Raises (.probe p a b) s (illegalOperand 2 (encode (.probe p a b)))) ∧
    (malformed = false → ¬ oneHalf base (part v 31 0 + 1) → Raises (.probe p a b) s (illegalOperand 1 (encode (.probe p a b)))) ∧
    (malformed = false → oneHalf base (part v 31 0 + 1) → ¬ Clear s (·.names .p p.toNat) → Waits (.probe p a b) s) ∧
    (malformed = false → oneHalf base (part v 31 0 + 1) → Clear s (·.names .p p.toNat) →
      (∀ ps, r.1 = .ok ps → Leaves (.probe p a b) s (r.2.setProbe c k p.toNat (x true ps))) ∧
      (∀ page d, r.1 = .forbidden page d →
        exec (.probe p a b) s = .next ((r.2.setProbe c k p.toNat (x false [])).raise (deviceFault 7 d page))) ∧
      (∀ ps, r.1 = .missing ps → exec (.probe p a b) s =
        .next ((r.2.setProbe c k p.toNat (x false [])).raise { deviceFault 6 ps.length (ps.headD 0) with pages := ps }))) ∧
    (((s.core c).slots.any fun e => e.2.owner = k && !e.2.quiet && s.namesProbe e.2.rec_ p.toNat) = true ∨ ¬ Clear s (·.names .p p.toNat) →
      Waits (.punpin p 0 0) s) ∧
    (((s.core c).slots.any fun e => e.2.owner = k && !e.2.quiet && s.namesProbe e.2.rec_ p.toNat) = false → Clear s (·.names .p p.toNat) →
      Leaves (.punpin p 0 0) s (s.setProbe c k p.toNat { s.cur.probe p.toNat with live := false, pages := [] }))

namespace Sys2Proof.Claims

/-- A spot lies in the lines of tile `t` of slot `n`, as core `c` reaches it. -/
def InTile (c n : Nat) (t : Tile) (p : Spot) : Prop :=
  ∃ b, p = .tile (if n < 2048 then c else 256 + dieOf c) b ∧ 64 * t.base ≤ b ∧ b < 64 * (t.base + t.lines)

end Sys2Proof.Claims

/-- TALLOC, TFREE and TSETST (R132, R134, R379, R380): TALLOC gives the handle of the tile that it allocates, or 0; TFREE and TSETST
raise HANDLE_STALE for a handle that is not current and HANDLE_STATE while the tile is FILLING or DRAINING, wait for the older vector
words that name the handle, and then free the slot, its generation raised, or put the tile into the state asked for;
that TSETST looks at its operand before the state is the model's reading (log 27); TSETST to FULL orders the strand's own older stores to the
tile before its later engine operations (R139, R183). TALLOC takes a slot that was free and not retired, never slot 0, and a
run of lines of the level that meets no allocated run; the tile is EMPTY, with the shape asked for and the slot's generation, belongs to the
core's job, and every line of it reads as zero and holds no poison; or it gives 0 and changes nothing (R127, R130, R132, R379). It succeeds
wherever the level has such a slot and such a run. -/
def Obligations.TileWords : Prop :=
  (∀ (s : State) (c k : Nat), Acts s c k → ∀ (rd a b : BitVec 5),
     let h := s.cur.readX a
     let n := part h 19 8
     let t := s.tile c n
     let v := s.cur.readX b
     (nonzero h 63 36 ∨ 4 < part h 34 32 → Raises (.talloc rd a 0) s (illegalOperand 1 (encode (.talloc rd a 0)))) ∧
     (nonzero h 63 36 = false → part h 34 32 ≤ 4 → Gives (.talloc rd a 0) s rd (s.talloc c h).1 (s.talloc c h).2) ∧
     (s.handleOk c h = false → Raises (.tfree 0 a 0) s (deviceFault 8 n h) ∧ Raises (.tsetst 0 a b) s (deviceFault 8 n h)) ∧
     (s.handleOk c h = true → t.state = .filling ∨ t.state = .draining →
       Raises (.tfree 0 a 0) s (deviceFault 9 (stateCode t.state) h)) ∧
     (s.handleOk c h = true → t.state = .empty ∨ t.state = .full → ¬ Clear s (·.namesHandle h) → Waits (.tfree 0 a 0) s) ∧
     (s.handleOk c h = true → t.state = .empty ∨ t.state = .full → Clear s (·.namesHandle h) →
       Leaves (.tfree 0 a 0) s (s.setTile c n { t with
         allocated := false
         state := .empty
         gen := t.gen + 1
         drains := 0
         job := if t.gen = 0xFE then t.job else 0 })) ∧
     (s.handleOk c h = true → v ≠ 0 → v ≠ 2 → Raises (.tsetst 0 a b) s (illegalOperand 2 (encode (.tsetst 0 a b)))) ∧
     (s.handleOk c h = true → v = 0 ∨ v = 2 → t.state = .filling ∨ t.state = .draining →
       Raises (.tsetst 0 a b) s (deviceFault 9 (stateCode t.state) h)) ∧
     (s.handleOk c h = true → v = 0 ∨ v = 2 → t.state = .empty ∨ t.state = .full → ¬ Clear s (·.namesHandle h) →
       Waits (.tsetst 0 a b) s) ∧
     (s.handleOk c h = true → v = 0 ∨ v = 2 → t.state = .empty ∨ t.state = .full → Clear s (·.namesHandle h) →
       ∃ u, Leaves (.tsetst 0 a b) s u ∧
         (v = 0 → u = s.setTile c n { t with state := .empty }) ∧
         (v = 2 → u = (s.setTile c n { t with state := .full }).onStrand c k (fun x => { x with stores := u.cur.stores }) ∧
           ∀ y, y ∈ u.cur.stores ↔ y ∈ s.cur.stores ∧ ¬ InTile c n t y.spot))) ∧
  (∀ (s : State) (c : Nat) (v : Word),
     let h := (s.talloc c v).1
     let n := part h 19 8
     let t := (s.talloc c v).2.tile c n
     let level := v.getLsbD 35
     let slotFree (m : Nat) : Prop := 0 < m ∧ m < 4096 ∧ (2048 ≤ m ↔ level = true) ∧ (s.tile c m).isFree = true
     let size := ((v.extractLsb' 0 16).toNat + 1) * ((v.extractLsb' 16 16).toNat + 1) * (4 * 2 ^ (v.extractLsb' 32 3).toNat)
     let runFree (b : Nat) : Prop := b + (size + 511) / 512 ≤ (if level then 1040384 else 23808) ∧
       ∀ r ∈ s.levelRuns level c, b + (size + 511) / 512 ≤ r.1 ∨ r.1 + r.2 ≤ b
     (((∃ m, slotFree m) ∧ ∃ b, runFree b) ↔ h ≠ 0) ∧
     (h ≠ 0 → ∀ l, t.base ≤ l → l < t.base + t.lines →
       (s.talloc c v).2.line c n l = 0 ∧ (s.talloc c v).2.linePoison c n l = false) ∧
     ((h = 0 ∧ (s.talloc c v).2 = s) ∨
     (0 < n ∧ (2048 ≤ n ↔ v.getLsbD 35 = true) ∧ (s.tile c n).isFree = true ∧ h = BitVec.ofNat 64 (n * 256 + (s.tile c n).gen.toNat) ∧
       t.allocated = true ∧ t.state = .empty ∧ t.gen = (s.tile c n).gen ∧ t.wc = v.extractLsb' 32 3 ∧ t.res = 0 ∧ t.drains = 0 ∧
       t.rowsm1 = v.extractLsb' 0 16 ∧ t.colsm1 = v.extractLsb' 16 16 ∧ t.job = (s.core c).jobid ∧
       t.base + t.lines ≤ (if v.getLsbD 35 then 1040384 else 23808) ∧
       ∀ r ∈ s.levelRuns (v.getLsbD 35) c, t.base + t.lines ≤ r.1 ∨ r.1 + r.2 ≤ t.base)))

namespace Sys2Proof.Claims

/-- The job of core `c` holds row `b` in one of its strands' entries. -/
def JobHolds (s : State) (c b : Nat) : Prop := b ∈ s.rowsOf (s.core c).jobid

end Sys2Proof.Claims

namespace Sys2Proof.Claims

/-- ROWOPEN of row `b`, at device address `phys`, which strand `k` of core `c` may take (R157, R158). A row that the strand holds gives the
same handle. Otherwise the strand needs an entry that is neither held nor retired, and the job, where it does not hold the row yet, room in
its quota, or ROW_QUOTA is raised. A row that some strand holds already, or whose bank has a free one of its four row slots, is then taken: the
lowest free entry holds it with a raised epoch, its handle is given, and no other entry changes; a row that takes a slot takes the lowest. With
no free slot ROWOPEN gives 0 and changes nothing. -/
def RowOpens (i : Instr) (s : State) (c k : Nat) (rd : BitVec 5) (va block : Word) (w : Bool) (phys b : Nat) : Prop :=
  let t := s.strand c k
  let quota := ((s.jobOf c).map (·.quota)).getD 0
  let count := (s.rowsOf (s.core c).jobid).length
  let mine (e : Nat) : Prop := (t.row e).held = true ∧ s.rowOf (.dev (t.row e).phys) = some b
  let free (e : Nat) : Prop := (t.row e).held = false ∧ (t.row e).retired = false
  let full (n : Nat) : Prop := (SMap.get RowSlot.reset s.rowSlots (4 * (b % 8192) + n)).block ≠ none
  (∀ e, e < 8 → mine e → (∀ e', e' < e → ¬ mine e') → Gives i s rd (BitVec.ofNat 64 ((t.row e).epoch.toNat * 256 + 8 + e)) s) ∧
  ((∀ e, e < 8 → ¬ mine e) →
    ((∀ e, e < 8 → ¬ free e) → Raises i s (deviceFault 0x0B quota va)) ∧
    ∀ e, e < 8 → free e → (∀ e', e' < e → ¬ free e') →
      let epoch := (t.row e).epoch + 1
      let handle := BitVec.ofNat 64 (epoch.toNat * 256 + 8 + e)
      let row : HeldRow := { held := true, epoch := epoch, retired := epoch = BitVec.allOnes 56, vaddr := block, w := w, phys := phys, known := true }
      let takes (u : State) : State := u.onStrand c k fun t => { t with rows := t.rows.put e row }
      (¬ JobHolds s c b → quota ≤ count → Raises i s (deviceFault 0x0B quota va)) ∧
      (JobHolds s c b ∨ (count < quota ∧ b ∈ s.rowsAll) → Gives i s rd handle (takes s)) ∧
      (¬ JobHolds s c b → count < quota → b ∉ s.rowsAll →
        ((∀ n, n < 4 → full n) → Gives i s rd 0 s) ∧
        ∀ n, n < 4 → ¬ full n → (∀ n', n' < n → full n') →
          Gives i s rd handle (takes { s with rowSlots := s.rowSlots.put (4 * (b % 8192) + n) { block := some b, breaks := 0 } })))

end Sys2Proof.Claims

/-- ROWOPEN and ROWREL (R157, R158, R381): a row outside the probe or without its read permission raises the probe's fault; an address
in no fast-tier row gives 0; a row of a channel that lends its lanes is waited for; otherwise ROWOPEN gives the handle of the row, which it
takes where the strand does not hold it, 0 where no slot of its bank is free, or raises ROW_QUOTA. ROWREL of a handle that is not current
does nothing, and otherwise lets the row go once the older vector words that name it have completed: the entry holds no row, and the row's
slot is free again where no strand holds the row any more. -/
def Obligations.RowWords : Prop :=
  (∀ (s : State) (c k : Nat), Acts s c k → ∀ (rd a p : BitVec 5), p.toNat < 8 →
     let va := s.cur.readX a
     let block : Word := BitVec.ofNat 64 (va.toNat / 1024 * 1024)
     let x := s.cur.probe p.toNat
     (∀ e, probeFault x p.toNat (encode (.rowopen rd a p)) block 1024 true false = some e → Raises (.rowopen rd a p) s e) ∧
     (probeFault x p.toNat (encode (.rowopen rd a p)) block 1024 true false = none → ∀ m,
       x.phys block = .dev m → (s.place m).isSome = true →
       (s.rowOf (.dev m) = none → Gives (.rowopen rd a p) s rd 0 s) ∧
       (∀ b, s.rowOf (.dev m) = some b → (SMap.get 0 s.lend (chanOf b)).getLsbD 0 = true → Waits (.rowopen rd a p) s) ∧
       (∀ b, s.rowOf (.dev m) = some b → (SMap.get 0 s.lend (chanOf b)).getLsbD 0 = false →
         RowOpens (.rowopen rd a p) s c k rd va block x.w m b)) ∧
     (probeFault x p.toNat (encode (.rowopen rd a p)) block 1024 true false = none → (x.phys block).isHost = true →
       Gives (.rowopen rd a p) s rd 0 s) ∧
     (s.cur.rowOk va = false → Leaves (.rowrel 0 a 0) s s) ∧
     (s.cur.rowOk va = true → ¬ Clear s (·.namesHandle va) → Waits (.rowrel 0 a 0) s) ∧
     (s.cur.rowOk va = true → Clear s (·.namesHandle va) → Leaves (.rowrel 0 a 0) s (s.releaseRow c k (part va 2 0)))) ∧
  ∀ (s : State) (c k i : Nat),
    let r := (s.strand c k).row i
    let u := s.releaseRow c k i
    u = { s with strands := u.strands, rowSlots := u.rowSlots } ∧
    (∀ j, j ≠ 4 * c + k → SMap.get Strand.reset u.strands j = SMap.get Strand.reset s.strands j) ∧
    u.strand c k = { s.strand c k with rows := (u.strand c k).rows } ∧ (u.strand c k).row i = { r with held := false } ∧
    (∀ i', i' ≠ i → (u.strand c k).row i' = (s.strand c k).row i') ∧
    (s.rowOf (.dev r.phys) = none → u.rowSlots = s.rowSlots) ∧
    ∀ b, s.rowOf (.dev r.phys) = some b →
      (b ∈ u.rowsAll → u.rowSlots = s.rowSlots) ∧
      ∀ n, b ∉ u.rowsAll → n < 4 → (s.rowSlot (b % 8192) n).block = some b → (∀ n', n' < n → (s.rowSlot (b % 8192) n').block ≠ some b) →
        u.rowSlots = s.rowSlots.del (4 * (b % 8192) + n)

/-! ## Copies, chains and stream ports: the words of a strand -/

namespace Sys2Proof.Claims

/-- The strand does not wait at its pc with words that it has read (R325, R383). -/
def Fresh (t : Strand) : Prop := ∀ r, t.request = some r → r.pc ≠ t.pc

/-- Step 8 of R383 for command `x`, from `t`: without a FREE entry the strand waits with what it has read; otherwise rd receives the
lowest FREE entry's number and the entry holds the command, WAITING, or DONE at once for a copy of no bytes that asks for no token. -/
def TakesEntry (i : Instr) (s t : State) (c k : Nat) (rd : BitVec 5) (x : Copy) : Prop :=
  ((∀ n, n < 32 → (t.copy c n).state ≠ .free) →
    exec i s = .next (t.onStrand c k fun y => { y with request := some { pc := y.pc, words := x.cmd, place := .dev 0 } })) ∧
  ∀ n, n < 32 → (t.copy c n).state = .free → (∀ m, m < n → (t.copy c m).state ≠ .free) →
    ∃ u : State, exec i s = .next (scalar rd (BitVec.ofNat 64 n) u) ∧
      u.fast = t.fast ∧ u.cap = t.cap ∧ u.strands = t.strands ∧ (u.core c).copyOrder = (t.core c).copyOrder + 1 ∧
      (u.copy c n).cmd = x.cmd ∧ (u.copy c n).strand = k ∧ (u.copy c n).order = (t.core c).copyOrder ∧
      (u.copy c n).after = s.cur.fenceE ∧
      (0 < x.n → (u.copy c n).state = .waiting ∧ (u.copy c n).offset = 0) ∧
      (x.n = 0 → x.wantsToken = false → (u.copy c n).state = .done)

end Sys2Proof.Claims

namespace Sys2Proof.Claims

/-- An older queued store of the strand reaches some of the `n` doublewords from `va` that a word reads as scalar loads, so that the word
waits for it (R24). -/
def StoreBefore (s : State) (c k : Nat) (va : Word) (n : Nat) : Prop := s.storeQueued c k (s.wordSpan c k va n) = true

/-- The first check of a list that fails gives its exception. -/
def firstOf (l : List (Option Exc)) : Option Exc := l.findSome? id

/-- Step 4 of R383: the tile handles and the index handle of a command of the words `w` are current. -/
def handleChecks (s : State) (c : Nat) (w : Nat → Word) : List (Option Exc) :=
  let stale (use : Bool) (h : Word) : Option Exc := if use && !s.handleOk c h then some (deviceFault 8 (part h 19 8) h) else none
  [stale (part (w 0) 5 3 = 1) (w 1), stale (part (w 0) 8 6 = 1) (w 3), stale (part (w 0) 2 0 ≠ 0) (BitVec.ofNat 64 (part (w 5) 59 40))]

/-- Step 7 of R383: the destination handle as a copy into it, which takes an EMPTY tile, and the source and the index as copies out, which
an EMPTY one refuses (R134). -/
def stateChecks (s : State) (c : Nat) (w : Nat → Word) : List (Option Exc) :=
  let st (h : Word) : HState := (s.tile c (part h 19 8)).state
  let idx : Word := BitVec.ofNat 64 (part (w 5) 59 40)
  [if part (w 0) 8 6 = 1 ∧ st (w 3) ≠ .empty then some (deviceFault 9 (stateCode (st (w 3))) (w 3)) else none,
   if part (w 0) 5 3 = 1 ∧ st (w 1) = .empty then some (deviceFault 9 0 (w 1)) else none,
   if part (w 0) 2 0 ≠ 0 ∧ st idx = .empty then some (deviceFault 9 0 idx) else none]

/-- Steps 3 to 7 of R383 on a command of the words `w`, for strand `k` of core `c`. -/
def copyChecks (s : State) (c k : Nat) (raw : BitVec 32) (w : Nat → Word) : List (Option Exc) :=
  let t := s.strand c k
  let form := part (w 0) 2 0
  let src := part (w 0) 5 3
  let dst := part (w 0) 8 6
  let rsz := part (w 0) 18 15
  let n := part (w 5) 39 0
  let idx : Word := BitVec.ofNat 64 (part (w 5) 59 40)
  let row (h : Word) : HeldRow := t.row (part h 2 0)
  let bad : Bool := nonzero (w 0) 63 24 || 2 < form || 2 < src || 2 < dst || 8 < rsz || (form = 0 && rsz ≠ 0) || nonzero (w 5) 63 60 ||
    (form = 0 && idx ≠ 0) || (form ≠ 0 && s.handleOk c idx && (s.tile c (part idx 19 8)).wc = 0) ||
    ((w 0).getLsbD 19 && (s.queue c (part (w 0) 23 20)).owner.isSome)
  let lost (use : Bool) (h off : Word) : Option Exc :=
    if use && !t.rowOk h then some (deviceFault 0x0A (part h 2 0) (if (row h).known then (row h).vaddr + off else 0)) else none
  let past (use : Bool) (off : Word) : Option Exc := if use && form = 0 && 1024 < off.toNat + n then some (illegalOperand 1 raw) else none
  let range (use : Bool) (p : Nat) (va : Word) (write : Bool) : Option Exc :=
    if use && form = 0 then probeFault (t.probe p) p raw va n (!write) write else none
  [if bad then some (illegalOperand 1 raw) else none] ++ handleChecks s c w ++
  [lost (src = 2) (w 1) (w 2), lost (dst = 2) (w 3) (w 4),
   if dst = 2 ∧ (row (w 3)).w = false then some (deviceFault 7 1 ((row (w 3)).vaddr + w 4)) else none,
   past (src = 2) (w 2), past (dst = 2) (w 4),
   range (src = 0) (part (w 0) 11 9) (w 1 + w 2) false, range (dst = 0) (part (w 0) 14 12) (w 3 + w 4) true] ++
  stateChecks s c w

end Sys2Proof.Claims

/-- ACOPY (R382, R383): a command whose address is not a multiple of 8 raises scause 4; it is read once the strand's older stores to it
have been performed (R24); a command that a check of R383 refuses raises that check's exception, the first in R383's order; otherwise it
takes an entry of the copy table, or waits for one with the command it has read, which it then reads no more, and whose handles and
their states it looks at once more before it takes the entry (log 125). A copy of U mode that would write a step record has a check of its
own (R44, log 54), which this states nothing of. -/
def Obligations.CopyIssue : Prop :=
  ∀ (s : State) (c k : Nat), Acts s c k → ∀ (rd a : BitVec 5),
    let va := s.cur.readX a
    let i : Instr := .acopy rd a 0
    (Fresh s.cur → va.toNat % 8 ≠ 0 → Raises i s { cause := 4, stval := va, vcause := 0, pages := [] }) ∧
    (Fresh s.cur → va.toNat % 8 = 0 → StoreBefore s c k va 6 → Waits i s) ∧
    (Fresh s.cur → va.toNat % 8 = 0 → ¬ StoreBefore s c k va 6 → ∀ ws t, State.readWords c k 6 va s [] = (.ok ws, t) → t.stop = none →
      let x := t.command c k ws
      x.cmd.take 6 = ws.take 6 ∧
      (t.cur.priv = .s ∨ (∀ e ∈ t.cores, e.2.record = none) →
        t.commandFault c k (encode i) x = firstOf (copyChecks t c k (encode i) fun j => ws.getD j 0)) ∧
      (∀ e, t.commandFault c k (encode i) x = some e → exec i s = .next (t.raise e)) ∧
      (t.commandFault c k (encode i) x = none → TakesEntry i s t c k rd x)) ∧
    ∀ r, s.cur.request = some r → r.pc = s.cur.pc →
      let again := firstOf (handleChecks s c (fun j => r.words.getD j 0) ++ stateChecks s c fun j => r.words.getD j 0)
      (∀ e, again = some e → Raises i s e) ∧
      (again = none → TakesEntry i s (s.onStrand c k fun t => { t with request := none }) c k rd (s.commandOf c k r.words))

namespace Sys2Proof.Claims

/-- From `s` to `u` the copy of entry `n` of core `c` has been cancelled (R239). -/
def Cancelled (s u : State) (c n : Nat) : Prop :=
  let x := s.copy c n
  let ended (st : CopyState) (status : BitVec 2) : Copy :=
    { x with state := st, status := status, addr := 0, beatsDone := true, arrived := true }
  let q := s.queue c x.tq
  let room := s.roomIn { field := 48 + x.tq, core := c, q := x.tq, entry := 0 }
  let letsGo (h : Word) : Prop :=
    let t := s.tile c (part h 19 8)
    s.handleOk c h = true → t.state = .draining →
      u.tile c (part h 19 8) = { t with drains := t.drains - 1, state := if t.drains.toNat ≤ 1 then .full else .draining }
  (x.kind = .acopy →
    (x.wantsToken = false → u.copy c n = ended .done 1) ∧
    (x.wantsToken = true → q.doneLatch = true ∨ q.owner.isSome = true → u.copy c n = ended .done 2 ∧ u.queue c x.tq = q) ∧
    (x.wantsToken = true → q.doneLatch = false → q.owner = none → room = 0 → u.copy c n = ended .active 1 ∧ u.queue c x.tq = q) ∧
    (x.wantsToken = true → q.doneLatch = false → q.owner = none → room ≠ 0 →
      u.copy c n = ended .done 1 ∧
      u.queue c x.tq = q.push (.tok { kind := kVal, data := ({ x with status := 1, addr := 0 } : Copy).payload n })) ∧
    (x.dkind = 1 → x.arrived = false → s.handleOk c (x.cmd.getD 3 0) = true → (s.tile c (part (x.cmd.getD 3 0) 19 8)).state = .filling →
      (u.tile c (part (x.cmd.getD 3 0) 19 8)).state = .empty) ∧
    (x.beatsDone = false → part (x.cmd.getD 1 0) 19 8 ≠ part (x.cmd.getD 5 0) 59 48 →
      (x.srcHeld = true → letsGo (x.cmd.getD 1 0)) ∧ (x.idxHeld = true → letsGo (BitVec.ofNat 64 (part (x.cmd.getD 5 0) 59 40))))) ∧
  (∀ b, x.kind = .mldw b → u.copy c n = { Copy.reset with order := x.order } ∧
    u.wbuf c b = { s.wbuf c b with state := .empty, load := 1, addr := 0 }) ∧
  ∀ b, x.kind = .vcbld b → u.copy c n = { Copy.reset with order := x.order } ∧
    u.cb c b = { s.cb c b with filling := false, loaded := false, load := 1, addr := 0 }

end Sys2Proof.Claims

/-- AWAIT and ACANCEL (R385): an entry above 31 raises ILLEGAL_OPERAND. AWAIT of a FREE entry gives all ones; of a DONE one its payload,
and frees it, raising COPY_ERROR after it where the status is ERROR; of any other it waits. The payload is that of R239. ACANCEL ends a copy
under way with CANCELLED: its entry is DONE with that status, or, where it asks for a completion token, holds it until the token's queue has
room, and takes status ERROR where that queue is latched or claimed; a tile that it fills is EMPTY again, and its source and index tiles count
it no more (R136, R239); of a load of a w buffer or a codebook the entry is FREE, and the buffer or table holds nothing (R143, R390, R399). -/
def Obligations.CopyAwaitAndCancel : Prop :=
  ∀ (s : State) (c k : Nat), Acts s c k → ∀ (rd a : BitVec 5),
    let n := (s.cur.readX a).toNat
    let x := s.copy c n
    let freed := s.setCopy c n { Copy.reset with order := x.order }
    (31 < n → Raises (.await rd a 0) s (illegalOperand 1 (encode (.await rd a 0))) ∧
      Raises (.acancel 0 a 0) s (illegalOperand 1 (encode (.acancel 0 a 0)))) ∧
    (n ≤ 31 →
      (x.state = .free → Gives (.await rd a 0) s rd (BitVec.allOnes 64) s) ∧
      (x.state = .done → x.status ≠ 2 → Gives (.await rd a 0) s rd (x.payload n) freed) ∧
      (x.state = .done → x.status = 2 → exec (.await rd a 0) s =
        .next ((scalar rd (x.payload n) freed).takeTrap c k (s.cur.pc + 4) (deviceFault 0x0F n x.addr))) ∧
      (x.state = .waiting ∨ x.state = .active ∨ x.state = .suspended →
        exec (.await rd a 0) s = .next (s.onCur fun t => { t with status := .waiting, wait := some (.copy n) })) ∧
      (x.state = .free ∨ x.state = .done → Leaves (.acancel 0 a 0) s s) ∧
      (x.state = .waiting ∨ x.state = .active ∨ x.state = .suspended → ∃ u, Leaves (.acancel 0 a 0) s u ∧ Cancelled s u c n) ∧
      part (x.payload n) 63 32 = x.moved % 2 ^ 32 ∧ part (x.payload n) 31 16 = min x.poisoned 0xFFFF ∧ part (x.payload n) 15 10 = 0 ∧
      part (x.payload n) 9 8 = x.status.toNat ∧ part (x.payload n) 7 5 = 0 ∧ part (x.payload n) 4 0 = n)

namespace Sys2Proof.Claims

/-- The chain words on a slot, with the states in which the slot allows each (R403). -/
def chainWordOf (sl a b : BitVec 5) : List (Instr × (SlotState → Bool)) :=
  [(.chcfg 0 sl b, fun x => x = .free || x = .idle), (.chrel 0 sl 0, fun x => x = .free || x = .idle), (.run 0 sl 0, fun x => x = .idle),
   (.chwait a sl 0, fun _ => true), (.chbar 0 sl b, fun _ => true), (.chresp 0 sl 0, fun _ => true), (.chbrk 0 sl 0, fun _ => true)]

/-- CHAIN_CONFIG with a reason (R253). -/
def chainFault (reason : Nat) (stval : Word) : Exc := deviceFault 0x0C reason stval

/-- Strand `k` may use slot `n` of core `c`. -/
def Owns (s : State) (c k n : Nat) : Prop := (s.slot c n).state = .free ∨ (s.slot c n).owner = k

end Sys2Proof.Claims

namespace Sys2Proof.Claims

/-- What R246 to R252 call FORMAT, of a record of the words `ws` in a tile of `size` elements. -/
def formatFails (ws : List Word) (size : Nat) : Prop :=
  let w (i : Nat) : Word := ws.getD i 0
  let nn := part (w 0) 48 43 + 1
  let nq := part (w 0) 42 38
  let nr := part (w 0) 37 33
  nonzero (w 0) 55 49 ∨ nonzero (w 0) 32 0 ∨ nn = 64 ∨ 16 < nq ∨ 16 < nr ∨ size < 1 + nq + 2 * nn + nr ∨
  (∃ i, i < nq ∧
    let e := w (1 + i)
    (e.getLsbD 24 = true ∨ nonzero e 11 0 ∨ part e 31 30 = 3 ∨ (part e 31 30 = 2 ∧ nr ≤ part e 29 26) ∨
      (part e 31 30 ≠ 2 ∧ nonzero e 29 26) ∨ (nn ≤ part e 23 18 ∧ part e 23 18 ≠ 63) ∨ (nn ≤ part e 17 12 ∧ part e 17 12 ≠ 63))) ∨
  (∃ n, n < nn ∧
    let a := w (1 + nq + 2 * n)
    let b := w (1 + nq + 2 * n + 1)
    (nonzero a 16 0 ∨ 3 < part a 31 28 ∨ nonzero b 33 32 ∨ 2048 < part b 46 35 ∨ ((parseRecord ws).node n).paramOk = false)) ∨
  ∃ i, i < nr ∧ nonzero (w (1 + nq + 2 * nn + i)) 51 0

/-- A node's word is none that R250 accepts on the node's kind. -/
def wordFails (x : NEntry) : Prop :=
  if x.kind = 3 then x.word ≠ 0
  else
    x.instr = none ∨ (∃ i, x.instr = some i ∧ badField i.fields 0 ≠ none) ∨ x.class_ 0 = .x ∨
    (x.kind = 0 ∧ ¬ (x.opn < 0x6E ∨ (0x71 ≤ x.opn ∧ x.opn < 0x78) ∨ (0x9D ≤ x.opn ∧ x.opn < 0xA2))) ∨
    (x.kind = 1 ∧ x.opn ≠ 0x99) ∨ (x.kind = 2 ∧ ¬ (0xB0 ≤ x.opn ∧ x.opn < 0xC7))

/-- Two MN nodes of one core whose buffers w4k to w4k+d−1 overlap. -/
def sameBuffers (x y : NEntry) : Prop :=
  x.kind = 1 ∧ y.kind = 1 ∧ x.core = y.core ∧
  ∃ m, 4 * x.unit ≤ m ∧ m ≤ 4 * x.unit + x.param / 2 ^ 30 ∧ 4 * y.unit ≤ m ∧ m ≤ 4 * y.unit + y.param / 2 ^ 30

/-- A record that strand `k` of core `c` configures in slot `sl`, from a tile of `size` elements with modes `ms` and length `vl`, has the
fault of reason `code` (R253). CYCLE, BALANCE and MEMORY_WAIT are those of the model's graph (R219, R220, logs 118 and 135). -/
def RecordFails (s : State) (c k sl : Nat) (ws : List Word) (size : Nat) (ms : Modes) (vl : Nat) (code : Nat) : Prop :=
  let r := parseRecord ws
  let node (n : Nat) : NEntry := r.node n
  let q (i : Nat) : QEntry := r.entry i
  let core (i : Nat) : Nat := if (q i).cons = 63 then 256 else (node (q i).cons).core
  let isNode (n : Nat) : Prop := n < r.nodes.length
  let isQueue (i : Nat) : Prop := i < r.queues.length
  let short (i n : Nat) : Prop := n ≠ 63 ∧ (node n).strip = true ∧ (q i).d < (if (node n).mv then (node n).vl else vl)
  match code with
  | 2 => part (ws.getD 0 0) 63 56 ≠ 1
  | 3 => formatFails ws size
  | 4 => ∃ n, isNode n ∧ wordFails (node n)
  | 5 => ∃ n, isNode n ∧
      (((node n).mv = true ∧ (nonzero ((node n).mode.setWidth 64) 63 17 ∨
          (12 ≤ part ((node n).mode.setWidth 64) 15 12 ∧ part ((node n).mode.setWidth 64) 15 12 ≤ 14) ∨
          4 < part ((node n).mode.setWidth 64) 10 8)) ∨
        ((node n).kind ≠ 3 ∧ (let m := modeOf (((node n).modesIn ms).at (groupOf (node n).opn)); accepts (node n).opn m.t m.s = false)))
  | 6 => ∃ n, isNode n ∧
      let x := node n
      ((s.core x.core).region = none ∨ (s.core x.core).region ≠ (s.core c).region ∨
        (if x.kind = 0 ∨ x.kind = 3 then 8 else 4) ≤ x.unit ∨ (x.kind = 1 ∧ x.b ≠ 4 * x.unit) ∨
        (∃ m, m < n ∧ sameBuffers x (node m)) ∨ ∃ o ∈ s.otherRecs c sl, ∃ y ∈ o.2.nodes, sameBuffers x y)
  | 7 => (∃ i, isQueue i ∧
      (((q i).prod = 63 ∧ (q i).cons = 63) ∨
        ((q i).cons ≠ 63 ∧ (node (q i).cons).kind ≠ 3 ∧ 48 + (q i).q ∉ (node (q i).cons).sources) ∨
        ((q i).prod ≠ 63 ∧ (node (q i).prod).kind ≠ 3 ∧ 48 + (q i).q ∉ (node (q i).prod).dests) ∨
        (core i < 256 ∧ ∃ j, j < i ∧ core j = core i ∧ (q j).q = (q i).q) ∨
        ((q i).prod ≠ 63 ∧ ∃ j, j < i ∧ (q j).prod = (q i).prod ∧ (q j).q = (q i).q) ∨
        (core i < 256 ∧ ∃ o, (s.queue (core i) (q i).q).owner = some o ∧ o ≠ 4 * c + sl))) ∨
      ∃ n, isNode n ∧
        ((∃ f ∈ (node n).sources, ∀ i, isQueue i → (q i).cons = n → 48 + (q i).q ≠ f) ∨
          ∃ f ∈ (node n).dests, ∀ i, isQueue i → (q i).prod = n → 48 + (q i).q ≠ f)
  | 8 => ∃ n, isNode n ∧ (node n).kind = 2 ∧ ((node n).opn = 0xB2 ∨ (node n).opn = 0xB3) ∧ (node n).d % 2 = 1
  | 9 => ∃ i, isQueue i ∧ ((q i).d = 0 ∨ 64 < (q i).d)
  | 10 => ∃ i, isQueue i ∧ (short i (q i).prod ∨ short i (q i).cons ∨
      ((q i).cons ≠ 63 ∧ (node (q i).cons).kind = 2 ∧ (node (q i).cons).opn = 0xC6 ∧ (node (q i).cons).a = 48 + (q i).q ∧ (q i).d < 33))
  | 11 => ∃ n, isNode n ∧ s.badPort c k sl r n = true
  | 12 => r.badCycle = true
  | 13 => ∃ i, isQueue i ∧ (q i).prod ≠ 63 ∧ (q i).cons ≠ 63 ∧ (q i).cons ≤ (q i).prod ∧
      ¬ ((node (q i).cons).kind = 2 ∧ (node (q i).cons).opn = 0xBB ∧ (node (q i).cons).b = 48 + (q i).q)
  | 14 => r.badBalance vl = true
  | 15 => (∃ i, isQueue i ∧
        (if (q i).prod = 63 ∨ (q i).cons = 63 then (q i).xport ≠ 2
         else ((q i).xport = 0 ∧ (node (q i).prod).core ≠ (node (q i).cons).core) ∨
           ((q i).xport = 1 ∧ neighbours (node (q i).prod).core (node (q i).cons).core = false))) ∨
      ∃ i, i < r.routes.length ∧ s.badRoute c sl r i = true
  | 16 => r.badWait = true
  | 17 => ∃ i, isQueue i ∧ r.badPhys i = true
  | _ => False

end Sys2Proof.Claims

/-- CHCFG (R404): a stale handle, a tile of another width, an EMPTY tile or a record that a check of R253 refuses raises its exception;
a FILLING tile is waited for; an accepted record configures the slot, once the strand's older words that name one of its queues have
completed: IDLE, owned by the
strand, with the record, the modes and the VL of the strand, and nothing of an earlier run. A record is accepted where it has none of the
faults of R253, and is refused with the least code among those it has, and stval 0 for a reason of the graph or an address of a word of the
record (that a route above nr and a VL above 2,048 are FORMAT is the model's choice, logs 136 and 137, as are the readings of PORT, log 117,
and of PRODUCER, log 116). -/
def Obligations.ChainConfigure : Prop :=
  (∀ (s : State) (c k : Nat), Acts s c k → ∀ (sl b : BitVec 5), sl.toNat < 4 →
    ((s.slot c sl.toNat).state = .free ∨ (s.slot c sl.toNat).state = .idle) → Owns s c k sl.toNat →
    let h := s.cur.readX b
    let t := s.tile c (part h 19 8)
    let i : Instr := .chcfg 0 sl b
    (s.handleOk c h = false → Raises i s (deviceFault 8 (part h 19 8) h)) ∧
    (s.handleOk c h = true → t.w ≠ 64 → Raises i s (chainFault 3 0)) ∧
    (s.handleOk c h = true → t.w = 64 → t.state = .empty → Raises i s (deviceFault 9 0 h)) ∧
    (s.handleOk c h = true → t.w = 64 → t.state = .filling → Waits i s) ∧
    (s.handleOk c h = true → t.w = 64 → t.state = .full ∨ t.state = .draining → t.res = 0 → ∀ head s0 ws s1,
      State.readRecord c k h 1 0 s [] = (.ok head, s0) →
      State.readRecord c k h (min (recordWords (head.headD 0)) t.size) 0 s [] = (.ok ws, s1) →
      (∀ code v, s1.validate c k sl.toNat h ws t.size s1.cur.modes s1.cur.vl.toNat = some (code, v) →
        exec i s = .next (s1.raise (chainFault code v))) ∧
      let names : Queued → Bool := fun q => (parseRecord ws).places.any fun x => x.2.1 = c && q.namesQueue x.2.2
      (s1.validate c k sl.toNat h ws t.size s1.cur.modes s1.cur.vl.toNat = none → ¬ Clear s names → Waits i s) ∧
      (s1.validate c k sl.toNat h ws t.size s1.cur.modes s1.cur.vl.toNat = none → Clear s names →
        ∃ u : State, exec i s = .next (u.onCur Strand.retire) ∧
          u.slot c sl.toNat = { Slot.reset with
            state := .idle
            owner := k
            record := ws
            modes := s1.cur.modes
            vl := s1.cur.vl.toNat
            xval := (u.slot c sl.toNat).xval
            user := decide (s1.cur.priv = .u) } ∧
          u.fast = s1.fast ∧ u.cap = s1.cap))) ∧
    ∀ (s : State) (c k sl : Nat) (h : Word) (ws : List Word) (size : Nat) (ms : Modes) (vl : Nat), size < 2 ^ 40 →
      ws.length = min (recordWords (ws.headD 0)) size →
      let found := s.validate c k sl h ws size ms vl
      (found = none ↔ ∀ code, ¬ RecordFails s c k sl ws size ms vl code) ∧
      ∀ code v, found = some (code, v) →
        RecordFails s c k sl ws size ms vl code ∧ (∀ code', code' < code → ¬ RecordFails s c k sl ws size ms vl code') ∧
        (code ∈ [12, 13, 14, 16] → v = 0) ∧
        (code ∉ [12, 13, 14, 16] → part v 63 44 = part h 19 0 ∧ part v 43 40 = 0)

/-- A chain word on a slot whose state does not allow it, or that another strand owns, raises CHAIN_CONFIG with reason SLOT and leaves
the slots unchanged, but for a double fault (R28, R253, R403). CHREL, CHWAIT, CHBAR, CHRESP and CHBRK (R405, R408, R410, R411): CHREL
frees an IDLE slot; CHWAIT gives the break count of a slot that does not run, and waits for any other; CHBAR goes on where its count is
met and waits otherwise, refusing an undefined operand bit; CHWAIT and CHBAR drop the core's scalar data cache, and a slot that CHWAIT has
seen no longer makes undefined what its nodes wrote (R34); CHRESP asks a TEMPORAL slot to return to SPATIAL, at the end of the pass in
progress or of the next one, and at once after a pass in which no node fired while nothing that the next waits for has changed (the model's
choice, log 104); CHBRK breaks a SPATIAL run, which completes instead where it is over. -/
def Obligations.ChainControlWords : Prop :=
  (∀ (s : State) (c k : Nat), Acts s c k → ∀ (sl a b : BitVec 5) (i : Instr) (ok : SlotState → Bool), sl.toNat < 4 →
     (i, ok) ∈ chainWordOf sl a b → (ok (s.slot c sl.toNat).state = false ∨ ¬ Owns s c k sl.toNat) →
       Raises i s (chainFault 1 0) ∧ (s.cur.tw = false → ∀ n, (s.takeTrap c k s.cur.pc (chainFault 1 0)).slot c n = s.slot c n)) ∧
  (∀ (s : State) (c k : Nat), Acts s c k → ∀ (rd sl b : BitVec 5), sl.toNat < 4 → Owns s c k sl.toNat →
     let y := s.slot c sl.toNat
     let w := s.cur.readX b
     let quiet := y.state = .free ∨ y.state = .idle
     (y.state = .free → Leaves (.chrel 0 sl 0) s s) ∧
     (y.state = .idle → Leaves (.chrel 0 sl 0) s (s.releaseSlot c sl.toNat)) ∧
     (quiet → Gives (.chwait rd sl 0) s rd (BitVec.ofNat 64 (part y.brec.w0 31 0))
       ((if y.unwaited then s.setSlot c sl.toNat { y with unwaited := false, wrote := [] } else s).dropCache c)) ∧
     (¬ quiet → exec (.chwait rd sl 0) s = .next (s.onCur fun t => { t with status := .waiting, wait := some (.chain sl.toNat) })) ∧
     (nonzero w 31 4 ∨ part w 3 0 = 15 → Raises (.chbar 0 sl b) s (illegalOperand 2 (encode (.chbar 0 sl b)))) ∧
     (nonzero w 31 4 = false → part w 3 0 ≠ 15 → s.barrierMet c sl.toNat w = false →
       exec (.chbar 0 sl b) s = .next (s.onCur fun t => { t with status := .waiting, wait := some (.barrier sl.toNat w) })) ∧
     (nonzero w 31 4 = false → part w 3 0 ≠ 15 → s.barrierMet c sl.toNat w = true → SinksMapped s y.rec_ →
       Leaves (.chbar 0 sl b) s ((s.flushSinks y.rec_).dropCache c)) ∧
     (y.state ≠ .temporal → Leaves (.chresp 0 sl 0) s s) ∧
     (y.state = .temporal → y.passAt = 0 → y.idleMark ≠ [] → y.idleMark = s.waitMark c sl.toNat →
       Leaves (.chresp 0 sl 0) s (s.setSlot c sl.toNat { y with state := .spatial, idleMark := [] })) ∧
     (y.state = .temporal → ¬ (y.passAt = 0 ∧ y.idleMark ≠ [] ∧ y.idleMark = s.waitMark c sl.toNat) → Leaves (.chresp 0 sl 0) s (s.setSlot c sl.toNat { y with respond := true })) ∧
     (y.state ≠ .spatial ∨ y.breaking.isSome = true → Leaves (.chbrk 0 sl 0) s s) ∧
     (y.state = .spatial → y.breaking = none → s.runOver c sl.toNat = true → Leaves (.chbrk 0 sl 0) s (s.completeRun c sl.toNat)) ∧
     (y.state = .spatial → y.breaking = none → s.runOver c sl.toNat = false →
       Leaves (.chbrk 0 sl 0) s ((s.noteTime c k).setSlot c sl.toNat { y with
         breaking := some { cause := 3, node := 0, queue := 0, vcause := 0, stval := 0, pages := [], time := s.timeFor c k } })))

/-- RUN (R406): it waits while the strand has vector words queued or copies with accesses to perform; otherwise the slot is SPATIAL with its
counters, its break record and its nodes' state cleared, its queues empty, its ports ACTIVE at the start of their patterns, and the
registers that its nodes write empty, while every other full/empty bit stays (R108); as a FENCEX, RUN drops the core's scalar data cache and
orders the strand's stores before its later engine operations (R184, R188). The first node whose handle or probe is at fault begins to break
the chain; a chain whose nodes are all LG or MN nodes, which name none, has no such node. -/
def Obligations.ChainRun : Prop :=
  ∀ (s : State) (c k : Nat), Acts s c k → ∀ (sl : BitVec 5), sl.toNat < 4 → (s.slot c sl.toNat).state = .idle → (s.slot c sl.toNat).owner = k →
    let n := sl.toNat
    let t := ((s.startRun c n).dropCache c).orderStores c k
    let r := (s.slot c n).rec_
    let writes (v : Nat) : Prop := ∃ x ∈ r.nodes, x.writesReg = some v
    let found := t.runCheck c n (t.slot c n).rec_.nodes.length 0
    (¬ Drained s → Waits (.run 0 sl 0) s) ∧
    (s.copiesBusy c k (s.core c).copyOrder = true → Waits (.run 0 sl 0) s) ∧
    (Drained s → s.copiesBusy c k (s.core c).copyOrder = false →
      (found = none → Leaves (.run 0 sl 0) s t) ∧
      (∀ m e, found = some (m, e) → Leaves (.run 0 sl 0) s (t.nodeFault c n m e)) ∧
      ((∀ x ∈ r.nodes, x.kind = 0 ∨ x.kind = 1) → found = none) ∧
      (∀ x ∈ r.nodes, x.kind = 3 → t.port x.core x.unit =
        { s.port x.core x.unit with state := .active, i0 := 0, i1 := 0, i2 := 0, stop := none, past := (s.port x.core x.unit).void,
                                    gather := [], gatherT := [] }) ∧
      (∀ v, writes v → SMap.get false (t.strand c k).feClear v = true) ∧
      (∀ v, ¬ writes v → SMap.get false (t.strand c k).feClear v = SMap.get false s.cur.feClear v) ∧
      (∀ x ∈ r.places, (t.queue x.2.1 x.2.2).items = [] ∧ (t.queue x.2.1 x.2.2).doneLatch = false ∧
        ∀ f ∈ (t.core x.2.1).flights, f.q ≠ x.2.2) ∧
      (t.strand c k).stores = [] ∧
      (t.slot c n).state = .spatial ∧ (t.slot c n).strips = 0 ∧ (t.slot c n).brec = .reset ∧ (t.slot c n).breaking = none ∧
      (t.slot c n).prog = [] ∧ (t.slot c n).owner = k ∧ (t.slot c n).record = (s.slot c n).record ∧ (t.core c).dcache = [])

/-- SBIND and SUNBIND (R214, R216, R412, R413): SBIND reads eight doublewords, once the strand's older stores to them have been performed
(R24); it raises scause 4 for a misaligned address,
ILLEGAL_OPERAND for another strand's port or a malformed descriptor, CHAIN_CONFIG with reason 0x0B for another shape on a port that a
configured chain names, and waits while the port is ACTIVE; otherwise the port is BOUND to the descriptor at the start of its pattern.
SUNBIND unbinds a port of the strand's own that no chain names. -/
def Obligations.PortBinding : Prop :=
  ∀ (s : State) (c k : Nat), Acts s c k → ∀ (u b : BitVec 5), u.toNat < 8 →
    let va := s.cur.readX b
    let i : Instr := .sbind 0 u b
    let p := s.port c u.toNat
    (va.toNat % 8 ≠ 0 → Raises i s { cause := 4, stval := va, vcause := 0, pages := [] }) ∧
    (va.toNat % 8 = 0 → StoreBefore s c k va 8 → Waits i s) ∧
    (va.toNat % 8 = 0 → ¬ StoreBefore s c k va 8 → ∀ ws t, State.readWords c k 8 va s [] = (.ok ws, t) → t.stop = none →
      let p := t.port c u.toNat
      let q : Port := { Port.reset with state := .bound, desc := ws, strand := k }
      let same := q.q = p.q ∧ q.sink = p.sink ∧ q.tiled = p.tiled ∧ q.dims = p.dims ∧ q.esz = p.esz
      (p.state ≠ .unbound → p.strand ≠ k → exec i s = .next (t.raise (illegalOperand 1 (encode i)))) ∧
      (p.state = .unbound ∨ p.strand = k →
        (badDescriptor ws = true → exec i s = .next (t.raise (illegalOperand 2 (encode i)))) ∧
        (badDescriptor ws = false → p.state = .active → Waits i s) ∧
        (badDescriptor ws = false → p.state ≠ .active → t.portNamed c u.toNat = true → ¬ same →
          exec i s = .next (t.raise (chainFault 0x0B 0))) ∧
        (badDescriptor ws = false → p.state ≠ .active → (t.portNamed c u.toNat = false ∨ same) → Leaves i s (t.setPort c u.toNat q)))) ∧
    encode (.sunbind 0 2 0) = 0x3801007B ∧
    (p.state = .unbound → Leaves (.sunbind 0 u 0) s s) ∧
    (p.state ≠ .unbound → p.strand ≠ k → Raises (.sunbind 0 u 0) s (illegalOperand 1 (encode (.sunbind 0 u 0)))) ∧
    (p.state ≠ .unbound → p.strand = k → s.portNamed c u.toNat = true → Raises (.sunbind 0 u 0) s (chainFault 0x0B 0)) ∧
    (p.state ≠ .unbound → p.strand = k → s.portNamed c u.toNat = false → Leaves (.sunbind 0 u 0) s (s.setPort c u.toNat Port.reset))

/-! ## Fences, hints and visibility -/

/-- FENCEO, FENCEE and FENCEX (R178, R180 to R182, R322): a scope that the job does not have raises SCOPE; scope 0 of FENCEO and FENCEE
does nothing; otherwise FENCEO is a fence of the strand's older ordinary accesses, and FENCEX of those and of its engine operations, which
the strand goes past; FENCEO at region scope and wider and FENCEX at any scope drop the core's scalar data cache; FENCEE counts one, which
holds back the strand's younger copies for its older ones, and neither its ordinary accesses nor its issue.
HINTNEXT marks the core's job (R323); WAITVIS raises scause 4 for a misaligned address, waits for the strand's older stores to the doubleword
(R24) and while the doubleword holds all ones, and otherwise gives it and drops the scalar data cache (R324). That a waiting fence stays with
the strand, whose younger words go on, is log 119. -/
def Obligations.FencesHintsAndVisibility : Prop :=
  (∀ (s : State) (c k : Nat), Acts s c k → ∀ (rd : BitVec 5), rd.toNat < 9 →
     let n := rd.toNat
     (s.scopeDenied c n = true → Raises (.fenceo rd 0 0) s (deviceFault 0x16 n ((encode (.fenceo rd 0 0)).setWidth 64)) ∧
       Raises (.fencee rd 0 0) s (deviceFault 0x16 n ((encode (.fencee rd 0 0)).setWidth 64)) ∧
       Raises (.fencex rd 0 0) s (deviceFault 0x16 n ((encode (.fencex rd 0 0)).setWidth 64))) ∧
     (s.scopeDenied c n = false →
       (n = 0 → Leaves (.fenceo rd 0 0) s s ∧ Leaves (.fencee rd 0 0) s s ∧ Leaves (.fencex rd 0 0) s (s.dropCache c)) ∧
       (n ≠ 0 → PassesFence (.fenceo rd 0 0) s c k false (decide (3 ≤ n)) ∧
         Leaves (.fencee rd 0 0) s (s.onCur fun t => { t with fenceE := t.fenceE + 1 }) ∧
         PassesFence (.fencex rd 0 0) s c k true true))) ∧
  (∀ (s : State) (c k : Nat), Acts s c k → ∀ (rd a : BitVec 5),
     let va := s.cur.readX a
     (∀ j, s.jobOf c = some j → Leaves (.hintnext 0 0 0) s (s.setJob (s.core c).jobid.toNat { j with hint := true })) ∧
     (s.jobOf c = none → Leaves (.hintnext 0 0 0) s s) ∧
     (va.toNat % 8 ≠ 0 → Raises (.waitvis rd a 0) s { cause := 4, stval := va, vcause := 0, pages := [] }) ∧
     (va.toNat % 8 = 0 → StoreBefore s c k va 1 → Waits (.waitvis rd a 0) s) ∧
     (va.toNat % 8 = 0 → ¬ StoreBefore s c k va 1 → ∀ e t, s.translate c k va .load = (.error e, t) →
       exec (.waitvis rd a 0) s = .next (t.raise e)) ∧
     (va.toNat % 8 = 0 → ¬ StoreBefore s c k va 1 → ∀ m t, s.translate c k va .load = (.ok (.dev m), t) → (s.place m).isSome = true →
       (s.poisonAt (.dev m) = true →
         exec (.waitvis rd a 0) s = .next (((t.touch (.dev m)).poisonRead c k).raise (deviceFault 0x10 0 (BitVec.ofNat 64 (va.toNat / 64 * 64))))) ∧
       (s.poisonAt (.dev m) = false → s.numAt (.dev m) 8 = 2 ^ 64 - 1 →
         exec (.waitvis rd a 0) s = .next ((t.touch (.dev m)).onCur fun x => { x with status := .waiting, wait := some (.completion va) })) ∧
       (s.poisonAt (.dev m) = false → s.numAt (.dev m) 8 ≠ 2 ^ 64 - 1 →
         Gives (.waitvis rd a 0) s rd (BitVec.ofNat 64 (s.numAt (.dev m) 8)) ((t.touch (.dev m)).dropCache c))))

/-! ## Jobs, steps and helper strands -/

/-- STRSTART (R43, R330): an undefined operand bit, the strand itself or a misaligned entry raises ILLEGAL_OPERAND; a strand that is not
IDLE, or whose state a context word keeps, gives 0; otherwise the strand enters the step, with sp from x[rs1] and a0 to a3 from the step
record's values, and rd receives 1. STEPEND makes the strand IDLE once its words, its runs and its copies are over (R331). RLIMSET sets
the limiter of the region, at once at the input ports under none and at the next window boundary at the others, or refuses half of one
(R236, R273, R333). -/
def Obligations.StepWords : Prop :=
  ∀ (s : State) (c k : Nat), Acts s c k → ∀ (rd a b : BitVec 5),
    let v := s.cur.readX a
    let e := s.cur.readX b
    let n := part v 1 0
    let t := s.strand c n
    let i : Instr := .strstart rd a b
    (nonzero v 3 2 ∨ n = k → Raises i s (illegalOperand 1 (encode i))) ∧
    (nonzero v 3 2 = false → n ≠ k → e.toNat % 4 ≠ 0 → Raises i s (illegalOperand 2 (encode i))) ∧
    (nonzero v 3 2 = false → n ≠ k → e.toNat % 4 = 0 →
      (t.status ≠ .idle ∨ t.ctxSaved = true ∨ t.heldBy.isSome = true → Gives i s rd 0 s) ∧
      (t.status = .idle → t.ctxSaved = false → t.heldBy = none → ∃ t', Gives i s rd 1 (s.setStrand c n t') ∧
        t' = { t with
          x := t'.x
          pc := e
          priv := .u
          status := .active
          wait := none
          modes := .reset
          vl := 0
          vstart := 0
          vflags := 0
          vslip := slipOf (SMap.get 0 (s.core c).args 4)
          hwm := []
          feClear := []
          m := t'.m
          lq := []
          aq := []
          sq := []
          walks := []
          resv := none
          fault := none
          fences := []
          stores := []
          request := none
          kept := false
          inStep := true } ∧
        ∀ r : BitVec 5, t'.readX r =
          if r = 2 then BitVec.ofNat 64 (v.toNat / 16 * 16)
          else if 10 ≤ r.toNat ∧ r.toNat ≤ 13 then SMap.get 0 (s.core c).args (r.toNat - 10) else 0)) ∧
    (¬ Drained s ∨ s.copiesBusy c k (s.core c).copyOrder = true ∨
        ((s.core c).slots.any fun x => x.2.owner = k && x.2.live) = true → Waits (.stepend 0 0 0) s) ∧
    (Drained s → s.copiesBusy c k (s.core c).copyOrder = false →
        ((s.core c).slots.any fun x => x.2.owner = k && x.2.live) = false →
      exec (.stepend 0 0 0) s = .next ((s.dropCache c).onCur fun x => { x.retire with status := .idle, wait := none, inStep := false })) ∧
    (nonzero v 63 32 ∨ (part v 15 0 = 0 ↔ part v 31 16 ≠ 0) → Raises (.rlimset 0 a 0) s (illegalOperand 1 (encode (.rlimset 0 a 0)))) ∧
    (nonzero v 63 32 = false → (part v 15 0 = 0 ↔ part v 31 16 = 0) →
      let l := if part v 15 0 = 0 then none else some (part v 15 0, part v 31 16)
      let r := (s.core c).region.getD 64
      (SMap.get none s.regions r = none → Leaves (.rlimset 0 a 0) s s) ∧
      ∀ g, SMap.get none s.regions r = some g →
        Leaves (.rlimset 0 a 0) s ((s.setRegion r { g with limit := l }).startWindows l (g.cores.filter fun m => (s.core m).limit.isNone)))

/-! ## Jobs and contexts: the words of a strand -/

namespace Sys2Proof.Claims

/-- A record whose header is `h` asks for more than issuer `j` holds (R261): its priority or its row quota is above the issuer's, its tags are
not all the issuer's, or it asks for the host scope, which the issuer lacks. -/
def AsksBeyond (j : Job) (h : List Byte) : Prop :=
  let tags := areaNum h 73 1
  j.prio < areaNum h 1 1 % 16 ∨ j.quota < areaNum h 3 1 ∨ (areaNum h 74 1 % 2 = 1 ∧ j.hostScope = false) ∨
  (tags ≠ 0 ∧ (areaNum h 72 1 < j.tagBase ∨ j.tagBase + j.tagCount < areaNum h 72 1 + tags))

/-- A record that R325 answers with 0: its region does not exist, the tenants differ, the record asks for more than its issuer holds (R261), or
the core runs no job, which is the model's choice (log 59). -/
def turnedAway (t : State) (c r : Nat) (q : Read) : Prop :=
  64 ≤ r ∨ t.region r = none ∨ t.jobOf c = none ∨
  (∃ x, t.region r = some x ∧ (((t.core c).region.bind t.region).map fun y => y.tenant) ≠ some x.tenant) ∨
  ∃ j, t.jobOf c = some j ∧ AsksBeyond j q.head

/-- Steps of the nest block `nest`: the product of its bounds (R42). -/
def nestSteps (nest : List Byte) : Nat := ((List.range (min (areaNum nest 0 1) 6)).map fun l => areaNum nest (8 + 8 * l) 4).prod

/-- Node `p` of a tree is an inner node with child `i` (R262). -/
def ChildOf (nodes : List (List Byte)) (p i : Nat) : Prop :=
  let b := nodes.getD p []
  p < nodes.length ∧ areaNum b 0 1 ≠ 3 ∧ areaNum b 2 1 ≤ i ∧ i < areaNum b 2 1 + areaNum b 1 1

/-- Node `x` is node `a`, or lies at most `d` levels below it. -/
def Below (nodes : List (List Byte)) : Nat → Nat → Nat → Prop
  | 0, a, x => a = x
  | d + 1, a, x => a = x ∨ ∃ b, ChildOf nodes a b ∧ Below nodes d b x

/-- Leaves below two children of node `p` share a core. -/
def SharesCore (nodes : List (List Byte)) (p : Nat) : Prop :=
  let leafOn (i m : Nat) : Prop := areaNum (nodes.getD i []) 0 1 = 3 ∧ areaNum (nodes.getD i []) 16 2 ≤ m ∧
    m < areaNum (nodes.getD i []) 16 2 + areaNum (nodes.getD i []) 18 2
  ∃ a b x y m, ChildOf nodes p a ∧ ChildOf nodes p b ∧ a ≠ b ∧ Below nodes 4 a x ∧ Below nodes 4 b y ∧ leafOn x m ∧ leafOn y m

/-- NEST_INVALID with detail 0 (R41, R260, R262, R263, R325): the header or a node holds a value out of range or a reserved byte that is not
zero; a child's index is not above its parent's or lies beyond the tree; a node but the root is reached twice or never; the tree has more than
four levels; a leaf's cores lie outside the region; the leaves below two children of a PIPE or a STREAM share a core; or a PIPE has a child that
is no leaf or two with different step counts. -/
def RecordInvalid (q : Read) (cores : Nat) : Prop :=
  let h := q.head
  let n := q.nodes.length
  let node (i : Nat) : List Byte := q.nodes.getD i []
  let nest (i : Nat) : List Byte := q.nests.getD i []
  let kind (i : Nat) : Nat := areaNum (node i) 0 1
  let kids (i : Nat) : Nat := areaNum (node i) 1 1
  let first (i : Nat) : Nat := areaNum (node i) 2 1
  areaNum h 0 1 ≠ 1 ∨ 32 ≤ areaNum h 2 1 ∨ 2 ^ 20 ≤ areaNum h 5 3 ∨ areaNum h 8 8 % 8 ≠ 0 ∨ 2 ≤ areaNum h 74 1 ∨ areaNum h 75 53 ≠ 0 ∨
  areaNum h 4 1 = 0 ∨ 64 < areaNum h 4 1 ∨
  (∃ i, i < n ∧ (3 < kind i ∨ areaNum (node i) 3 5 ≠ 0 ∨ areaNum (node i) 20 4 ≠ 0 ∨
    (kind i = 3 ∧ (kids i ≠ 0 ∨ areaNum (nest i) 0 1 = 0 ∨ 6 < areaNum (nest i) 0 1 ∨ areaNum (nest i) 1 7 ≠ 0 ∨
      areaNum (nest i) 56 8 ≠ 0)) ∨
    (kind i ≠ 3 ∧ (kids i = 0 ∨ 16 < kids i ∨ areaNum (node i) 8 8 ≠ 0 ∨ areaNum (node i) 24 8 ≠ 0)))) ∨
  (∃ p, p < n ∧ kind p ≠ 3 ∧ (first p ≤ p ∨ n < first p + kids p)) ∨
  (∃ i, 0 < i ∧ i < n ∧ ((∀ p, ¬ ChildOf q.nodes p i) ∨ ∃ p p', p ≠ p' ∧ ChildOf q.nodes p i ∧ ChildOf q.nodes p' i)) ∨
  (∃ a b d e f, ChildOf q.nodes a b ∧ ChildOf q.nodes b d ∧ ChildOf q.nodes d e ∧ ChildOf q.nodes e f) ∨
  (∃ i, i < n ∧ kind i = 3 ∧ cores < areaNum (node i) 16 2 + areaNum (node i) 18 2) ∨
  (∃ p, p < n ∧ (kind p = 1 ∨ kind p = 2) ∧ SharesCore q.nodes p) ∨
  ∃ p i, kind p = 1 ∧ ChildOf q.nodes p i ∧ (kind i ≠ 3 ∨ nestSteps (nest i) ≠ nestSteps (nest (first p)))

/-- Leaf `i`'s nest block fails at level `l` (R263): a negative step, or words at or above its depth that are not zero. -/
def LevelInvalid (q : Read) (i l : Nat) : Prop :=
  let b := q.nests.getD i []
  i < q.nodes.length ∧ areaNum (q.nodes.getD i []) 0 1 = 3 ∧ l < 6 ∧
  if l < areaNum b 0 1 then 2 ^ 31 ≤ areaNum b (12 + 8 * l) 4 else areaNum b (8 + 8 * l) 4 ≠ 0 ∨ areaNum b (12 + 8 * l) 4 ≠ 0

end Sys2Proof.Claims

namespace Sys2Proof.Claims

/-- Step 6 of R325 for a record `q` whose completion word stands at `place`, from `u`: a child without an entry gives 0, and a job without
one waits with what it has read; otherwise the pending value is stored there, rd receives the new job's identifier, and the job is looked
at for its dependences. -/
def TakesPlace (i : Instr) (s u : State) (c k : Nat) (rd : BitVec 5) (r : Nat) (child : Bool) (q : Read) (place : Phys) : Prop :=
  (u.entryFor r child = none → exec i s = .next (if child then scalar rd 0 u
    else u.onStrand c k fun t => { t with request := some { pc := t.pc, words := q.words, place := place } })) ∧
  ∀ entry, u.entryFor r child = some entry →
    let new := { jobOfRecord q.head ((q.nodes.zip q.nests).map fun y => treeNode y.1 y.2) r (u.core c).jobid (u.strand c k).satp place
      u.tick with reservedEntry := entry }
    let stored := (u.touch place).store (.strand c k) (piecesOf place (List.replicate 8 0xFF))
    (stored.settle u.newJobid.toNat new).stop = none →
    exec i s = .next (scalar rd (u.newJobid.setWidth 64) (stored.settle u.newJobid.toNat new))

end Sys2Proof.Claims

/-- A new job's identifier is nonzero and stands for no other job (R227). -/
def Obligations.JobIdentifiers : Prop :=
  ∀ (s : State), s.jobs.length + s.cores.length + 2 ≤ 2 ^ 32 →
    s.newJobid ≠ 0 ∧ (∀ e ∈ s.jobs, e.1 ≠ s.newJobid.toNat) ∧ ∀ e ∈ s.cores, e.2.jobid ≠ s.newJobid

/-- ENQ and ENQC (R325, R326): a misaligned record raises scause 4; the record is read once the strand's older stores to it have been performed
(R24); a record that R261 turns away gives 0, as does one on a core that runs no job, which is the model's choice (log 59); one that R263
refuses raises
NEST_INVALID with its detail, the first in the order of R263's table (log 57), 0 for a depth out of range (log 55), and that of the first level
of the first leaf at fault; a completion address that fails raises its exception; a child of a region other than the one that its
issuer runs in, or without a free entry, gives 0, and ENQ without a free entry waits, and reads its record no more; otherwise the pending
value is stored at the completion address, rd receives the new job's identifier, and the job is looked at for its dependences. DEQ (R228, R327): a QUEUED or
READY job that the core's job has issued ends with status 1, once the strand's older ordinary accesses have been performed, and rd receives 1;
for anything else rd receives 0 and nothing changes. -/
def Obligations.JobQueueWords : Prop :=
  (∀ (s : State) (c k : Nat), Acts s c k → ∀ (rd a b : BitVec 5) (child : Bool),
     let i : Instr := if child then .enqc rd a b else .enq rd a b
     let va := s.cur.readX a
     let r := (s.cur.readX b).toNat
     (∀ w, s.cur.request = some w → w.pc = s.cur.pc →
       TakesPlace i s (s.onStrand c k fun t => { t with request := none }) c k rd r child (Read.ofWords w.words) w.place) ∧
     (Fresh s.cur → va.toNat % 64 ≠ 0 → Raises i s { cause := 4, stval := va, vcause := 0, pages := [] }) ∧
     (Fresh s.cur → va.toNat % 64 = 0 → s.storeQueued c k (s.recordSpan c k va) = true → Waits i s) ∧
     (Fresh s.cur → va.toNat % 64 = 0 → s.storeQueued c k (s.recordSpan c k va) = false → ∀ e t, s.readJob c k va = (.error e, t) →
       exec i s = .next (t.raise e)) ∧
     (Fresh s.cur → va.toNat % 64 = 0 → s.storeQueued c k (s.recordSpan c k va) = false → ∀ q t, s.readJob c k va = (.ok q, t) →
       t.stop = none →
       (turnedAway t c r q → exec i s = .next (scalar rd 0 t)) ∧
       ∀ x j, t.region r = some x → t.jobOf c = some j → ¬ turnedAway t c r q →
         (∀ d, q.refused x.cores.length = some d → exec i s = .next (t.raise (deviceFault 0x14 d va))) ∧
         (q.refused x.cores.length = none → ∀ e u, t.translate c k (BitVec.ofNat 64 (areaNum q.head 8 8)) .store = (.error e, u) →
           exec i s = .next (u.raise e)) ∧
         (q.refused x.cores.length = none → ∀ place u, t.translate c k (BitVec.ofNat 64 (areaNum q.head 8 8)) .store = (.ok place, u) →
           (child = true → j.region ≠ r ∨ j.state ≠ .running → exec i s = .next (scalar rd 0 u)) ∧
           ((child = true → j.region = r ∧ j.state = .running) → TakesPlace i s u c k rd r child q place)))) ∧
  (∀ (s : State) (c k : Nat), Acts s c k → ∀ (rd a : BitVec 5),
     let v := (s.cur.readX a).toNat
     (∀ j, v < 2 ^ 32 → s.job v = some j → (j.state = .queued ∨ j.state = .ready) → j.issuer = (s.core c).jobid →
       (s.cur.lq ≠ [] ∨ s.cur.sq ≠ [] ∨ s.cur.walks ≠ []) → Waits (.deq rd a 0) s) ∧
     (∀ j, v < 2 ^ 32 → s.job v = some j → (j.state = .queued ∨ j.state = .ready) → j.issuer = (s.core c).jobid →
       s.cur.lq = [] → s.cur.sq = [] → s.cur.walks = [] →
       ((s.freeSaved v j).endEntry v j 1).stop = none → Gives (.deq rd a 0) s rd 1 ((s.freeSaved v j).endEntry v j 1)) ∧
     ((2 ^ 32 ≤ v ∨ s.job v = none ∨
         ∃ j, s.job v = some j ∧ (j.state = .running ∨ j.state = .stopping ∨ j.state = .done ∨ j.issuer ≠ (s.core c).jobid)) →
       RetiresTo (.deq rd a 0) s (s.cur.pc + 4) rd 0)) ∧
  ∀ (q : Read) (cores : Nat), q.nests.length = q.nodes.length → q.nodes.length ≤ 64 →
    let found := q.refused cores
    let first (i l : Nat) : Prop := LevelInvalid q i l ∧ ∀ i' l', i' < i ∨ (i' = i ∧ l' < l) → ¬ LevelInvalid q i' l'
    let long : Prop := ∃ i, i < q.nodes.length ∧ areaNum (q.nodes.getD i []) 0 1 = 3 ∧ 2 ^ 48 ≤ nestSteps (q.nests.getD i [])
    (RecordInvalid q cores → found = some 0) ∧
    (¬ RecordInvalid q cores →
      (∀ i l, first i l → found = some l) ∧
      ((∀ i l, ¬ LevelInvalid q i l) → (long → found = some 15) ∧ (¬ long → found = none)))

/-- CTXSV and CTXLD in U mode raise PRIVILEGE (R305, R328); in S mode an index above 3 or the strand itself raises ILLEGAL_OPERAND, a
misaligned area MISALIGNED, and an area outside the probe the probe's fault; while another context word acts on the strand they wait, and
their own strand takes no interrupt. -/
def Obligations.ContextChecks : Prop :=
  ∀ (s : State) (c k : Nat), Acts s c k → ∀ (p a b : BitVec 5), p.toNat < 8 →
    ∀ (i : Instr) (len : Nat) (rd wr : Bool), (i, len, rd, wr) ∈ [(.ctxsv p a b, 103104, false, true), (.ctxld p a b, 64, true, false)] →
    let n := (s.cur.readX a).toNat
    let va := s.cur.readX b
    (s.cur.priv = .u → Raises i s (deviceFault 0x15 0 ((encode i).setWidth 64))) ∧
    (s.cur.priv = .s →
      (3 < n ∨ n = k → Raises i s (illegalOperand 1 (encode i))) ∧
      (n ≤ 3 → n ≠ k → va.toNat % 64 ≠ 0 → Raises i s (deviceFault 0x11 64 va)) ∧
      (n ≤ 3 → n ≠ k → va.toNat % 64 = 0 →
        (∀ e, probeFault (s.cur.probe p.toNat) p.toNat (encode i) va len rd wr = some e → Raises i s e) ∧
        (probeFault (s.cur.probe p.toNat) p.toNat (encode i) va len rd wr = none → s.contextBusy c k n = true → ContextWaits i s)))

namespace Sys2Proof.Claims

/-- An area `L` holds numbers, each given with its offset and its count of bytes, little-endian. -/
def Holds (L : List Byte) (l : List (Nat × Nat × Nat)) : Prop := ∀ e ∈ l, areaNum L e.1 e.2.1 = e.2.2

/-- The codes of the states of slots, copies and ports, in the orders of R27, R237 and R216. -/
def slotNumber : SlotState → Nat
  | .free => 0
  | .idle => 1
  | .spatial => 2
  | .broken => 3
  | .temporal => 4
def copyNumber : CopyState → Nat
  | .free => 0
  | .waiting => 1
  | .active => 2
  | .suspended => 3
  | .done => 4
def portNumber : PortState → Nat
  | .unbound => 0
  | .bound => 1
  | .active => 2
  | .ended => 3

/-- The sum of the marks of the registers below v`r` (R107). -/
def marksBelow (t : Strand) (r : Nat) : Nat := ((List.range r).map (SMap.get 0 t.hwm)).sum

/-- Sections 0 and 1 of R287: the scalar registers and the vector control of strand `t`. -/
def SavedScalars (t : Strand) (L : List Byte) : Prop :=
  (∀ r, r < 31 → areaNum L (64 + 8 * r) 8 = (SMap.get 0 t.x (r + 1)).toNat) ∧
  Holds L [(312, 8, t.pc.toNat), (320, 8, if t.priv = .s then 1 else 0), (328, 8, t.sstatus.toNat), (336, 8, t.sie.toNat),
    (344, 8, t.stvec.toNat), (352, 8, t.scounteren.toNat), (360, 8, t.sscratch.toNat), (368, 8, t.sepc.toNat), (376, 8, t.scause.toNat),
    (384, 8, t.stval.toNat), (392, 8, t.stimecmp.toNat), (400, 8, t.vcause.toNat), (408, 8, t.vfrec.toNat), (416, 8, t.vshcause.toNat),
    (424, 8, t.vshaddr.toNat), (432, 8, t.vtsafe.toNat), (440, 8, if t.tw then 1 else 0)] ∧
  (∀ n, n < 12 → areaNum L (448 + 8 * n) 8 = (SMap.get 0 t.events n).toNat) ∧
  Holds L [(544, 4, t.modes.i.toNat), (548, 4, t.modes.f.toNat), (552, 4, t.modes.m.toNat), (556, 4, t.modes.x.toNat), (560, 2, t.vl.toNat),
    (562, 2, t.vstart.toNat), (564, 1, t.vflags.toNat), (565, 1, t.vslip.toNat), (566, 2, 0), (568, 8, t.voorva.toNat), (632, 40, 0)] ∧
  ∀ r, r < 48 → areaNum L 576 8 / 2 ^ r % 2 = (if SMap.get false t.feClear r then 0 else 1) ∧
    areaNum L (584 + r) 1 = SMap.get 0 t.hwm r % 256

/-- Sections 2 to 5 of R287, where section 2 starts at byte 672: the slots of each register below its mark, the masks, the probes as they
stood, and the rows, which under DROP are written as FREE with the epoch raised (R158, R161). -/
def SavedVectors (t : Strand) (drop : Bool) (L : List Byte) : Prop :=
  let masks := 672 + 8 * marksBelow t 48
  let rows := masks + 3072 + 128
  (∀ r i, r < 48 → i < SMap.get 0 t.hwm r → areaNum L (672 + 8 * (marksBelow t r + i)) 8 = (SMap.get 0 t.v (128 * r + i)).toNat) ∧
  (∀ j, j < 12 → areaNum L (masks + 256 * j) 256 = (SMap.get 0 t.m j).toNat) ∧
  (∀ p, p < 8 → let x := t.probe p
    Holds L [(masks + 3072 + 16 * p, 8, x.base.toNat), (masks + 3072 + 16 * p + 8, 8,
      (if x.live then 2 ^ 63 else 0) + (if x.w then 2 ^ 62 else 0) + (if x.r then 2 ^ 61 else 0) + x.lenm1.toNat)]) ∧
  ∀ i, i < 8 → let r := t.row i
    let last : BitVec 56 := BitVec.allOnes 56
    let epoch := if (drop && r.held) = true ∧ r.epoch ≠ last then r.epoch + 1 else r.epoch
    Holds L [(rows + 16 * i, 8, r.vaddr.toNat), (rows + 16 * i + 8, 8, (if (r.held && !drop) = true then 2 ^ 63 else 0) +
      (if r.retired = true ∨ (drop = true ∧ epoch = last) then 2 ^ 62 else 0) + epoch.toNat)]

/-- The block of a node of a slot (R288, R416): of a fibre node its state word, or the payload that FLOOPC carries, then the carried token's
kind and held flag, with FLOOPC's mode and count; of any other node the x value it holds, of the two of a VINSX node that of field a (log
105). -/
def NodeSaved (y : Slot) (n o : Nat) (L : List Byte) : Prop :=
  let z := y.node n
  let x := y.rec_.node n
  let held := (z.toks.head?.map fun t => 4 + t.kind.toNat).getD 0
  if x.kind ≠ 2 then Holds L [(o, 8, ((x.xFields.head?.map fun f => SMap.get 0 y.xval (32 * n + f)).getD 0).toNat), (o + 8, 8, 0)]
  else if x.opn = 0xBB then Holds L [(o, 8, ((z.toks.head?.map fun t : Token => t.data).getD 0).toNat),
    (o + 8, 8, (held + z.reg 1 * 8 + z.reg 2 % 2 ^ 32 * 2 ^ 32) % 2 ^ 64)]
  else Holds L [(o, 8, z.reg 0 % 2 ^ 64), (o + 8, 8, held)]

/-- The block of a queue of a slot (R288): the payloads and the kinds from the head, the side band, the counts and the DONE latch, and the
queue entry word of the record. -/
def QueueSaved (q : Queue) (entry : Word) (o : Nat) (L : List Byte) : Prop :=
  let ts := tokensOf q.items
  let ss := scalesOf q.items
  (∀ i, i < 64 → areaNum L (o + 8 * i) 8 = ((ts[i]?.map fun t : Token => t.data).getD 0).toNat ∧
    areaNum L (o + 512 + i / 4) 1 / 4 ^ (i % 4) % 4 = ((ts[i]?.map fun t : Token => t.kind).getD 0).toNat) ∧
  (∀ i, i < 16 → areaNum L (o + 528 + 2 * i) 2 = (ss.getD i 0).toNat) ∧
  Holds L [(o + 560, 1, ts.length % 256), (o + 561, 1, ss.length % 256), (o + 562, 1, if q.doneLatch then 1 else 0), (o + 563, 5, 0),
    (o + 568, 8, entry.toNat)]

/-- Bytes of the blocks of a slot (R288). -/
def slotBytes (y : Slot) : Nat := 64 + 8 * y.record.length + 16 * y.rec_.nodes.length + 592 * y.rec_.queues.length

/-- The blocks of slot `m` of core `c`, from offset `o` (R288). -/
def SlotSaved (s : State) (c m o : Nat) (L : List Byte) : Prop :=
  let y := s.slot c m
  let r := y.rec_
  let nn := r.nodes.length
  let nq := r.queues.length
  let nodes := o + 64 + 8 * y.record.length
  let counts := nodes + 16 * nn
  Holds L [(o, 1, m), (o + 1, 1, slotNumber y.state), (o + 2, 1, nn % 256), (o + 3, 1, nq % 256), (o + 4, 4, y.strips.toNat),
    (o + 8, 8, y.brec.w0.toNat), (o + 16, 8, y.brec.w1.toNat), (o + 24, 8, y.brec.w2.toNat), (o + 32, 8, y.brec.w3.toNat),
    (o + 40, 4, y.modes.i.toNat), (o + 44, 4, y.modes.f.toNat), (o + 48, 4, y.modes.m.toNat), (o + 52, 4, y.modes.x.toNat),
    (o + 56, 2, y.vl % 2 ^ 16), (o + 58, 1, (if y.p then 1 else 0) + (if y.sv then 2 else 0)), (o + 59, 5, 0)] ∧
  (∀ i, i < y.record.length → areaNum L (o + 64 + 8 * i) 8 = (y.record.getD i 0).toNat) ∧
  (∀ i, i < nn → NodeSaved y i (nodes + 16 * i) L) ∧
  (∀ i, i < nq → Holds L [(counts + 16 * i, 8, SMap.get 0 y.prog (2 * i) % 2 ^ 64),
    (counts + 16 * i + 8, 8, SMap.get 0 y.prog (2 * i + 1) % 2 ^ 64)]) ∧
  ∀ i, i < nq → QueueSaved (if r.queueCore (r.entry i) < 256 then s.queue (r.queueCore (r.entry i)) (r.entry i).q else .reset)
    (y.record.getD (1 + i) 0) (counts + 16 * nq + 576 * i) L

/-- The area of strand `n` of core `c` of a state in which its chains and copies stand still (R286, R287): its header and its nine sections. Of
an MLDW or a VCBLD the command has no layout (log 30); that a port's number and state take two bytes each is log 31. -/
def AreaOf (s : State) (c n : Nat) (drop : Bool) (L : List Byte) : Prop :=
  let t := s.strand c n
  let copies := (s.core c).copies.filter fun e => e.2.strand = n && e.2.state ≠ .free
  let slots := (List.range 4).filter fun m => (s.slot c m).state ≠ .free && (s.slot c m).owner = n
  let ports := (s.core c).ports.filter fun e => e.2.state ≠ .unbound && e.2.strand = n
  let o2 := 672 + 8 * marksBelow t 48
  let o6 := o2 + 3072 + 128 + 128
  let o7 := o6 + 64 * copies.length
  let o8 := o7 + (slots.map fun m => slotBytes (s.slot c m)).sum
  L.length = o8 + 80 * ports.length ∧
  Holds L [(0, 1, 1), (1, 1, if copies = [] ∧ slots = [] ∧ ports = [] then 0 else 1), (2, 1, c), (3, 1, n), (4, 4, (s.core c).jobid.toNat),
    (8, 8, L.length), (16, 4, 64), (20, 4, 544), (24, 4, 672), (28, 4, o2), (32, 4, o2 + 3072), (36, 4, o2 + 3072 + 128), (40, 4, o6),
    (44, 4, o7), (48, 4, o8), (52, 12, 0)] ∧
  SavedScalars t L ∧ SavedVectors t drop L ∧
  (∀ m e, copies[m]? = some e → let o := o6 + 64 * m
    Holds L [(o, 1, e.1 % 256), (o + 1, 1, copyNumber e.2.state), (o + 2, 1, (e.2.status.setWidth 8).toNat), (o + 3, 5, 0),
      (o + 8, 8, (if e.2.kind = .acopy then e.2.offset else e.2.moved) % 2 ^ 64)] ∧
    (e.2.kind = .acopy → ∀ i, i < 6 → areaNum L (o + 16 + 8 * i) 8 = (e.2.w i).toNat)) ∧
  (∀ j m, slots[j]? = some m → SlotSaved s c m (o7 + ((slots.take j).map fun m => slotBytes (s.slot c m)).sum) L) ∧
  ∀ m e, ports[m]? = some e → let o := o8 + 80 * m
    (∀ i, i < 8 → areaNum L (o + 8 * i) 8 = (e.2.w i).toNat) ∧
    Holds L [(o + 64, 2, e.1 % 2 ^ 16), (o + 66, 2, portNumber e.2.state), (o + 68, 4, e.2.i0 % 2 ^ 32), (o + 72, 4, e.2.i1 % 2 ^ 32),
      (o + 76, 4, e.2.i2 % 2 ^ 32)]

/-- Strand `n` as a save leaves it (R121, R158, R161, R197, R286, R376): IDLE, with nothing under way, no reservation and no watch; its rows
let go, with their epochs raised under DROP; its probes no longer live; and the rest as it stood. -/
def PutAway (t t' : Strand) (drop bound : Bool) : Prop :=
  t' = { t with
    status := .idle
    wait := none
    resv := none
    fault := none
    fences := []
    stores := []
    request := none
    kept := false
    watches := []
    heldBy := none
    giveUp := []
    ctxSaved := bound
    rows := t'.rows
    probes := t'.probes } ∧
  (∀ i, i < 8 → let r := t.row i
    let last : BitVec 56 := BitVec.allOnes 56
    let epoch := if (drop && r.held) = true ∧ r.epoch ≠ last then r.epoch + 1 else r.epoch
    t'.row i = { r with held := false, epoch := epoch, retired := r.retired || (drop && r.held && decide (epoch = last)) }) ∧
  ∀ p, (t'.probe p).live = false ∧ (t'.probe p).pages = []

end Sys2Proof.Claims

/-- CTXSV (R286, R328): an IDLE strand raises ILLEGAL_OPERAND and a HALTED one is waited for; a strand with vector words under way, a fault
or a fence that waits is held and waited for, and a running chain of it is broken first, unless its run is over (R296). Once the strand stands
still, has no running chain and its watches can send their tokens, and the area has at most 103,104 bytes that lie apart in device memory
outside poisoned lines, CTXSV completes: the area of R287 and R288 stands in memory and no other byte has changed, its TEMPORAL slots are
BROKEN, its copies under way are SUSPENDED (R240), its rows, probes and watches are put away, and it is IDLE. The order of these actions, and
that a strand which waits at a QPOPX or a fence is saved as it stands there, are the model's reading (log 52). -/
def Obligations.ContextSave : Prop :=
  ∀ (s : State) (c k : Nat), Acts s c k → s.cur.priv = .s → ∀ (p a b : BitVec 5), p.toNat < 8 →
    let n := (s.cur.readX a).toNat
    let va := s.cur.readX b
    let x := s.cur.probe p.toNat
    let t := s.strand c n
    let i : Instr := .ctxsv p a b
    let held := s.onStrand c n fun y => { y with heldBy := some k }
    n ≤ 3 → n ≠ k → va.toNat % 64 = 0 → probeFault x p.toNat (encode i) va 103104 false true = none → s.contextBusy c k n = false →
    (t.status = .halted → ContextWaits i s) ∧
    (t.status = .idle → Raises i s (illegalOperand 1 (encode i))) ∧
    (t.status = .active ∨ t.status = .waiting →
      let still := (∀ o ∈ t.lq ++ t.aq ++ t.sq, ∃ q, t.waitingPop = some q ∧ q.pos ≤ o.pos) ∧ t.walks = [] ∧ t.fault = none ∧
        ∀ f ∈ t.fences, f.clean = true
      let now := held.beforeTrap c n
      let y := now.strand c n
      let drop := ((now.jobOf c).map (·.drop)).getD false
      let quiet := (now.dropCache c).onCore c fun r => { r with
        slots := r.slots.map fun e => (e.1, if e.2.owner = n ∧ e.2.state = .temporal then { e.2 with state := .broken, resume := false } else e.2)
        copies := r.copies.map fun e => (e.1, if e.2.strand = n ∧ (e.2.state = .waiting ∨ e.2.state = .active) then
          { e.2 with state := .suspended } else e.2) }
      let area := saveArea quiet c n drop
      (¬ still → exec i s = .next held) ∧
      (still →
        (∀ m, held.breakSlot c n = some m → exec i s = .next (held.takeBreak c n m)) ∧
        (held.breakSlot c n = none → ((s.core c).slots.any fun e => e.2.owner = n && e.2.state = .spatial) = true →
          exec i s = .next ((held.noteTime c n).onCore c fun r => { r with
            slots := r.slots.map fun e => (e.1, if e.2.owner = n ∧ e.2.state = .spatial ∧ e.2.breaking = none ∧ held.runOver c e.1 = false then
              { e.2 with breaking := some { cause := 4, node := 0, queue := 0, vcause := 0, stval := 0, pages := [], time := held.timeFor c n } }
              else e.2) })) ∧
        (held.breakSlot c n = none → ((s.core c).slots.any fun e => e.2.owner = n && e.2.state = .spatial) = false →
          (s.watchRoom c n = false → exec i s = .next held) ∧
          (s.watchRoom c n = true → c < 256 → area.1.length ≤ 103104 → ∀ spot : Nat → Tier × Nat,
            (∀ j, j < area.1.length → (∃ m, x.phys (va + BitVec.ofNat 64 j) = .dev m ∧ s.place m = some (spot j)) ∧
              now.tierPoison (spot j).1 (spot j).2 = false) →
            (∀ j j', j < area.1.length → j' < area.1.length → spot j = spot j' → j = j') →
            AreaOf quiet c n drop area.1 ∧
            ∃ saved : State, ContextEnds i s saved ∧
              (∀ j, j < area.1.length → saved.tierByte (spot j).1 (spot j).2 = area.1.getD j 0) ∧
              (∀ T o, (∀ j, j < area.1.length → spot j ≠ (T, o)) → saved.tierByte T o = now.tierByte T o) ∧
              PutAway y (saved.strand c n) drop area.2 ∧
              (saved.core c).slots = (quiet.core c).slots ∧ (saved.core c).copies = (quiet.core c).copies ∧
              (saved.core c).ports = (now.core c).ports ∧ (saved.core c).dcache = []))))

namespace Sys2Proof.Claims

/-- Strand `t` as CTXLD restores it from area `L` (R287, R289): the registers of sections 0 and 1, each where it can hold the value and as it
stood otherwise, with the full/empty bits, the marks, the slots below them, the masks and the probes, live as they stood; a row that was HELD is held
again under its epoch or given up with its epoch raised, and the other entries stand as saved. It is ACTIVE with nothing under way; SSIP stays
as it stood, which is the model's choice (log 126), and no time that a strand has read lies above its last (R274). -/
def Restored (s : State) (t v : Strand) (L : List Byte) : Prop :=
  let sec (i : Nat) : Nat := areaNum L (16 + 4 * i) 4
  let w (i : Nat) : Word := BitVec.ofNat 64 (areaNum L (sec 0 + 8 * i) 8)
  let f (o n : Nat) : Nat := areaNum L (sec 1 + o) n
  let mode (g : Nat) (old : BitVec 32) : BitVec 32 :=
    let m := f (4 * g) 4
    if 2 ^ 17 ≤ m ∨ (12 ≤ m / 2 ^ 12 % 16 ∧ m / 2 ^ 12 % 16 ≤ 14) ∨ 4 < m / 2 ^ 8 % 8 then old else BitVec.ofNat 32 m
  let mark (r : Nat) : Nat := min 128 (f (40 + r) 1)
  let before (r : Nat) : Nat := ((List.range r).map mark).sum
  let stp := w 35
  let cause := w 42
  let oorva := BitVec.ofNat 64 (f 24 8)
  v = { v with
    status := .active
    wait := none
    heldBy := none
    giveUp := []
    resv := none
    fault := none
    fences := []
    stores := []
    request := none
    kept := false
    inStep := true
    satp := t.satp
    ssip := t.ssip
    instret := t.instret
    watches := t.watches
    pc := w 31
    priv := if (w 32).getLsbD 0 then .s else .u
    sstatus := (t.sstatus &&& ~~~0xC0122#64) ||| (w 33 &&& 0xC0122#64)
    sie := w 34 &&& 0x222
    stvec := if 2 ≤ part stp 1 0 then stp &&& ~~~3#64 else stp
    scounteren := w 36 &&& 7
    sscratch := w 37
    sepc := w 38 &&& ~~~3#64
    scause := w 39
    stval := w 40
    stimecmp := w 41
    vcause := if nonzero cause 63 48 || nonzero cause 19 18 || nonzero cause 15 8 then t.vcause else cause
    vfrec := w 43
    vshcause := w 44
    vshaddr := w 45
    vtsafe := BitVec.ofNat 64 ((w 46).toNat - part (w 46) 15 5 * 2 ^ 5)
    tw := (w 47).getLsbD 0
    modes := { i := mode 0 t.modes.i, f := mode 1 t.modes.f, m := mode 2 t.modes.m, x := mode 3 t.modes.x }
    vl := if f 16 2 ≤ 2048 then BitVec.ofNat 12 (f 16 2) else t.vl
    vstart := if f 18 2 ≤ 2047 then BitVec.ofNat 11 (f 18 2) else t.vstart
    vflags := BitVec.ofNat 8 (f 20 1)
    vslip := if f 21 1 = 0 ∨ 32 < f 21 1 then t.vslip else BitVec.ofNat 6 (f 21 1)
    voorva := if nonzero oorva 43 42 then t.voorva else oorva } ∧
  (∀ r : BitVec 5, r ≠ 0 → v.readX r = w (r.toNat - 1)) ∧
  (∀ n, n < 12 → SMap.get 0 v.events n = w (48 + n)) ∧
  (∀ r, r < 48 → SMap.get false v.feClear r = decide (f 32 8 / 2 ^ r % 2 = 0) ∧ SMap.get 0 v.hwm r = mark r ∧
    ∀ i, i < mark r → SMap.get 0 v.v (128 * r + i) = BitVec.ofNat 64 (areaNum L (sec 2 + 8 * (before r + i)) 8)) ∧
  (∀ j, j < 12 → SMap.get 0 v.m j = BitVec.ofNat 2048 (areaNum L (sec 3 + 256 * j) 256)) ∧
  (∀ p, p < 8 → let ps := BitVec.ofNat 64 (areaNum L (sec 4 + 16 * p + 8) 8)
    v.probe p = { base := BitVec.ofNat 64 (areaNum L (sec 4 + 16 * p) 8), live := ps.getLsbD 63, w := ps.getLsbD 62, r := ps.getLsbD 61,
                  lenm1 := ps.setWidth 32, pages := (v.probe p).pages } ∧ (ps.getLsbD 63 = false → (v.probe p).pages = [])) ∧
  (∀ i, i < 8 → let e := BitVec.ofNat 64 (areaNum L (sec 5 + 16 * i + 8) 8)
    let r := v.row i
    let epoch : BitVec 56 := e.setWidth 56
    let last : BitVec 56 := BitVec.allOnes 56
    r.vaddr = BitVec.ofNat 64 (areaNum L (sec 5 + 16 * i) 8) ∧
    ((r.held = e.getLsbD 63 ∧ r.epoch = epoch ∧ r.retired = e.getLsbD 62) ∨
      (e.getLsbD 63 = true ∧ r.held = false ∧ r.epoch = (if epoch = last then epoch else epoch + 1) ∧
        r.retired = (e.getLsbD 62 || decide (r.epoch = last))))) ∧
  ∀ c k, (s.strand c k).lastTime ≤ v.lastTime

/-- An area that asks for no fault of CTXLD and no wait: no probe was saved live, no trap-safe range registered and no row HELD. -/
def AsksNothing (L : List Byte) : Prop :=
  let sec (i : Nat) : Nat := areaNum L (16 + 4 * i) 4
  (∀ p, p < 8 → areaNum L (sec 4 + 16 * p + 8) 8 < 2 ^ 63) ∧ areaNum L (sec 0 + 368) 8 / 2 ^ 4 % 2 = 0 ∧
  ∀ i, i < 8 → areaNum L (sec 5 + 16 * i + 8) 8 < 2 ^ 63

end Sys2Proof.Claims

/-- CTXLD (R289, R328): an area whose version or length is wrong, that the strand's job or core cannot take, or a strand that is not
IDLE, raises ILLEGAL_OPERAND; a probe or a trap-safe range that cannot be registered again raises its fault; a row without a free row
slot is waited for with the strand held; otherwise the strand's registers, modes, masks, marks, probes and rows are restored from the area and
it is ACTIVE. So it is, on the state alone, for an area outside poisoned lines that asks for no probe, no trap-safe range and no row. The order
of the actions, and what of them a failure undoes, are the model's reading (log 53). -/
def Obligations.ContextLoad : Prop :=
  ∀ (s : State) (c k : Nat), Acts s c k → s.cur.priv = .s → ∀ (p a b : BitVec 5), p.toNat < 8 →
    let n := (s.cur.readX a).toNat
    let va := s.cur.readX b
    let x := s.cur.probe p.toNat
    let i : Instr := .ctxld p a b
    n ≤ 3 → n ≠ k → va.toNat % 64 = 0 → probeFault x p.toNat (encode i) va 64 true false = none → s.contextBusy c k n = false →
    (∀ e t, s.readArea c k x va 64 = (.error e, t) → t.stop = none → exec i s = .next ((t.unhold c n).raise e)) ∧
    ∀ head t, s.readArea c k x va 64 = (.ok head, t) → t.stop = none →
    let len := areaNum head 8 8
    (areaNum head 0 1 ≠ 1 ∨ len < 4000 ∨ 103104 < len → exec i s = .next ((t.unhold c n).raise (illegalOperand 1 (encode i)))) ∧
    (areaNum head 0 1 = 1 → 4000 ≤ len → len ≤ 103104 →
      (∀ e, probeFault x p.toNat (encode i) va len true false = some e → exec i s = .next ((t.unhold c n).raise e)) ∧
      (probeFault x p.toNat (encode i) va len true false = none → ∀ e u, s.readArea c k x va len = (.error e, u) → u.stop = none →
        exec i s = .next ((u.unhold c n).raise e)) ∧
      (probeFault x p.toNat (encode i) va len true false = none → ∀ area u, s.readArea c k x va len = (.ok area, u) → u.stop = none →
        ((s.strand c n).status ≠ .idle ∨ areaNum area 4 4 ≠ (s.core c).jobid.toNat ∨ (areaNum area 1 1 % 2 = 1 ∧ areaNum area 2 1 ≠ c) →
          exec i s = .next ((u.unhold c n).raise (illegalOperand 1 (encode i)))) ∧
        ((s.strand c n).status = .idle → areaNum area 4 4 = (s.core c).jobid.toNat → (areaNum area 1 1 % 2 = 1 → areaNum area 2 1 = c) →
          (∀ e, u.loadStrand c n area (encode i) = .error e → exec i s = .next ((u.unhold c n).raise e)) ∧
          (u.loadStrand c n area (encode i) = .ok none → exec i s = .next (s.onStrand c n fun y => { y with heldBy := some k })) ∧
          ∀ v, u.loadStrand c n area (encode i) = .ok (some v) → v.stop = none → ContextEnds i s v ∧
            Restored s (s.strand c n) (v.strand c n) area))) ∧
    let at_ (m : Nat) : List Byte := (List.range m).map fun j => s.byteAt (x.phys (va + BitVec.ofNat 64 j))
    let len := areaNum (at_ 64) 8 8
    (∀ j, j < len → (∃ m, x.phys (va + BitVec.ofNat 64 j) = .dev m ∧ (s.place m).isSome = true) ∧
      s.poisonAt (x.phys (va + BitVec.ofNat 64 j)) = false) →
    areaNum (at_ 64) 0 1 = 1 → 4000 ≤ len → len ≤ 103104 → probeFault x p.toNat (encode i) va len true false = none →
    (s.strand c n).status = .idle → areaNum (at_ len) 4 4 = (s.core c).jobid.toNat →
    (areaNum (at_ len) 1 1 % 2 = 1 → areaNum (at_ len) 2 1 = c) → AsksNothing (at_ len) →
    ∃ v, ContextEnds i s v ∧ Restored s (s.strand c n) (v.strand c n) (at_ len)

/-! ## Vector words: checks and dispatch -/

namespace Sys2Proof.Claims

/-- Sets of element types (R335, R388): INT8 to UINT64, those with ACC40 read as INT40, F and FA, the matrix types, and all but FP4E2M1. -/
def int8to64 (t : Nat) : Bool := t < 8
def setI (t : Nat) : Bool := t < 8 || t = 15
def setF (t : Nat) : Bool := 11 ≤ t
def setFA (t : Nat) : Bool := 8 ≤ t
def matrixTypes : List Nat := [0, 4, 8, 9, 10, 11, 12]
def notFp4Type (t : Nat) : Bool := t != 10

/-- Bits of a type, ACC40 counting as 64 (R51, R54, R58). -/
def bitsOf (t : Nat) : Nat := [8, 16, 32, 64, 8, 16, 32, 64, 8, 8, 4, 16, 16, 32, 64, 64].getD t 64

/-- The mode register that a word of the vector space reads, 0 i, 1 f, 2 m, 3 x (R112), and the etypes and stypes that its entry accepts
(R335 to R428); none for a word of another space. -/
def typesOf : Instr → Option (Nat × (Nat → Nat → Bool))
  | .vadd .. | .vaddx .. | .vsub .. | .vsubx .. | .vrsubx .. | .vmul .. | .vmulx .. | .vmulh .. | .vmulhu .. | .vmulhx ..
  | .vmac .. | .vmacx .. | .vdiv .. | .vrem .. | .vmin .. | .vmax .. | .vminx .. | .vmaxx .. | .vand .. | .vor .. | .vxor ..
  | .vandx .. | .vorx .. | .vxorx .. | .vsll .. | .vsllx .. | .vsrl .. | .vsrlx .. | .vsra .. | .vsrax .. | .vsrar .. | .vsrarx ..
  | .vabs .. | .vneg .. | .vclz .. | .vpopc .. | .vavg .. | .viota .. | .vcmpeq .. | .vcmpne .. | .vcmplt .. | .vcmpltu ..
  | .vcmple .. | .vcmpeqx .. | .vcmpltx .. | .vcmpltux .. | .vcmplex .. | .vredsum .. | .vredmax .. | .vredmin .. | .vredand ..
  | .vredor .. | .vmtov .. => some (0, fun t _ => setI t)
  | .vdot2 .. | .vdot2x .. => some (0, fun t s => int8to64 t && int8to64 s && (decide (t < 4) == decide (s < 4)) && bitsOf t == 2 * bitsOf s)
  | .vnarrow .. => some (0, fun t s => setI t && setI s && bitsOf s == 2 * bitsOf t)
  | .vwidenl .. | .vwidenh .. => some (0, fun t s => setI t && setI s && bitsOf t == 2 * bitsOf s)
  | .vmerge .. | .vsplat .. | .vslideup .. | .vslidedn .. | .vslide1up .. | .vslide1dn .. | .vrgath .. | .vcompress ..
  | .vexpand .. | .vrev .. | .vzip .. | .vunzip .. | .vmand .. | .vmor .. | .vmxor .. | .vmnot .. | .vmpopc .. | .vmfirst ..
  | .vextx .. | .vinsx .. | .vmov .. | .vvtom .. | .qpushx .. | .qpopx .. | .qstopx .. | .qdone .. | .qpeek .. | .qdrain .. => some (0, fun _ _ => true)
  | .vfadd .. | .vfaddx .. | .vfsub .. | .vfsubx .. | .vfmul .. | .vfmulx .. | .vfmac .. | .vfmacx .. | .vfnms .. | .vfdiv ..
  | .vfsqrt .. | .vfrcp .. | .vfrsq .. | .vfmin .. | .vfmax .. | .vfrint .. | .vfexp2f .. | .vflog2f .. | .vfldexp ..
  | .vfgetexp .. | .vfcmpeq .. | .vfcmplt .. | .vfcmple .. | .vfcmpun .. | .vfredsum .. | .vfredmax .. | .vfredmin .. => some (1, fun t _ => setF t)
  | .vfabs .. | .vfneg .. | .vfclass .. => some (1, fun t _ => setFA t)
  | .vcvtif .. => some (1, fun t s => setFA t && setI s)
  | .vcvtfi .. => some (1, fun t s => setI t && setFA s)
  | .vcvtff .. => some (1, fun t s => setFA t && setFA s)
  | .vfdot2 .. => some (1, fun t s => (t == 13 || t == 15) && [8, 9, 11, 12].contains s)
  | .vld .. | .vst .. | .vstu .. | .vldt .. | .vstt .. | .vldw .. | .vstw .. | .varm .. => some (2, fun _ _ => true)
  | .vlds .. | .vldb .. | .vsts .. | .vstsu .. | .vpush .. | .vpref .. => some (2, fun t _ => notFp4Type t)
  | .vldx .. | .vstx .. | .vstxu .. | .vldtx .. | .vsttx .. => some (2, fun t s => notFp4Type t && int8to64 s)
  | .vtaddx .. | .vtcasx .. | .vtmaxx .. => some (2, fun t s => int8to64 t && int8to64 s)
  | .vataddx .. | .vatcasx .. => some (2, fun t s => [2, 3, 6, 7].contains t && int8to64 s)
  | .mldw .. | .mrelw .. | .mwaitw .. | .mstat .. | .vbscale .. | .vcbld .. | .vaccrd .. => some (3, fun _ _ => true)
  | .mrow .. => some (3, fun t _ => matrixTypes.contains t)
  | .vscacc .. => some (3, fun t s => t == 15 && (s == 15 || s == 3))
  | .vscapply .. => some (3, fun t s => setFA t && setFA s)
  | .vmxq .. => some (3, fun t s => [0, 4, 8, 9, 10].contains t && setF s)
  | .vcbdec .. => some (3, fun t _ => t == 8)
  | .fscan .. | .fscand .. | .fisect .. | .funion .. | .frept .. | .fwrc .. | .fsteer .. | .fmerge .. | .floopc .. | .fjoin ..
  | .fxlate .. | .fsink .. | .fcrd .. | .fref .. | .fpack .. | .fdrop .. | .rmatch .. => some (0, fun _ _ => true)
  | .fredc .. => some (0, fun t _ => setI t || setF t)
  | .fval .. | .fwrv .. | .fgath .. | .fscat .. => some (0, fun t _ => notFp4Type t)
  | .fhashi .. => some (0, fun t _ => notFp4Type t && bitsOf t ≤ 32)
  | _ => none

/-- The words of the fibre group, which are the words of nodes. -/
def fibreWordOf : Instr → Bool
  | .fscan .. | .fscand .. | .fisect .. | .funion .. | .frept .. | .fredc .. | .fval .. | .fwrc .. | .fwrv .. | .fsteer ..
  | .fmerge .. | .floopc .. | .fjoin .. | .fxlate .. | .fgath .. | .fscat .. | .fsink .. | .fcrd .. | .fref .. | .fpack ..
  | .fhashi .. | .fdrop .. | .rmatch .. => true
  | _ => false

/-- The mode that a strand gives the words of group `g`. -/
def modeFor (t : Strand) (g : Nat) : Mode := modeOf ([t.modes.i, t.modes.f, t.modes.m, t.modes.x].getD g 0)

/-- The types of a mode, as numbers. -/
def etype (m : Mode) : Nat := m.t.toNat
def stype (m : Mode) : Nat := m.s.toNat

end Sys2Proof.Claims

/-- Checks 2 and 4 of R305 for every word of the vector space that a strand issues: a field outside its class raises ILLEGAL_OPERAND
with the first such field; an etype or stype outside the sets of its entry raises MODE_TYPE with the group and the type refused (R95);
and a node word that passes them raises ILLEGAL_OPERAND with detail 0 (R414). -/
def Obligations.VectorWordChecks : Prop :=
  ∀ (i : Instr) (g : Nat) (ok : Nat → Nat → Bool), typesOf i = some (g, ok) → ∀ (s : State) (c k : Nat),
    Acts s c k →
    let m := modeFor s.cur g
    let w := encode i
    (∀ n, badField i.fields 0 = some n → Raises i s (illegalOperand n w)) ∧
    (badField i.fields 0 = none → ok (etype m) (stype m) = false →
      Raises i s (deviceFault 3 (256 * g + (if (List.range 16).any (ok (etype m)) then stype m else etype m)) (w.setWidth 64))) ∧
    (badField i.fields 0 = none → ok (etype m) (stype m) = true → fibreWordOf i = true → Raises i s (illegalOperand 0 w))

namespace Sys2Proof.Claims

/-- The words of the vector space that a strand dispatches: all but the node words, and MWAITW and QPOPX, which keep the strand from issuing
further (R391, R431). -/
def dispatched : Instr → Bool
  | .mwaitw .. | .qpopx .. => false
  | i => (typesOf i).isSome && !fibreWordOf i

/-- A strand's vector word passes the checks of R305. -/
def Passes (i : Instr) (t : Strand) : Prop :=
  badField i.fields 0 = none ∧ ∃ g ok, typesOf i = some (g, ok) ∧ ok (etype (modeFor t g)) (stype (modeFor t g)) = true

/-- The queue that receives a word (R20): 0 LQ, 1 AQ, 2 SQ. -/
def queueFor : Instr → Nat
  | .vld .. | .vlds .. | .vldx .. | .vldb .. | .vldt .. | .vldtx .. | .vldw .. | .vpref .. => 0
  | .vst .. | .vsts .. | .vstx .. | .vstu .. | .vstsu .. | .vstxu .. | .vstt .. | .vsttx .. | .vtaddx .. | .vtcasx .. | .vtmaxx ..
  | .vstw .. | .vataddx .. | .vatcasx .. => 2
  | _ => 1

/-- The words that a queue of a strand holds. -/
def heldIn (t : Strand) (q : Nat) : List Queued := [t.lq, t.aq, t.sq].getD q []

/-- A strand with a word appended to one of its queues, past the word and with VSTART 0. -/
def Queued_ (t : Strand) (i : Instr) : Strand :=
  let x : Queued := { word := i, pos := t.vpos, pc := t.pc, front := t.front }
  let t1 := { t with pc := t.pc + 4, instret := t.instret + 1, vstart := 0, vpos := t.vpos + 1 }
  match queueFor i with
  | 0 => { t1 with lq := t.lq ++ [x] }
  | 1 => { t1 with aq := t.aq ++ [x] }
  | _ => { t1 with sq := t.sq ++ [x] }

/-- A waiting fence that is older than the word keeps it from being performed (R180, R182). -/
def FenceHolds (i : Instr) (t : Strand) : Prop := ∃ f ∈ t.fences, f.pos ≤ t.vpos ∧ accessWord f.engine i = true

/-- No vector word of the strand waits, no fence holds the word, and every register that the word reads has its full/empty bit set (R108). -/
def Open (i : Instr) (t : Strand) : Prop :=
  t.lq = [] ∧ t.aq = [] ∧ t.sq = [] ∧ t.full (footprint i t.modes) = true ∧ ¬ FenceHolds i t

/-- No chain of the strand that a CHWAIT has not waited for since its RUN names a register or mask that the word writes, or writes one that it
names: where one does, the values are undefined (R34, R365). -/
def Apart (i : Instr) (s : State) (c k : Nat) : Prop :=
  let own := footprint i s.cur.modes
  let chain := s.chainItems c k
  (∀ x ∈ own.reads ++ own.writes, x ∉ chain.writes) ∧ ∀ x ∈ own.writes, x ∉ chain.reads

/-- The word acts as soon as the strand issues it, on values that are all defined. -/
def Ready (i : Instr) (s : State) (c k : Nat) : Prop := Open i s.cur ∧ Apart i s c k

/-- The word starts an engine operation and finds no FREE entry in the copy table (R237). -/
def NoEntry (i : Instr) (s : State) (c : Nat) : Prop :=
  (opnOf (encode i) = 0x98 ∨ opnOf (encode i) = 0xA2) ∧ ∀ n, n < 32 → (s.copy c n).state ≠ .free

/-- From its dispatch on, a word waits in its queue, past which the strand has gone, or where it finds that queue full, or no entry for its
copy, the strand waits with it. -/
def WaitsInQueue (i : Instr) (s : State) (c : Nat) : Prop :=
  (32 ≤ (heldIn s.cur (queueFor i)).length ∨ NoEntry i s c → Waits i s) ∧
  (¬ (32 ≤ (heldIn s.cur (queueFor i)).length ∨ NoEntry i s c) → exec i s = .next (s.onCur fun x => Queued_ x i))

/-- A strand past a word that has been admitted and has processed `n` elements (R25, R104, R108, R116, R279): a word of variable latency
walks its destination registers from here on. -/
def Admitted (i : Instr) (n : Nat) (t : Strand) (u : Strand) : Strand :=
  (u.accept (opnOf (encode i)) n (footprint i t.modes)).pass

end Sys2Proof.Claims

/-- Dispatch of a strand's vector words, in every operand form (R20, R23, R87, R104, R180, R237): with older words waiting, a register that
the word reads not yet full, or an older fence that holds it, the word enters LQ, AQ or SQ with what program order gives it, and the strand
goes past it; with that queue full, or without a FREE entry for its copy, it waits. Otherwise the word acts at once, on operands of any form, and the strand goes past it; where its queues or buffers are
not ready it waits in its queue; and where it faults at element e it traps precisely, with vstart e. -/
def Obligations.VectorDispatch : Prop :=
  ∀ (i : Instr) (s : State) (c k : Nat), dispatched i = true → Acts s c k → Passes i s.cur →
    let t := s.cur
    (¬ Open i t → WaitsInQueue i s c) ∧
    (Open i t →
      (∀ n s1, s.wordOf c k t.vpos i t.front = (.ok n, s1) → s1.stop = none → exec i s = .next (s1.onStrand c k (Admitted i n t))) ∧
      (∀ s1, s.wordOf c k t.vpos i t.front = (.stall, s1) → WaitsInQueue i s c) ∧
      (∀ e x s1, s.wordOf c k t.vpos i t.front = (.trap e x, s1) → s1.stop = none →
        exec i s = .next ((s1.onStrand c k fun y => { y with vstart := BitVec.ofNat 11 e }).takeTrap c k t.pc x)))

/-! ## Vector words: results -/

namespace Sys2Proof.Claims

/-- What a word reads: element `i` of a field as a type, in role 0 for d, 1 for a, 2 for b, as it stood before the word (R102, R106, R337);
an x register (R336); a bit of a mask (R111); and whether the guard is on at `i` (R113). -/
structure Reading where
  el : Nat → BitVec 6 → BitVec 4 → Nat → Nat
  x : BitVec 6 → Word
  bit : BitVec 6 → Nat → Bool
  on : Nat → Bool

/-- What strand `k` of core `c` reads, under a mode, in vector registers, and for a field that names a queue in the tokens that stand at its
head, the first of them at element `lo` (R203, R210). -/
def reading (s : State) (c k : Nat) (m : Mode) (lo : Nat) : Reading where
  el := fun role f ty i =>
    if f.toNat < 48 then readElem s (s.strand c k) role f.toNat ty i
    else ((tokensOf (s.queue c (f.toNat - 48)).items).getD (i - lo) (tVal 0)).data.toNat % 2 ^ lwidth ty
  x := fun f => (s.strand c k).x? f.toNat
  bit := fun f i => (s.strand c k).maskBit f.toNat i
  on := fun i => m.guard = 15 || ((s.strand c k).maskBit m.guard i != m.ginv)

/-- A word that processes element by element (R104, R210): its mode register, its destination, a mask or not, the type of its results, the
most elements, the fields that may name queues, whether it writes guarded-off elements too, whether scale tokens play a part in it (R208,
R209), and its result with the flags it sets. -/
structure ElementForm where
  g : Nat
  d : BitVec 6
  mask : Bool := false
  ty : Mode → BitVec 4 := fun m => m.t
  most : Mode → Nat := fun m => vlmax m.t
  srcs : List (BitVec 6)
  always : Bool := false
  scales : Bool := false
  out : Mode → Reading → Nat → Nat × FlagSet

/-- The value of the bits of an element of an integer type, ACC40 read as INT40 (R51). -/
def valueOf (t : BitVec 4) (x : Nat) : Int :=
  if t.toNat < 4 || t.toNat = 15 then (BitVec.ofNat (lwidth t) x).toInt else ((BitVec.ofNat (lwidth t) x).toNat : Int)

/-- The bits of an integer in a type, modulo 2^LW (R51). -/
def bitsIn (t : BitVec 4) (x : Int) : Nat := (BitVec.ofInt (lwidth t) x).toNat

/-- SAT of R52: with sat set a value out of range becomes the nearest bound and sets SAT; without it the low bits are kept. -/
def fitted (m : Mode) (x : Int) : Nat × FlagSet :=
  if m.sat && (x < intMin m.t || intMax m.t < x) then (bitsIn m.t (if x < 0 then intMin m.t else intMax m.t), 0x20)
  else (bitsIn m.t x, 0)

/-- An exact result that always fits. -/
def exactly (m : Mode) (x : Int) : Nat × FlagSet := (bitsIn m.t x, 0)

/-- Shapes: two vector operands; a vector operand and SCAL of an x register; three operands, d among them; one operand. -/
def two (g : Nat) (d a b : BitVec 6) (f : Mode → Nat → Nat → Nat × FlagSet) : ElementForm :=
  { g := g, d := d, srcs := [a, b], out := fun m r i => f m (r.el 1 a m.t i) (r.el 2 b m.t i) }
def twoX (g : Nat) (d a b : BitVec 6) (f : Mode → Nat → Nat → Nat × FlagSet) : ElementForm :=
  { g := g, d := d, srcs := [a], out := fun m r i => f m (r.el 1 a m.t i) ((r.x b).toNat % 2 ^ lwidth m.t) }
def three (g : Nat) (d a b : BitVec 6) (f : Mode → Nat → Nat → Nat → Nat × FlagSet) : ElementForm :=
  { g := g, d := d, srcs := [a, b], out := fun m r i => f m (r.el 0 d m.t i) (r.el 1 a m.t i) (r.el 2 b m.t i) }
def threeX (g : Nat) (d a b : BitVec 6) (f : Mode → Nat → Nat → Nat → Nat × FlagSet) : ElementForm :=
  { g := g, d := d, srcs := [a], out := fun m r i => f m (r.el 0 d m.t i) (r.el 1 a m.t i) ((r.x b).toNat % 2 ^ lwidth m.t) }
def single (g : Nat) (d a : BitVec 6) (f : Mode → Nat → Nat × FlagSet) : ElementForm :=
  { g := g, d := d, srcs := [a], out := fun m r i => f m (r.el 1 a m.t i) }

/-- A form with its truth values written to a mask. -/
def intoMask (f : ElementForm) : ElementForm := { f with mask := true }

/-- A form on integers. -/
def ints (f : Mode → Int → Int → Nat × FlagSet) : Mode → Nat → Nat → Nat × FlagSet :=
  fun m a b => f m (valueOf m.t a) (valueOf m.t b)
def truth (p : Bool) : Nat × FlagSet := (p.toNat, 0)

/-- R53: division toward zero, all ones and DZ for a zero divisor; and the remainder, the dividend and DZ for a zero divisor. -/
def quotientOf (m : Mode) (a b : Int) : Nat × FlagSet := if b = 0 then (2 ^ lwidth m.t - 1, 0x08) else fitted m (a.tdiv b)
def remainderOf (m : Mode) (a b : Int) : Nat × FlagSet := if b = 0 then (bitsIn m.t a, 0x08) else exactly m (a.tmod b)

/-- A float compare: whether the relation holds, and NV for any NaN or for a signalling one (R60, R353). -/
def relation (anyNan : Bool) (p : Option Ordering → Bool) (m : Mode) (a b : Nat) : Nat × FlagSet :=
  let x := fdecode (fmt m.t) a
  let y := fdecode (fmt m.t) b
  ((p (x.cmp y)).toNat, if (if anyNan then x.isNan || y.isNan else x.isSnan || y.isSnan) then 0x10 else 0)

/-- Two's complement of the whole width of an element (R352). -/
def wholeInt (m : Mode) (n : Nat) : Int := (BitVec.ofNat (width m.t) n).toInt

/-- The words that process element by element and reach no memory (R339 to R356, R361, R364, R397, R398). -/
def elementOf : Instr → Option ElementForm
  | .vadd d a b => some (two 0 d a b (ints fun m x y => fitted m (x + y)))
  | .vaddx d a b => some (twoX 0 d a b (ints fun m x y => fitted m (x + y)))
  | .vsub d a b => some (two 0 d a b (ints fun m x y => fitted m (x - y)))
  | .vsubx d a b => some (twoX 0 d a b (ints fun m x y => fitted m (x - y)))
  | .vrsubx d a b => some (twoX 0 d a b (ints fun m x y => fitted m (y - x)))
  | .vmul d a b => some (two 0 d a b (ints fun m x y => fitted m (x * y)))
  | .vmulx d a b => some (twoX 0 d a b (ints fun m x y => fitted m (x * y)))
  | .vmulh d a b => some (two 0 d a b (ints fun m x y => exactly m (x * y / 2 ^ lwidth m.t)))
  | .vmulhx d a b => some (twoX 0 d a b (ints fun m x y => exactly m (x * y / 2 ^ lwidth m.t)))
  | .vmulhu d a b => some (two 0 d a b fun m x y => (x * y / 2 ^ lwidth m.t, 0))
  | .vmac d a b => some (three 0 d a b fun m z x y => fitted m (valueOf m.t z + valueOf m.t x * valueOf m.t y))
  | .vmacx d a b => some (threeX 0 d a b fun m z x y => fitted m (valueOf m.t z + valueOf m.t x * valueOf m.t y))
  | .vdot2 d a b => some
      { g := 0, d := d, srcs := [], most := fun m => min (vlmax m.t) (vlmax m.s / 2),
        out := fun m r i => fitted m (valueOf m.t (r.el 0 d m.t i) +
          valueOf m.s (r.el 1 a m.s (2 * i)) * valueOf m.s (r.el 2 b m.s (2 * i)) +
          valueOf m.s (r.el 1 a m.s (2 * i + 1)) * valueOf m.s (r.el 2 b m.s (2 * i + 1))) }
  | .vdot2x d a b => some
      { g := 0, d := d, srcs := [], most := fun m => min (vlmax m.t) (vlmax m.s / 2),
        out := fun m r i => fitted m (valueOf m.t (r.el 0 d m.t i) +
          valueOf m.s (r.el 1 a m.s (2 * i)) * valueOf m.s (r.x b).toNat +
          valueOf m.s (r.el 1 a m.s (2 * i + 1)) * valueOf m.s ((r.x b).toNat / 2 ^ width m.s)) }
  | .vdiv d a b => some (two 0 d a b (ints quotientOf))
  | .vrem d a b => some (two 0 d a b (ints remainderOf))
  | .vmin d a b => some (two 0 d a b (ints fun m x y => exactly m (min x y)))
  | .vminx d a b => some (twoX 0 d a b (ints fun m x y => exactly m (min x y)))
  | .vmax d a b => some (two 0 d a b (ints fun m x y => exactly m (max x y)))
  | .vmaxx d a b => some (twoX 0 d a b (ints fun m x y => exactly m (max x y)))
  | .vand d a b => some (two 0 d a b fun _ x y => (x &&& y, 0))
  | .vandx d a b => some (twoX 0 d a b fun _ x y => (x &&& y, 0))
  | .vor d a b => some (two 0 d a b fun _ x y => (x ||| y, 0))
  | .vorx d a b => some (twoX 0 d a b fun _ x y => (x ||| y, 0))
  | .vxor d a b => some (two 0 d a b fun _ x y => (x ^^^ y, 0))
  | .vxorx d a b => some (twoX 0 d a b fun _ x y => (x ^^^ y, 0))
  | .vsll d a b => some (two 0 d a b fun m x y => fitted m (valueOf m.t x * 2 ^ (y % width m.t)))
  | .vsllx d a b => some (twoX 0 d a b fun m x y => fitted m (valueOf m.t x * 2 ^ (y % width m.t)))
  | .vsrl d a b => some (two 0 d a b fun m x y => (x / 2 ^ (y % width m.t), 0))
  | .vsrlx d a b => some (twoX 0 d a b fun m x y => (x / 2 ^ (y % width m.t), 0))
  | .vsra d a b => some (two 0 d a b fun m x y => exactly m (valueOf m.t x / 2 ^ (y % width m.t)))
  | .vsrax d a b => some (twoX 0 d a b fun m x y => exactly m (valueOf m.t x / 2 ^ (y % width m.t)))
  | .vsrar d a b => some (two 0 d a b fun m x y => fitted m (rndInt m.rnd (valueOf m.t x) (y % width m.t)))
  | .vsrarx d a b => some (twoX 0 d a b fun m x y => fitted m (rndInt m.rnd (valueOf m.t x) (y % width m.t)))
  | .vnarrow d a b => some
      { g := 0, d := d, srcs := [a], most := fun m => vlmax m.s,
        out := fun m r i => fitted m (rndInt m.rnd (valueOf m.s (r.el 1 a m.s i)) ((r.x b).toNat % width m.s)) }
  | .vwidenl d a _ => some { g := 0, d := d, srcs := [a], out := fun m r i => exactly m (valueOf m.s (r.el 1 a m.s i)) }
  | .vwidenh d a _ => some { g := 0, d := d, srcs := [], out := fun m r i => exactly m (valueOf m.s (r.el 1 a m.s (i + vlmax m.t))) }
  | .vabs d a _ => some (single 0 d a fun m x => fitted m (max (valueOf m.t x) (-valueOf m.t x)))
  | .vneg d a _ => some (single 0 d a fun m x => fitted m (-valueOf m.t x))
  | .vclz d a _ => some (single 0 d a fun m x =>
      (((List.range (lwidth m.t)).takeWhile fun j => !(x.testBit (lwidth m.t - 1 - j))).length, 0))
  | .vpopc d a _ => some (single 0 d a fun m x => (((List.range (lwidth m.t)).filter fun j => x.testBit j).length, 0))
  | .vavg d a b => some (two 0 d a b (ints fun m x y => exactly m (rndInt m.rnd (x + y) 1)))
  | .vmerge d a b => some
      { g := 0, d := d, srcs := [a, b], always := true, out := fun m r i => (if r.on i then r.el 1 a m.t i else r.el 2 b m.t i, 0) }
  | .vsplat d a _ => some { g := 0, d := d, srcs := [], out := fun m r _ => ((r.x a).toNat % 2 ^ lwidth m.t, 0) }
  | .vmov d a _ => some (single 0 d a fun _ x => (x, 0))
  | .vmtov d a _ => some { g := 0, d := d, srcs := [], out := fun _ r i => ((r.bit a i).toNat, 0) }
  | .vvtom d a _ => some (intoMask (single 0 d a fun _ x => truth (x != 0)))
  | .vcmpeq d a b => some (intoMask (two 0 d a b (ints fun _ x y => truth (decide (x = y)))))
  | .vcmpeqx d a b => some (intoMask (twoX 0 d a b (ints fun _ x y => truth (decide (x = y)))))
  | .vcmpne d a b => some (intoMask (two 0 d a b (ints fun _ x y => truth (decide (x ≠ y)))))
  | .vcmplt d a b => some (intoMask (two 0 d a b (ints fun _ x y => truth (decide (x < y)))))
  | .vcmpltx d a b => some (intoMask (twoX 0 d a b (ints fun _ x y => truth (decide (x < y)))))
  | .vcmpltu d a b => some (intoMask (two 0 d a b fun _ x y => truth (decide (x < y))))
  | .vcmpltux d a b => some (intoMask (twoX 0 d a b fun _ x y => truth (decide (x < y))))
  | .vcmple d a b => some (intoMask (two 0 d a b (ints fun _ x y => truth (decide (x ≤ y)))))
  | .vcmplex d a b => some (intoMask (twoX 0 d a b (ints fun _ x y => truth (decide (x ≤ y)))))
  | .vmand d a b => some { g := 0, d := d, mask := true, srcs := [], out := fun _ r i => truth (r.bit a i && r.bit b i) }
  | .vmor d a b => some { g := 0, d := d, mask := true, srcs := [], out := fun _ r i => truth (r.bit a i || r.bit b i) }
  | .vmxor d a b => some { g := 0, d := d, mask := true, srcs := [], out := fun _ r i => truth (r.bit a i != r.bit b i) }
  | .vmnot d a _ => some { g := 0, d := d, mask := true, srcs := [], out := fun _ r i => truth (!r.bit a i) }
  | .vfadd d a b => some (two 1 d a b fun m x y => fadd (fmt m.t) m.rnd m.sat x y)
  | .vfaddx d a b => some (twoX 1 d a b fun m x y => fadd (fmt m.t) m.rnd m.sat x y)
  | .vfsub d a b => some (two 1 d a b fun m x y => fsub (fmt m.t) m.rnd m.sat x y)
  | .vfsubx d a b => some (twoX 1 d a b fun m x y => fsub (fmt m.t) m.rnd m.sat x y)
  | .vfmul d a b => some (two 1 d a b fun m x y => fmul (fmt m.t) m.rnd m.sat x y)
  | .vfmulx d a b => some (twoX 1 d a b fun m x y => fmul (fmt m.t) m.rnd m.sat x y)
  | .vfmac d a b => some (three 1 d a b fun m z x y => fmac (fmt m.t) m.rnd m.sat z x y)
  | .vfmacx d a b => some (threeX 1 d a b fun m z x y => fmac (fmt m.t) m.rnd m.sat z x y)
  | .vfnms d a b => some (three 1 d a b fun m z x y => fnms (fmt m.t) m.rnd m.sat z x y)
  | .vfdiv d a b => some (two 1 d a b fun m x y => fdiv (fmt m.t) m.rnd m.sat x y)
  | .vfsqrt d a _ => some (single 1 d a fun m x => fsqrt (fmt m.t) m.rnd m.sat x)
  | .vfrcp d a _ => some (single 1 d a fun m x => frcp (fmt m.t) m.rnd m.sat x)
  | .vfrsq d a _ => some (single 1 d a fun m x => frsq (fmt m.t) m.rnd x)
  | .vfmin d a b => some (two 1 d a b fun m x y => fminmax (fmt m.t) false x y)
  | .vfmax d a b => some (two 1 d a b fun m x y => fminmax (fmt m.t) true x y)
  | .vfabs d a _ => some (single 1 d a fun m x => (x % 2 ^ ((fmt m.t).w - 1), 0))
  | .vfneg d a _ => some (single 1 d a fun m x => (x ^^^ 2 ^ ((fmt m.t).w - 1), 0))
  | .vfrint d a _ => some (single 1 d a fun m x => frint (fmt m.t) m.rnd x)
  | .vfexp2f d a _ => some (single 1 d a fun m x => fexp2 (fmt m.t) m.rnd x)
  | .vflog2f d a _ => some (single 1 d a fun m x => flog2 (fmt m.t) m.rnd x)
  | .vfldexp d a b => some
      { g := 1, d := d, srcs := [a, b],
        out := fun m r i => fldexp (fmt m.t) m.rnd m.sat (r.el 1 a m.t i) (wholeInt m (r.el 2 b (if m.t = 15 then 3 else m.t) i)) }
  | .vfgetexp d a _ => some (single 1 d a fun m x => fgetexp (fmt m.t) x)
  | .vfcmpeq d a b => some (intoMask (two 1 d a b (relation false fun r => r == some .eq)))
  | .vfcmplt d a b => some (intoMask (two 1 d a b (relation true fun r => r == some .lt)))
  | .vfcmple d a b => some (intoMask (two 1 d a b (relation true fun r => r == some .lt || r == some .eq)))
  | .vfcmpun d a b => some (intoMask (two 1 d a b (relation false fun r => r == none)))
  | .vfclass d a _ => some (single 1 d a fun m x => (fclass (fmt m.t) x, 0))
  | .vcvtif d a _ => some
      { g := 1, d := d, srcs := [a], most := fun m => min (vlmax m.t) (vlmax m.s),
        out := fun m r i => cvtIF (fmt m.t) m.rnd m.sat (valueOf m.s (r.el 1 a m.s i)) }
  | .vcvtfi d a _ => some
      { g := 1, d := d, srcs := [a], most := fun m => min (vlmax m.t) (vlmax m.s),
        out := fun m r i => cvtFI (fmt m.s) m.t m.rnd m.sat (r.el 1 a m.s i) }
  | .vcvtff d a _ => some
      { g := 1, d := d, srcs := [a], most := fun m => min (vlmax m.t) (vlmax m.s),
        out := fun m r i => cvtFF (fmt m.s) (fmt m.t) m.rnd m.sat (r.el 1 a m.s i) }
  | .vfdot2 d a b => some
      { g := 1, d := d, srcs := [], most := fun m => min (vlmax m.t) (vlmax m.s / 2),
        out := fun m r i => fdot2 (fmt m.t) (fmt m.s) m.rnd m.sat (r.el 0 d m.t i) (r.el 1 a m.s (2 * i)) (r.el 2 b m.s (2 * i))
          (r.el 1 a m.s (2 * i + 1)) (r.el 2 b m.s (2 * i + 1)) }
  | .vscacc d a b => some
      { g := 3, d := d, ty := fun _ => 15, most := fun _ => 128, srcs := [a], scales := true,
        out := fun m r i =>
          let p := r.el 2 b 7 (i % 128)
          (if m.s = 3 then scaleAccInt else scaleAccumulate) m.rnd m.sat (r.el 0 d 15 i) (r.el 1 a 15 i) (p % 256) (p / 256 % 256) }
  | .vscapply d a b => some
      { g := 3, d := d, most := fun m => min (vlmax m.s) (vlmax m.t), srcs := [a],
        out := fun m r i =>
          let k := r.el 2 b 4 (i / 32)
          if k = 255 then (if m.t.toNat < 8 then nanInt m else nanScaled m.t) else scaledTo m ((k : Int) - 127) (r.el 1 a m.s i) }
  | .vmxq d a b => some
      { g := 3, d := d, most := fun m => min (vlmax m.s) (vlmax m.t), srcs := [a], scales := true,
        out := fun m r i =>
          let k := r.el 2 b 4 (i / 32)
          if k = 255 then (if m.t.toNat < 8 then nanInt m else nanScaled m.t) else scaledTo m (127 - (k : Int)) (r.el 1 a m.s i) }
  | _ => none

/-- A queue feeds `n` elements: a strand may pop them (R212), and VAL tokens stand at its head, either `n` of them or as many as come before a
STOP or DONE (R210). -/
def valsOf (q : Queue) : Nat := ((tokensOf q.items).takeWhile fun t => t.kind = 0).length
def Feeds (q : Queue) (n : Nat) : Prop :=
  q.owner = none ∧ q.n = 0 ∧ n ≤ q.d ∧ (n ≤ valsOf q ∨ ∃ t, (tokensOf q.items)[valsOf q]? = some t ∧ (t.kind = 1 ∨ t.kind = 2))

/-- A queue takes `n` tokens of a strand. -/
def Takes (s : State) (c q n : Nat) : Prop :=
  (s.queue c q).owner = none ∧ n ≤ (s.queue c q).d ∧ (s.queue c q).doneLatch = false ∧
    n ≤ (s.queue c q).d - (s.queue c q).held - airborne (s.core c).flights q

/-- From `s` to `u`, register `r` of a strand has been written as type `ty`: elements from `lo` on take the values that `xs` gives, every
other element below both marks keeps its own, the high-water mark is `mark` (R104, R105, R106), and no other register has changed. -/
def WroteVec (s u : State) (c k r : Nat) (ty : BitVec 4) (lo : Nat) (xs : List (Option Nat)) (mark : Nat) : Prop :=
  (u.strand c k).mark r = mark ∧
  (∀ j role, j * width ty / 64 < mark →
    match (if lo ≤ j then xs.getD (j - lo) none else none) with
    | some v => readElem u (u.strand c k) role r ty j = v % 2 ^ lwidth ty
    | none => j * width ty / 64 < (s.strand c k).mark r → readElem u (u.strand c k) role r ty j = readElem s (s.strand c k) role r ty j) ∧
  ∀ r', r' ≠ r → (u.strand c k).mark r' = (s.strand c k).mark r' ∧
    ∀ sl, sl < 128 → SMap.get 0 (u.strand c k).v (128 * r' + sl) = SMap.get 0 (s.strand c k).v (128 * r' + sl)

/-- The bits of mask `r` from `lo` on take what `xs` gives, and no other bit of a mask changes. -/
def WroteMask (s u : State) (c k r lo : Nat) (xs : List (Option Nat)) : Prop :=
  ∀ r' j, j < 2048 → (u.strand c k).maskBit r' j =
    match (if r' = r ∧ lo ≤ j then xs.getD (j - lo) none else none) with
    | some v => v % 2 == 1
    | none => (s.strand c k).maskBit r' j

/-- No vector register has changed, and no mask. -/
def SameVectors (a b : Strand) : Prop := b.v = a.v ∧ b.hwm = a.hwm
def SameMasks (a b : Strand) : Prop := b.m = a.m

/-- A strand past a vector word that has processed `n` elements, of type `ty` from `lo` on (R104, R116, R279): of what is not a vector
register or a mask, its pc, VSTART, counts and flags have changed, and for a word of variable latency its walks. -/
def PastWord (i : Instr) (ty : BitVec 4) (lo n : Nat) (flags : FlagSet) (a b : Strand) : Prop :=
  b = { a with
    pc := a.pc + 4, instret := a.instret + 1, vstart := 0, vpos := a.vpos + 1, vflags := a.vflags ||| flags, v := b.v, hwm := b.hwm,
    m := b.m, events := b.events, walks := (Admitted i n a a).walks, feClear := (Admitted i n a a).feClear } ∧
  ∀ e, SMap.get 0 b.events e = SMap.get 0 a.events e +
    (if e = 2 then 1 else if e = 3 ∧ 0 < n then BitVec.ofNat 64 (((lo + n) * width ty + 63) / 64 - lo * width ty / 64) else 0)

/-- Flags of a list of results. -/
def allFlags (l : List (Nat × FlagSet)) : FlagSet := l.foldl (fun f x => f ||| x.2) 0

end Sys2Proof.Claims

/-- Every word that processes element by element and reaches no memory (R104, R105, R111, R210, R335 to R356, R361, R364, R397, R398),
in register forms and in queue forms: on a strand that may run it, elements VSTART to L − 1 with the guard on take the word's result, of
the operands as they stood before it; L is the least of VL, the entry's bound and, with a queue, what the queue holds before a stop.
Flags are gathered, a source queue gives one token to each element, and a queue destination receives one VAL for each, 0 where the guard
is off; where a stop leaves no element, a destination register takes the mark of VSTART elements (R104, R210). Nothing else changes. -/
def Obligations.ElementWordResults : Prop :=
  ∀ (i : Instr) (f : ElementForm), elementOf i = some f → ∀ (s : State) (c k : Nat), Acts s c k → c < 256 →
    Passes i s.cur → Ready i s c k →
    let m := modeFor s.cur f.g
    let lo := s.cur.vstart.toNat
    let n0 := min s.cur.vl.toNat (f.most m) - lo
    let qs := f.srcs.filter fun q => 48 ≤ q.toNat
    let toQueue : Bool := !f.mask && 48 ≤ f.d.toNat
    (f.scales = true → qs = [] ∧ toQueue = false) →
    (∀ q ∈ qs, Feeds (s.queue c (q.toNat - 48)) n0) →
    (toQueue = true → Takes s c (f.d.toNat - 48) n0) →
    let n := qs.foldl (fun n q => min n (valsOf (s.queue c (q.toNat - 48)))) n0
    let r := reading s c k m lo
    let res := (List.range n).map fun j => if f.always || r.on (lo + j) then some (f.out m r (lo + j)) else none
    ∃ u, exec i s = .next u ∧ OnlyCoreStrand c k s u ∧
      PastWord i (if f.mask then m.t else f.ty m) lo n (allFlags (res.filterMap id)) s.cur (u.strand c k) ∧
      u.core c = { s.core c with queues := (u.core c).queues } ∧
      (∀ q, tokensOf (u.queue c q).items =
          (tokensOf (s.queue c q).items).drop (if qs.any (fun x => x.toNat = 48 + q) then n else 0) ++
            (if toQueue && f.d.toNat = 48 + q then res.map fun x => tVal (x.elim 0 (·.1)) else []) ∧
        u.queue c q =
          { s.queue c q with items := (u.queue c q).items, gram := (u.queue c q).gram, wdRun := (u.queue c q).wdRun }) ∧
      (qs = [] → toQueue = false → (u.core c).queues = (s.core c).queues) ∧
      (if n0 = 0 ∨ toQueue = true then SameVectors s.cur (u.strand c k) ∧ SameMasks s.cur (u.strand c k)
        else if f.mask then SameVectors s.cur (u.strand c k) ∧ WroteMask s u c k f.d.toNat lo (res.map fun x => x.map (·.1))
        else SameMasks s.cur (u.strand c k) ∧
          WroteVec s u c k f.d.toNat (f.ty m) lo (res.map fun x => x.map (·.1)) (((lo + n) * width (f.ty m) + 63) / 64))

namespace Sys2Proof.Claims

/-- A strip-bound word (R211, R338): its mode register, its destination, the fields that may name queues, and what a strip from `lo` to `L`
gives: the first element written, the elements from there on, the flags, and the slots that the destination then holds. -/
structure StripForm where
  g : Nat
  d : BitVec 6
  srcs : List (BitVec 6)
  out : Mode → Reading → Nat → Nat → Nat × List (Option Nat) × FlagSet × Nat

/-- The indices of a strip. -/
def indices (lo L : Nat) : List Nat := (List.range (L - lo)).map (lo + ·)

/-- A word whose element `i`, with the guard on, takes `f i`, where it is written at all. -/
def permuting (d : BitVec 6) (srcs : List (BitVec 6)) (f : Mode → Reading → Nat → Nat → Option Nat) : StripForm :=
  { g := 0, d := d, srcs := srcs,
    out := fun m r lo L => (lo, (indices lo L).map fun i => if r.on i then f m r L i else none, 0, slotsOf m.t L) }

/-- A reduction (R76, R360): of B0 and the elements of a from VSTART on with the guard on, in ascending order, into element 0. -/
def reducing (g : Nat) (d a b : BitVec 6) (f : Mode → Nat → List (Option Nat) → Nat × FlagSet) : StripForm :=
  { g := g, d := d, srcs := [a],
    out := fun m r lo L =>
      let (x, fl) := f m (r.el 2 b m.t 0) ((List.range L).map fun i => if lo ≤ i && r.on i then some (r.el 1 a m.t i) else none)
      (0, [some x], fl, 1) }

/-- A float reduction: the tree of R76 over the elements, then B0; with no element, B0 itself. -/
def treeing (d a b : BitVec 6) (f : Mode → Nat → Nat → Nat × FlagSet) : StripForm :=
  reducing 1 d a b fun m b0 l =>
    match pairTree (f m) 11 l with
    | (none, _) => (b0, 0)
    | (some x, fl) => ((f m x b0).1, fl ||| (f m x b0).2)

/-- The strip-bound words (R347, R357 to R360). -/
def stripOf : Instr → Option StripForm
  | .viota d a _ => some
      { g := 0, d := d, srcs := [],
        out := fun m r lo L =>
          let xs := (indices lo L).map fun i =>
            if r.on i then some (fitted m ((List.range i).filter fun j => r.bit a j).length) else none
          (lo, xs.map fun x => x.map (·.1), allFlags (xs.filterMap id), slotsOf m.t L) }
  | .vslideup d a b => some (permuting d [a] fun m r _ i => if (r.x b).toNat ≤ i then some (r.el 1 a m.t (i - (r.x b).toNat)) else none)
  | .vslidedn d a b => some (permuting d [a] fun m r L i =>
      let n := i + (r.x b).toNat
      some (if n < (if a.toNat < 48 then vlmax m.t else L) then r.el 1 a m.t n else 0))
  | .vslide1up d a b => some (permuting d [a] fun m r _ i =>
      some (if i = 0 then (r.x b).toNat % 2 ^ lwidth m.t else r.el 1 a m.t (i - 1)))
  | .vslide1dn d a b => some (permuting d [a] fun m r L i =>
      some (if i + 1 = L then (r.x b).toNat % 2 ^ lwidth m.t else r.el 1 a m.t (i + 1)))
  | .vrgath d a b => some (permuting d [a, b] fun m r L i =>
      let n := r.el 2 b m.t i
      some (if n < (if a.toNat < 48 then vlmax m.t else L) then r.el 1 a m.t n else 0))
  | .vrev d a _ => some (permuting d [a] fun m r L i => some (r.el 1 a m.t (L - 1 - i)))
  | .vzip d a b => some (permuting d [] fun m r _ i => some (if i % 2 = 0 then r.el 1 a m.t (i / 2) else r.el 2 b m.t (i / 2)))
  | .vunzip d a b => some (permuting d [] fun m r _ i =>
      let n := 2 * i + (r.x b).toNat % 2
      some (if n < vlmax m.t then r.el 1 a m.t n else 0))
  | .vcompress d a b => some
      { g := 0, d := d, srcs := [a],
        out := fun m r lo L =>
          let picked (l : List Nat) : List Nat := l.filter fun i => r.bit b i && r.on i
          ((picked (List.range lo)).length, (picked (indices lo L)).map fun i => some (r.el 1 a m.t i), 0, slotsOf m.t L) }
  | .vexpand d a b => some
      { g := 0, d := d, srcs := [],
        out := fun m r lo L =>
          let picked (i : Nat) : Bool := r.bit b i && r.on i
          (lo, (indices lo L).map fun i =>
            if picked i then some (r.el 1 a m.t ((List.range i).filter picked).length) else none, 0, slotsOf m.t L) }
  | .vredsum d a b => some (reducing 0 d a b fun m z l => fitted m (valueOf m.t z + ((l.filterMap id).map (valueOf m.t)).sum))
  | .vredmax d a b => some (reducing 0 d a b fun m z l => exactly m ((l.filterMap id).foldl (fun x y => max x (valueOf m.t y)) (valueOf m.t z)))
  | .vredmin d a b => some (reducing 0 d a b fun m z l => exactly m ((l.filterMap id).foldl (fun x y => min x (valueOf m.t y)) (valueOf m.t z)))
  | .vredand d a b => some (reducing 0 d a b fun _ z l => ((l.filterMap id).foldl (· &&& ·) z, 0))
  | .vredor d a b => some (reducing 0 d a b fun _ z l => ((l.filterMap id).foldl (· ||| ·) z, 0))
  | .vfredsum d a b => some (treeing d a b fun m x y => fadd (fmt m.t) m.rnd m.sat x y)
  | .vfredmax d a b => some (treeing d a b fun m x y => fminmax (fmt m.t) true x y)
  | .vfredmin d a b => some (treeing d a b fun m x y => fminmax (fmt m.t) false x y)
  | _ => none

end Sys2Proof.Claims

/-- The strip-bound words on registers (R211, R347, R357 to R360): with VSTART below L = min(VL, VLMAX) the strip is computed from the
operands as they stood, its elements are written, and the destination holds the slots that the entry says; with VSTART at or above L
nothing is written. In both cases the strand goes past the word, and nothing else changes. (With a queue operand they run as
VectorDispatch states.) -/
def Obligations.StripWordResults : Prop :=
  ∀ (i : Instr) (f : StripForm), stripOf i = some f → ∀ (s : State) (c k : Nat), Acts s c k → Passes i s.cur → Ready i s c k →
    f.d.toNat < 48 → (∀ q ∈ f.srcs, q.toNat < 48) →
    let m := modeFor s.cur f.g
    let lo := s.cur.vstart.toNat
    let L := min s.cur.vl.toNat (vlmax m.t)
    let r := f.out m (reading s c k m lo) lo L
    ∃ u, exec i s = .next u ∧ OnlyStrand c k s u ∧ SameMasks s.cur (u.strand c k) ∧
      PastWord i m.t lo (L - lo) (if lo < L then r.2.2.1 else 0) s.cur (u.strand c k) ∧
      (if lo < L then WroteVec s u c k f.d.toNat m.t r.1 r.2.1 r.2.2.2 else SameVectors s.cur (u.strand c k))

namespace Sys2Proof.Claims

/-- The vector words that write an x register from masks or elements, and what they write: VMPOPC, VMFIRST and VEXTX (R362, R363). -/
def intoX (s : State) (c k : Nat) : Instr → Option (BitVec 6 × Word)
  | .vmpopc d a _ =>
    let m := modeFor (s.strand c k) 0
    let r := reading s c k m 0
    some (d, BitVec.ofNat 64 ((indices (s.strand c k).vstart.toNat (min (s.strand c k).vl.toNat (vlmax m.t))).filter
      fun i => r.bit a i && r.on i).length)
  | .vmfirst d a _ =>
    let m := modeFor (s.strand c k) 0
    let r := reading s c k m 0
    some (d, match (indices (s.strand c k).vstart.toNat (min (s.strand c k).vl.toNat (vlmax m.t))).find? fun i => r.bit a i && r.on i with
      | some i => BitVec.ofNat 64 i
      | none => BitVec.allOnes 64)
  | .vextx d a b =>
    let m := modeFor (s.strand c k) 0
    let r := reading s c k m 0
    let i := (r.x b).toNat
    some (d, if i < vlmax m.t then
        (if m.t.toNat < 8 ∨ m.t.toNat = 15 then BitVec.ofInt 64 (valueOf m.t (r.el 1 a m.t i)) else BitVec.ofNat 64 (r.el 1 a m.t i))
      else 0)
  | _ => none

end Sys2Proof.Claims

namespace Sys2Proof.Claims

/-- A waiting fence that is younger than program position `pos`, with x register `r` of what a trap at it gives back at `v` (R320). -/
def withFrontX (pos r : Nat) (v : Word) (f : Fence) : Fence :=
  if r = 0 ∨ f.pos ≤ pos then f else { f with front := { f.front with x := SMap.set 0 f.front.x r v } }

end Sys2Proof.Claims

/-- VMPOPC, VMFIRST and VEXTX write an x register, also with VSTART at or above L (R362, R363); VINSX replaces element x[b] of its
register where the guard allows it, and the register's mark rises at most to the element's slot (R363). Nothing else changes. -/
def Obligations.MaskCountsAndElements : Prop :=
  ∀ (s : State) (c k : Nat), Acts s c k →
    (∀ i d v, intoX s c k i = some (d, v) → Passes i s.cur → Ready i s c k →
      ∃ u, exec i s = .next u ∧ OnlyStrand c k s u ∧ SameVectors s.cur (u.strand c k) ∧ SameMasks s.cur (u.strand c k) ∧
        ∃ ev, u.strand c k =
          { s.cur with x := (u.strand c k).x, events := ev, pc := s.cur.pc + 4, instret := s.cur.instret + 1, vstart := 0,
                       vpos := s.cur.vpos + 1, fences := s.cur.fences.map (withFrontX s.cur.vpos d.toNat v) } ∧
          (∀ e, e ≠ 3 → SMap.get 0 ev e = SMap.get 0 s.cur.events e + if e = 2 then 1 else 0) ∧
          ∀ r : BitVec 5, (u.strand c k).readX r = if r.setWidth 6 = d ∧ r ≠ 0 then v else s.cur.readX r) ∧
    ∀ (d a b : BitVec 6), Passes (.vinsx d a b) s.cur → Ready (.vinsx d a b) s c k →
      let m := modeFor s.cur 0
      let j := (s.cur.x? b.toNat).toNat
      let go : Bool := decide (j < vlmax m.t) && (reading s c k m 0).on j
      ∃ u, exec (.vinsx d a b) s = .next u ∧ OnlyStrand c k s u ∧ SameMasks s.cur (u.strand c k) ∧
        PastWord (.vinsx d a b) m.t j (if go then 1 else 0) 0 s.cur (u.strand c k) ∧
        (go = false → SameVectors s.cur (u.strand c k)) ∧
        (go = true → WroteVec s u c k d.toNat m.t j [some ((s.cur.x? a.toNat).toNat % 2 ^ lwidth m.t)]
          (max (s.cur.mark d.toNat) (j * width m.t / 64 + 1)))

/-! ## Vector memory words -/

namespace Sys2Proof.Claims

/-- Where an element lies: in memory, at a virtual address that its probe or row places, or in a tile, at an offset (R366, R371, R373). -/
inductive Lies where
  | mem (va : Word) (q : Phys)
  | tile (h : Word) (off : Int)

/-- A word of the memory group as strand `k` of core `c` finds it: its register, its length, the checks that come before any element, the
check of an element, where it lies, and whether one unit is read once for all of them (R367, R371 to R373). -/
structure MemForm where
  d : BitVec 6
  L : Nat
  first : TileCheck
  check : Nat → Option Exc
  spot : Nat → Lies
  once : Bool := false

/-- Bytes of an element, and its alignment (R366). -/
def elemBytes (t : BitVec 4) : Nat := max (width t / 8) 1

/-- A word through a probe: element `i` at `va i`, checked for alignment and against the probe (R367, R368). -/
def probed (s : State) (c k : Nat) (i : Instr) (d p : BitVec 6) (L : Nat) (rd wr : Bool) (first : TileCheck) (va : Nat → Word) : MemForm :=
  let t := (modeFor (s.strand c k) 2).t
  let x := (s.strand c k).probe p.toNat
  { d := d, L := L, first := first,
    check := fun j =>
      if (va j).toNat % elemBytes t ≠ 0 then some (deviceFault 0x11 (elemBytes t) (va j))
      else probeFault x p.toNat (encode i) (va j) (elemBytes t) rd wr,
    spot := fun j => .mem (va j) (x.phys (va j)) }

/-- A word on a tile: the handle is current, its elements are as wide as the type, and its state lets the access happen (R371). -/
def tiled (s : State) (c k : Nat) (i : Instr) (d : BitVec 6) (h : Word) (L : Nat) (gate : HState → Gate) (first : TileCheck)
    (off : Nat → Int) : MemForm :=
  let t := (modeFor (s.strand c k) 2).t
  { d := d, L := L,
    first := match first with
      | .bad x => .bad x
      | _ => s.tileCheck c h (width t) (deviceFault 3 (512 + t.toNat) ((encode i).setWidth 64)) gate,
    check := fun _ => none, spot := fun j => .tile h (off j) }

/-- A word on a held row (R373). -/
def onRow (s : State) (c k : Nat) (i : Instr) (d : BitVec 6) (h off : Word) (write : Bool) : MemForm :=
  let st := s.strand c k
  let t := (modeFor st 2).t
  let r := st.row (part h 2 0)
  let L := min st.vl.toNat (vlmax t)
  { d := d, L := L,
    first :=
      if !st.rowOk h then .bad (st.rowLost h (off + BitVec.ofNat 64 (st.vstart.toNat * width t / 8)))
      else if off.toNat % elemBytes t ≠ 0 then .bad (deviceFault 0x11 (elemBytes t) (r.vaddr + off))
      else if st.vstart.toNat < L && 1024 < off.toNat + (L * width t + 7) / 8 then .bad (illegalOperand 2 (encode i))
      else if write && !r.w then .bad (deviceFault 7 1 (r.vaddr + off))
      else .ok,
    check := fun _ => none,
    spot := fun j => .mem (r.vaddr + off + BitVec.ofNat 64 (j * width t / 8)) (.dev (r.phys + off.toNat + j * width t / 8)) }

/-- The loads, the stores with whether they are ordered, and the atomics with the new value of a location from its old value, the element of
vd and that of v(d+1) (R190, R367, R371 to R373). -/
inductive MemKind where
  | load
  | store (ordered : Bool)
  | atomic (f : Mode → Nat → Nat → Nat → Nat × FlagSet)

/-- The words of the memory group that reach elements. -/
def memOf (s : State) (c k : Nat) (i : Instr) : Option (MemKind × MemForm) :=
  let st := s.strand c k
  let m := modeFor st 2
  let x (f : BitVec 6) : Word := st.x? f.toNat
  let L := min st.vl.toNat (vlmax m.t)
  let Ls := min st.vl.toNat (min (vlmax m.t) (vlmax m.s))
  let idx (a : BitVec 6) (j : Nat) : Int := valueOf m.s (readElem s st 1 a.toNat m.s j)
  let unit (a : BitVec 6) (j : Nat) : Word := x a + BitVec.ofNat 64 (j * width m.t / 8)
  let strided (a : BitVec 6) (j : Nat) : Word := x a + BitVec.ofNat 64 j * x (a + 1)
  let indexed (a p : BitVec 6) (j : Nat) : Word := (st.probe p.toNat).base + BitVec.ofInt 64 (idx a j * elemBytes m.t)
  let pair (a : BitVec 6) : TileCheck := if a.toNat % 2 = 1 ∨ a = 0 then .bad (illegalOperand 1 (encode i)) else .ok
  let even (d : BitVec 6) : TileCheck := if d.toNat % 2 = 1 then .bad (illegalOperand 0 (encode i)) else .ok
  let add : Mode → Nat → Nat → Nat → Nat × FlagSet := fun m old v _ => fitted m (valueOf m.t old + valueOf m.t v)
  let cas : Mode → Nat → Nat → Nat → Nat × FlagSet := fun _ old v new => (if old = v then new else old, 0)
  let top : Mode → Nat → Nat → Nat → Nat × FlagSet := fun m old v _ => exactly m (max (valueOf m.t old) (valueOf m.t v))
  match i with
  | .vld d a p => some (.load, probed s c k i d p L true false .ok (unit a))
  | .vlds d a p => some (.load, probed s c k i d p L true false (pair a) (strided a))
  | .vldx d a p => some (.load, probed s c k i d p Ls true false .ok (indexed a p))
  | .vldb d a p => some (.load, { probed s c k i d p L true false .ok (fun _ => x a) with once := true })
  | .vst d a p => some (.store true, probed s c k i d p L false true .ok (unit a))
  | .vsts d a p => some (.store true, probed s c k i d p L false true (pair a) (strided a))
  | .vstx d a p => some (.store true, probed s c k i d p Ls false true .ok (indexed a p))
  | .vstu d a p => some (.store false, probed s c k i d p L false true .ok (unit a))
  | .vstsu d a p => some (.store false, probed s c k i d p L false true (pair a) (strided a))
  | .vstxu d a p => some (.store false, probed s c k i d p Ls false true .ok (indexed a p))
  | .vldt d a b => some (.load, tiled s c k i d (x a) L gateRead .ok fun j => (x b).toInt + j)
  | .vstt d a b => some (.store true, tiled s c k i d (x a) L gateWrite .ok fun j => (x b).toInt + j)
  | .vldtx d a b => some (.load, tiled s c k i d (x b) Ls gateRead .ok (idx a))
  | .vsttx d a b => some (.store true, tiled s c k i d (x b) Ls gateWrite .ok (idx a))
  | .vtaddx d a b => some (.atomic add, tiled s c k i d (x b) Ls gateWrite .ok (idx a))
  | .vtcasx d a b => some (.atomic cas, tiled s c k i d (x b) Ls gateWrite (even d) (idx a))
  | .vtmaxx d a b => some (.atomic top, tiled s c k i d (x b) Ls gateWrite .ok (idx a))
  | .vataddx d a p => some (.atomic add, probed s c k i d p Ls true true .ok (indexed a p))
  | .vatcasx d a p => some (.atomic cas, probed s c k i d p Ls true true (even d) (indexed a p))
  | .vldw d a b => some (.load, onRow s c k i d (x a) (x b) false)
  | .vstw d a b => some (.store true, onRow s c k i d (x a) (x b) true)
  | _ => none

/-- A line of the scalar data cache of core `c` as a read at memory brings it up to date (R176). -/
def caughtUp (s : State) (c : Nat) : Phys → State
  | .dev a =>
    if ((s.core c).dcache.any fun e => e.1 = a / 64) = true then
      s.onCore c fun r => { r with dcache := r.dcache.map fun e => if e.1 = a / 64 then (e.1, lineAt s a) else e }
    else s
  | .host .. => s

/-- Reading an element (R141, R170, R367): the bits, zero from a poisoned line with PSN, and zero outside a tile with OOR. -/
def fetchSpot (s : State) (c k : Nat) (t : BitVec 4) (j : Nat) : Lies → Nat × State
  | .mem _ q =>
    let s1 := s.touch q
    if s.poisonAt q then (0, s1.poisonRead c k)
    else
      let v := s1.numAt q (elemBytes t)
      (if t = 10 then (if j % 2 = 0 then v % 16 else v / 16 % 16) else v % 2 ^ lwidth t, caughtUp s1 c q)
  | .tile h off =>
    let t' := s.tile c (part h 19 8)
    if off < 0 ∨ t'.size ≤ off then (0, s.onStrand c k fun st => st.oor h false off)
    else if s.tilePoison c (part h 19 8) t' off.toNat then (0, s.poisonRead c k)
    else (s.tileBits c (part h 19 8) t' off.toNat % 2 ^ lwidth t, s)

/-- The elements of a load, guarded-off ones left alone, and the state after them; a unit that is read once is read at the first of them. -/
def loadAll (c k : Nat) (t : BitVec 4) (f : MemForm) (on : Nat → Bool) : Nat → Nat → Bool → State → List (Option Nat) × State
  | 0, _, _, s => ([], s)
  | n + 1, j, seen, s =>
    if on j then
      let r := fetchSpot s c k t j (f.spot j)
      let s1 := if f.once && seen then s else r.2
      let l := loadAll c k t f on n (j + 1) true s1
      (some r.1 :: l.1, l.2)
    else
      let l := loadAll c k t f on n (j + 1) seen s
      (none :: l.1, l.2)

/-- One atomic element (R169, R372): the value before it, and the state after its one step. -/
def atomicAt (s : State) (c k : Nat) (m : Mode) (f : Mode → Nat → Nat → Nat → Nat × FlagSet) (v w : Nat) : Lies → (Nat × FlagSet) × State
  | .mem _ q =>
    let s1 := s.touch q
    if s1.poisonAt q then ((0, 0), (s1.poisonRead c k).countErr errPartialDrop (dieOf c))
    else
      let old := s1.numAt q (elemBytes m.t)
      ((old, (f m old v w).2), (caughtUp s1 c q).store (.strand c k) (piecesOf q (toBytes (f m old v w).1 (elemBytes m.t))))
  | .tile h off =>
    let t := s.tile c (part h 19 8)
    if off < 0 ∨ t.size ≤ off then ((0, 0), s.onStrand c k fun st => st.oor h true off)
    else if s.tilePoison c (part h 19 8) t off.toNat then ((0, 0), (s.poisonRead c k).countErr errPartialDrop (dieOf c))
    else
      let old := s.tileBits c (part h 19 8) t off.toNat
      ((old, (f m old v w).2), s.tileStoreBy c k c (part h 19 8) t [(off.toNat, (f m old v w).1)])

/-- The elements of an atomic word in ascending order. -/
def atomicAll (c k : Nat) (m : Mode) (f : Mode → Nat → Nat → Nat → Nat × FlagSet) (on : Nat → Bool) (v w : Nat → Nat) (spot : Nat → Lies) :
    Nat → Nat → State → List (Option Nat) × State
  | 0, _, s => ([], s)
  | n + 1, j, s =>
    if on j then
      let r := atomicAt s c k m f (v j) (w j) (spot j)
      let l := atomicAll c k m f on v w spot n (j + 1) (r.2.onStrand c k fun st => st.flag r.1.2)
      (some r.1.1 :: l.1, l.2)
    else
      let l := atomicAll c k m f on v w spot n (j + 1) s
      (none :: l.1, l.2)

/-- The elements of a store, `ws` with their indices, as one transaction to memory or to a tile (R169, R190, R191). -/
def storeAll (s : State) (c k : Nat) (i : Instr) (t : BitVec 4) (ordered : Bool) (spot : Nat → Lies) (ws : List (Nat × Nat)) : State :=
  match spot 0 with
  | .mem .. =>
    s.vstore (strandEnv c k s.cur.vpos (encode i) s.cur.front) t (fun j => match spot j with | .mem _ q => q | .tile .. => .dev 0)
      (if ordered then ws else anyOrder s.tick ws)
  | .tile h _ => s.tileWriteBy c k c h (ws.map fun x => (match spot x.1 with | .tile _ off => off | .mem .. => 0, x.2))

/-- What the `n` elements from `lo` on read, and the state in which they have been performed. -/
def performedTo (s : State) (c k : Nat) (i : Instr) (kind : MemKind) (f : MemForm) (lo n : Nat) : List (Option Nat) × State :=
  let m := modeFor s.cur 2
  let r := reading s c k m lo
  match kind with
  | .load => loadAll c k m.t f r.on n lo false s
  | .atomic g => atomicAll c k m g r.on (r.el 0 f.d m.t) (r.el 0 (f.d + 1) m.t) f.spot n lo s
  | .store ordered => ([], storeAll s c k i m.t ordered f.spot (((indices lo (lo + n)).filter r.on).map fun j => (j, r.el 0 f.d m.t j)))

/-- The exception of element `j`: its check, PROTECTION for a U-mode write into a step record (R44), or POISON for a read of a poisoned line
under the job's poison-trap setting (R170). -/
def elementExc (s : State) (c k : Nat) (kind : MemKind) (f : MemForm) (j : Nat) : Option Exc :=
  let protect : Option Exc :=
    match kind, f.spot j with
    | .load, _ => none
    | _, .mem va q =>
      if s.cur.priv = .u && (s.cores.any fun e => e.2.record = some q.line) then some (deviceFault 7 1 va) else none
    | _, .tile .. => none
  let poison : Option Exc :=
    match kind, f.spot j with
    | .store _, _ => none
    | _, .mem va q => if s.poisonTrap c && s.poisonAt q then some (deviceFault 0x10 0 (BitVec.ofNat 64 (va.toNat / 64 * 64))) else none
    | _, .tile h off => s.tilePoisonExc c c h off
  ((f.check j).or protect).or poison

/-- The memory map places every byte of an element, or it lies in host memory or in a tile (R152). -/
def Mapped (s : State) (t : BitVec 4) : Lies → Prop
  | .mem _ q => ∀ b a, b < elemBytes t → q.plus b = .dev a → (s.place a).isSome = true
  | .tile .. => True

/-- Element `j` reaches the byte at `o` of tier `T`. -/
def Covers (s : State) (t : BitVec 4) (f : MemForm) (j : Nat) (T : Tier) (o : Nat) : Prop :=
  ∃ va q b a, f.spot j = .mem va q ∧ b < elemBytes t ∧ q.plus b = .dev a ∧ s.place a = some (T, o)

/-- What a store has left (R102, R169, R366, R371): the bytes of a performed element that no other one reaches, where its line is not poisoned,
hold the element; so does its place in a tile. -/
def StoredAt (s u : State) (c : Nat) (t : BitVec 4) (f : MemForm) (on : Nat → Bool) (v : Nat → Nat) (lo : Nat) : Prop :=
  ∀ j, lo ≤ j → j < f.L → on j = true →
    (∀ va q b a T o, t ≠ 10 → f.spot j = .mem va q → b < elemBytes t → q.plus b = .dev a → s.place a = some (T, o) → s.tierPoison T o = false →
      (∀ j', lo ≤ j' → j' < f.L → on j' = true → j' ≠ j → ¬ Covers s t f j' T o) → (∀ b' a', b' < elemBytes t → b' ≠ b → q.plus b' = .dev a' →
        s.place a' ≠ some (T, o)) → u.tierByte T o = BitVec.ofNat 8 (v j / 2 ^ (8 * b))) ∧
    ∀ h off, f.spot j = .tile h off → 0 ≤ off → off < (s.tile c (part h 19 8)).size →
      s.tilePoison c (part h 19 8) (s.tile c (part h 19 8)) off.toNat = false →
      (∀ j' off', lo ≤ j' → j' < f.L → on j' = true → j' ≠ j → f.spot j' = .tile h off' → off' ≠ off) →
      u.tileBits c (part h 19 8) (s.tile c (part h 19 8)) off.toNat = v j % 2 ^ width t

/-- A strand whose word has stopped at element `e`, before the trap: of what is not a vector register, VSTART is `e` and event 0x03 has counted
the slots up to it (R104, R279). -/
def StoppedAt (ty : BitVec 4) (lo e : Nat) (a b : Strand) : Prop :=
  b = { a with vstart := BitVec.ofNat 11 e, v := b.v, hwm := b.hwm, events := b.events } ∧
  ∀ x, SMap.get 0 b.events x = SMap.get 0 a.events x +
    (if x = 3 ∧ lo < e then BitVec.ofNat 64 ((e * width ty + 63) / 64 - lo * width ty / 64) else 0)

/-- Kinds of word that write their register d. -/
def MemKind.writesD : MemKind → Bool
  | .store _ => false
  | _ => true

end Sys2Proof.Claims

/-- The vector memory words in register forms (R104, R122, R141, R170, R366 to R373): their first checks raise their fault, or make the
word wait in its queue. With no element from VSTART to L − 1 failing its check, and every one of them mapped, the word completes: every
guarded-on element is performed in ascending order, a load or an atomic writes what it read to the destination, whose mark is the slots of L
elements, and a store writes the elements of its register as one transaction; no byte of memory that no element reaches changes, and none
with a load. Where element e is the first to fail, no element at or above it is performed and the strand traps with vstart e. (With queue
operands the words run as VectorDispatch states. That a read at memory brings a line of the scalar data cache up to date is the model's
reading of R176, log 103.) -/
def Obligations.VectorMemoryWords : Prop :=
  ∀ (i : Instr) (s : State) (c k : Nat) (kind : MemKind) (f : MemForm), Acts s c k → memOf s c k i = some (kind, f) → Passes i s.cur →
    Ready i s c k → f.d.toNat < 48 →
    let m := modeFor s.cur 2
    let lo := s.cur.vstart.toNat
    let r := reading s c k m lo
    (∀ x, f.first = .bad x → exec i s = .next ((s.onStrand c k fun y => { y with vstart := BitVec.ofNat 11 lo }).takeTrap c k s.cur.pc x)) ∧
    (f.first = .stall → WaitsInQueue i s c) ∧
    (f.first = .ok → (∀ j, lo ≤ j → j < f.L → r.on j = true → elementExc s c k kind f j = none ∧ Mapped s m.t (f.spot j)) →
      let p := performedTo s c k i kind f lo (f.L - lo)
      let s1 := if lo < f.L then p.2 else s
      ∃ u, exec i s = .next u ∧ OnlyStrand c k s1 u ∧ PastWord i m.t lo (f.L - lo) 0 (s1.strand c k) (u.strand c k) ∧
        SameMasks s.cur (u.strand c k) ∧
        (if lo < f.L ∧ kind.writesD = true then WroteVec s u c k f.d.toNat m.t lo p.1 (slotsOf m.t f.L)
          else SameVectors s.cur (u.strand c k)) ∧
        (∀ T o, (∀ j, kind = .load ∨ j < lo ∨ f.L ≤ j ∨ r.on j = false ∨ ¬ Covers s m.t f j T o) → u.tierByte T o = s.tierByte T o) ∧
        ∀ ordered, kind = .store ordered → StoredAt s u c m.t f r.on (r.el 0 f.d m.t) lo) ∧
    (f.first = .ok → ∀ e x, lo ≤ e → e < f.L → r.on e = true → elementExc s c k kind f e = some x →
      (∀ j, lo ≤ j → j < e → r.on j = true → elementExc s c k kind f j = none ∧ Mapped s m.t (f.spot j)) →
      let p := performedTo s c k i kind f lo (e - lo)
      let s2 := if part x.vcause 7 0 = 0x10 then p.2.poisonRead c k else p.2
      ∃ u, OnlyStrand c k s2 u ∧ StoppedAt m.t lo e (s2.strand c k) (u.strand c k) ∧
        (if kind.writesD = true then
            WroteVec s u c k f.d.toNat m.t lo p.1 (if e = lo then s.cur.mark f.d.toNat else max (s.cur.mark f.d.toNat) (slotsOf m.t e))
          else SameVectors s.cur (u.strand c k)) ∧
        exec i s = .next (u.takeTrap c k s.cur.pc x))

/-! ## Vector words of queues, matrices and scales -/

namespace Sys2Proof.Claims

/-- The acting strand's word acts, `u` is the state apart from the strand's going past it, and it has processed `n` elements. -/
def Goes (i : Instr) (s u : State) (n : Nat) : Prop := exec i s = .next (u.onCur (Admitted i n s.cur))

/-- The word traps precisely with vstart `e` (R87, R225), and `u` is the state apart from that. -/
def Traps (i : Instr) (s u : State) (e : Nat) (x : Exc) : Prop :=
  exec i s = .next ((u.onCur fun t => { t with vstart := BitVec.ofNat 11 e }).takeTrap s.who.1 s.who.2 s.cur.pc x)

/-- QUEUE_UNDERFLOW and STREAM_MALFORMED, with the queue's number in vcause bits 23:20 (R94, R95). -/
def queueExc (code detail q : Nat) : Exc :=
  { cause := 48, stval := 0, vcause := BitVec.ofNat 64 (code + detail * 2 ^ 32 + q * 2 ^ 20), pages := [] }

/-- A word of the vector space writes x register `d`, also in what a younger waiting fence would give back (R320). -/
def withX (d : BitVec 6) (v : Word) (t : Strand) : Strand :=
  { t.writeX (d.setWidth 5) v with fences := t.fences.map (withFrontX t.vpos d.toNat v) }

/-- The token that QPUSHX, QSTOPX and QDONE push, and the word's own fault (R430). -/
def pushedBy (t : Strand) : Instr → Option (BitVec 6 × Option Nat × Token)
  | .qpushx d a _ => some (d, none, { kind := 0, data := t.x? a.toNat })
  | .qstopx d a _ => some (d, if 14 < (t.x? a.toNat).toNat then some 1 else none, { kind := 1, data := t.x? a.toNat })
  | .qdone d _ _ => some (d, none, { kind := 2, data := 0 })
  | _ => none

end Sys2Proof.Claims

/-- The queue words (R205, R218, R429 to R433). QPUSHX, QSTOPX and QDONE refuse a claimed queue, a level above 14 and a queue after
DONE, wait for room, and push one token. QPOPX waits on an empty queue with the strand WAITING; otherwise it is dispatched like any other word,
refuses a claimed queue and a malformed head, and writes the head's payload to x[d]. QPEEK writes the queue's status word, and QDRAIN empties the queue and writes the tokens
discarded, waiting while a slot that runs claims it. -/
def Obligations.QueueWords : Prop :=
  ∀ (s : State) (c k : Nat), Acts s c k → c < 256 →
    (∀ i d own tok, pushedBy s.cur i = some (d, own, tok) → Passes i s.cur → Ready i s c k →
      let n := d.toNat - 48
      let q := s.queue c n
      (q.owner ≠ none → Traps i s s 0 (illegalOperand 0 (encode i))) ∧
      (q.owner = none → ∀ x, own = some x → Traps i s s 0 (illegalOperand x (encode i))) ∧
      (q.owner = none → own = none → q.doneLatch = true → Traps i s s 0 (queueExc 0x0D 6 n)) ∧
      (q.owner = none → own = none → q.doneLatch = false →
        let room := q.d - q.held - airborne (s.core c).flights n
        (room = 0 → WaitsInQueue i s c) ∧
        (room ≠ 0 → Goes i s (s.setQueue c n
          { q with items := q.items ++ [.tok tok], wdRun := 0, doneLatch := decide (tok.kind = 2) }) 1))) ∧
    (∀ d a b, Passes (.qpopx d a b) s.cur →
      let n := a.toNat - 48
      let q := s.queue c n
      (q.owner = none → q.held = 0 →
        exec (.qpopx d a b) s = .next (s.onCur fun t => { t with status := .waiting, wait := some (.queue n) })) ∧
      (q.owner ≠ none ∨ q.held ≠ 0 → ¬ Open (.qpopx d a b) s.cur → WaitsInQueue (.qpopx d a b) s c) ∧
      (Ready (.qpopx d a b) s c k →
        (q.owner ≠ none → Traps (.qpopx d a b) s s 0 (queueExc 0x0E 0 n)) ∧
        (q.owner = none → ∀ x, q.violation false = some x → Traps (.qpopx d a b) s s 0 (queueExc 0x0D x n)) ∧
        (q.owner = none → q.violation false = none → ∀ tok, q.head = some tok →
          Goes (.qpopx d a b) s ((s.setQueue c n (q.pop false tok)).onCur fun t => withX d tok.data t) 1))) ∧
    (∀ d a b, Passes (.qpeek d a b) s.cur → Ready (.qpeek d a b) s c k →
      let q := s.queue c (a.toNat - 48)
      Goes (.qpeek d a b) s (s.onCur fun t => withX d (BitVec.ofNat 64
        ((if q.owner ≠ none then 2 ^ 19 else 0) + (if q.doneLatch then 2 ^ 18 else 0) + (scalesOf q.items).length * 2 ^ 13 + q.held * 2 ^ 6 +
          (match q.head with
            | none => 3
            | some tok => tok.kind.toNat + (if tok.kind = 1 then part tok.data 3 0 * 4 else 0)))) t) 1) ∧
    ∀ d a b, Passes (.qdrain d a b) s.cur → Ready (.qdrain d a b) s c k →
      let n := a.toNat - 48
      let q := s.queue c n
      (∀ o, q.owner = some o → (s.slot (o / 4) (o % 4)).state ≠ .idle → (s.slot (o / 4) (o % 4)).state ≠ .free → WaitsInQueue (.qdrain d a b) s c) ∧
      ((∀ o, q.owner = some o → (s.slot (o / 4) (o % 4)).state = .idle ∨ (s.slot (o / 4) (o % 4)).state = .free) →
        Goes (.qdrain d a b) s ((s.setQueue c n { q with items := [], doneLatch := false, gram := Grammar.reset }).onCur fun t =>
          withX d (BitVec.ofNat 64 q.held) t) 1)

/-- VPUSH, VARM and VPREF (R370, R374, R375). VPUSH checks that the target is the core itself or a mesh neighbour of its region, that
the queue is not claimed and that at most 64 tokens go, waits for room, and sends elements VSTART to L − 1 as one run, which a lane link
to a neighbour carries. VARM checks its
queue, the alignment and the probe, waits while four watches are armed, and keeps the unit's value. VPREF does nothing. -/
def Obligations.PushArmAndPrefetch : Prop :=
  ∀ (s : State) (c k : Nat), Acts s c k → c < 256 → ∀ (d a b : BitVec 6),
    (Passes (.vpush d a b) s.cur → Ready (.vpush d a b) s c k →
      let i : Instr := .vpush d a b
      let m := modeFor s.cur 2
      let lo := s.cur.vstart.toNat
      let n := min s.cur.vl.toNat (vlmax m.t) - lo
      let tgt := (s.cur.x? a.toNat).toNat
      let q := b.toNat - 48
      let near := tgt < 256 ∧ (tgt = c ∨ (neighbours c tgt = true ∧ (s.core tgt).region = (s.core c).region))
      let r := reading s c k m lo
      let toks := (List.range n).map fun j => tVal (if r.on (lo + j) then r.el 0 d m.t (lo + j) else 0)
      let slots (u : State) : State := u.onStrand c k fun t => t.count 3 (slotsOf m.t (lo + n) - lo * width m.t / 64)
      (¬ near → Traps i s s lo (illegalOperand 1 (encode i))) ∧
      (near → (s.queue tgt q).owner ≠ none → Traps i s s lo (illegalOperand 2 (encode i))) ∧
      (near → (s.queue tgt q).owner = none → 64 < n → Traps i s s lo (illegalOperand 0 (encode i))) ∧
      (near → (s.queue tgt q).owner = none → n = 0 → Goes i s s 0) ∧
      (near → (s.queue tgt q).owner = none → n ≤ 64 → n ≠ 0 →
        let room := (s.queue tgt q).d - (s.queue tgt q).held - airborne (s.core tgt).flights q
        (room < n → WaitsInQueue i s c) ∧
        (n ≤ room → (s.queue tgt q).doneLatch = true → Traps i s s lo (queueExc 0x0D 6 q)) ∧
        (n ≤ room → (s.queue tgt q).doneLatch = false →
          (tgt = c → Goes i s (slots (s.setQueue c q
            { s.queue c q with items := (s.queue c q).items ++ toks.map .tok, wdRun := 0 })) n) ∧
          (tgt ≠ c → Goes i s (slots (s.onCore tgt fun x =>
            { x with flights := x.flights ++ ((List.range n).zip toks).map fun t =>
              { q := q, item := .tok t.2, slot := none, node := 0, via := none, rest := n - 1 - t.1, adv := 0, src := c } })) n)))) ∧
    (Passes (.varm d a b) s.cur → Ready (.varm d a b) s c k →
      let i : Instr := .varm d a b
      let va := s.cur.x? a.toNat
      let q := d.toNat - 48
      let x := s.cur.probe b.toNat
      let p := x.phys va
      ((s.queue c q).owner ≠ none → Traps i s s 0 (illegalOperand 0 (encode i))) ∧
      ((s.queue c q).owner = none → va.toNat % 8 ≠ 0 → Traps i s s 0 (deviceFault 0x11 8 va)) ∧
      ((s.queue c q).owner = none → va.toNat % 8 = 0 →
        (∀ e, probeFault x b.toNat (encode i) va 8 true false = some e → Traps i s s 0 e) ∧
        (probeFault x b.toNat (encode i) va 8 true false = none →
          (s.poisonTrap c = true → s.poisonAt p = true →
            Traps i s (s.poisonRead c k) 0 (deviceFault 0x10 0 (BitVec.ofNat 64 (va.toNat / 64 * 64)))) ∧
          ((s.poisonTrap c && s.poisonAt p) = false →
            (4 ≤ s.cur.watches.length → WaitsInQueue i s c) ∧
            (s.cur.watches.length < 4 → Mapped s 3 (.mem va p) →
              (s.poisonAt p = true → Goes i s (((s.touch p).poisonRead c k).onStrand c k fun t =>
                { t with watches := t.watches ++ [{ unit := p, q := q, v0 := 0 }] }) 1) ∧
              (s.poisonAt p = false → Goes i s ((caughtUp (s.touch p) c p).onStrand c k fun t =>
                { t with watches := t.watches ++ [{ unit := p, q := q, v0 := BitVec.ofNat 64 (s.numAt p 8) }] }) 1)))))) ∧
    (Passes (.vpref d a b) s.cur → Ready (.vpref d a b) s c k → Goes (.vpref d a b) s s 0)

namespace Sys2Proof.Claims

/-- What a handle of a load finds: a state from which it may be copied now, or one that it waits in, where the load drains the same handle
`also` times already (R131, R134, R135, R258). -/
def MayCopy (s : State) (c : Nat) (h : Word) (also : BitVec 6) : Prop :=
  let t := s.tile c (part h 19 8)
  t.res = 0 ∧ (t.state = .full ∨ t.state = .draining) ∧ t.drains + also ≠ 63
def CopyWaits (s : State) (c : Nat) (h : Word) (also : BitVec 6) : Prop :=
  let t := s.tile c (part h 19 8)
  t.state = .filling ∨ ((t.state = .full ∨ t.state = .draining) ∧ (t.drains + also = 63 ∨ t.res ≠ 0))

/-- A load of a w buffer or a codebook table takes copy table entry `n`. -/
def entered (s : State) (c k n : Nat) (kind : CopyKind) (cmd : List Word) : State :=
  (s.setCopy c n { Copy.reset with state := .waiting, kind := kind, cmd := cmd, strand := k, order := (s.core c).copyOrder,
                                    after := (s.strand c k).fenceE }).onCore c fun r => { r with copyOrder := r.copyOrder + 1 }

/-- The class of a matrix type (R388). -/
def classOf (t : BitVec 4) : Option Nat :=
  if t.toNat = 8 ∨ t.toNat = 9 ∨ t.toNat = 10 then some 0
  else if t.toNat = 0 ∨ t.toNat = 4 then some 1
  else if t.toNat = 11 ∨ t.toNat = 12 then some 2
  else none

end Sys2Proof.Claims

/-- MLDW and VCBLD (R237, R390, R399): the checks in their order, each with its fault; then a wait for the handles, the buffer or table
and a free copy table entry; then the handles drain one more copy, the buffer or table is FILLING, and the entry is taken. -/
def Obligations.BufferAndTableLoads : Prop :=
  ∀ (s : State) (c k : Nat), Acts s c k → ∀ (d a b : BitVec 6),
    (Passes (.mldw d a b) s.cur → Ready (.mldw d a b) s c k →
      let i : Instr := .mldw d a b
      let ty := (modeFor s.cur 3).s
      let hB := s.cur.x? a.toNat
      let hS := s.cur.x? (a + 1).toNat
      let pos := s.cur.x? b.toNat
      let tB := s.tile c (part hB 19 8)
      let tS := s.tile c (part hS 19 8)
      let w := s.wbuf c d.toNat
      let typed (t : Nat) : Exc := deviceFault 3 (768 + t) ((encode i).setWidth 64)
      let lo := s.cur.vstart.toNat
      let odd := a.toNat % 2 = 1 ∨ a = 0
      let stale (h : Word) : Exc := deviceFault 8 (part h 19 8) h
      (odd → Traps i s s lo (illegalOperand 1 (encode i))) ∧
      (¬ odd → classOf ty = none → Traps i s s lo (typed ty.toNat)) ∧
      (¬ odd → classOf ty ≠ none → nonzero pos 63 48 = true → Traps i s s lo (illegalOperand 2 (encode i))) ∧
      (¬ odd → classOf ty ≠ none → nonzero pos 63 48 = false →
        (s.handleOk c hB = false → Traps i s s lo (stale hB)) ∧
        (s.handleOk c hB = true → hS ≠ 0 → s.handleOk c hS = false → Traps i s s lo (stale hS)) ∧
        (s.handleOk c hB = true → (hS ≠ 0 → s.handleOk c hS = true) →
          (tB.w ≠ width ty → Traps i s s lo (typed ty.toNat)) ∧
          (tB.w = width ty → hS ≠ 0 → tS.w ≠ 8 → Traps i s s lo (typed 4)) ∧
          (tB.w = width ty → (hS ≠ 0 → tS.w = 8) →
            (tB.state = .empty → Traps i s s lo (deviceFault 9 0 hB)) ∧
            let twice : BitVec 6 := if hS = hB then 1 else 0
            (CopyWaits s c hB 0 → WaitsInQueue i s c) ∧
            (MayCopy s c hB 0 → hS ≠ 0 → tS.state = .empty → Traps i s s lo (deviceFault 9 0 hS)) ∧
            (MayCopy s c hB 0 → hS ≠ 0 → CopyWaits s c hS twice → WaitsInQueue i s c) ∧
            (MayCopy s c hB 0 → (hS ≠ 0 → MayCopy s c hS twice) →
              (s.freeCopy c = none ∨ w.state ≠ .empty → WaitsInQueue i s c) ∧
              ∀ n, s.freeCopy c = some n → w.state = .empty →
                let s1 := s.drain c hB
                let s2 := if hS = 0 then s1 else s1.drain c hS
                Goes i s (entered (s2.setWbuf c d.toNat
                  { w with state := .filling, type := ty, entry := n, ev := true, load := 0, addr := 0, strand := k }) c k n (.mldw d.toNat)
                  [hB, hS, pos, BitVec.ofNat 64 ty.toNat]) 1))))) ∧
    (Passes (.vcbld d a b) s.cur → Ready (.vcbld d a b) s c k →
      let i : Instr := .vcbld d a b
      let h := s.cur.x? a.toNat
      let x := s.cb c d.toNat
      let lo := s.cur.vstart.toNat
      (s.handleOk c h = false → Traps i s s lo (deviceFault 8 (part h 19 8) h)) ∧
      (s.handleOk c h = true → (s.tile c (part h 19 8)).w ≠ 32 → Traps i s s lo (illegalOperand 1 (encode i))) ∧
      (s.handleOk c h = true → (s.tile c (part h 19 8)).w = 32 →
        ((s.tile c (part h 19 8)).state = .empty → Traps i s s lo (deviceFault 9 0 h)) ∧
        (CopyWaits s c h 0 → WaitsInQueue i s c) ∧
        (MayCopy s c h 0 → (s.freeCopy c = none ∨ x.filling = true → WaitsInQueue i s c) ∧
          ∀ n, s.freeCopy c = some n → x.filling = false →
            Goes i s (entered ((s.drain c h).setCb c d.toNat { x with filling := true, load := 0, entry := n, addr := 0 }) c k n
              (.vcbld d.toNat) [h, s.cur.x? b.toNat]) 1)))

namespace Sys2Proof.Claims

/-- The partials of one row of a row of A by a w buffer (R72 to R74, R393): the block sums of its 128 columns. -/
def rowSums (t : BitVec 4) (w : WBuf) (row : List Nat) : List (Nat × FlagSet) :=
  (List.range 128).map fun n => blockSum t w row n

/-- Event 0x03 has counted `n` slots (R279). -/
def CountsSlots (a b : Strand) (n : Nat) : Prop :=
  ∀ e, SMap.get 0 b.events e = SMap.get 0 a.events e + if e = 3 then BitVec.ofNat 64 n else 0

/-- The accumulator read out by VACCRD, times 2^x (R401). -/
def readOut (m : Mode) (x : Int) (acc : Nat) : Nat × FlagSet := accRead m x acc

end Sys2Proof.Claims

/-- The matrix words that strands issue on w buffers (R143, R144, R391 to R393, R396): MRELW empties a FULL buffer; MWAITW waits for the
strand's older words that name the buffer, keeps the strand WAITING while the buffer is FILLING and reports a failed load once, with sepc past the word; MSTAT writes the buffer's status
word; VBSCALE pairs the scales of a FULL buffer with x[a]; MROW multiplies a row by a FULL buffer of the type's class, and traps on
another. Otherwise each of them waits. -/
def Obligations.WeightBufferWords : Prop :=
  ∀ (s : State) (c k : Nat), Acts s c k → ∀ (d a b : BitVec 6),
    (Passes (.mrelw d a b) s.cur → Ready (.mrelw d a b) s c k →
      let w := s.wbuf c d.toNat
      (w.state = .full → Goes (.mrelw d a b) s (s.setWbuf c d.toNat { w with state := .empty }) 1) ∧
      (w.state ≠ .full → WaitsInQueue (.mrelw d a b) s c)) ∧
    (Passes (.mwaitw d a b) s.cur →
      let i : Instr := .mwaitw d a b
      let w := s.wbuf c d.toNat
      let past : State := s.onCur fun t =>
        { t with pc := t.pc + 4, instret := t.instret + 1, vstart := 0, vpos := t.vpos + 1,
                 events := SMap.set 0 t.events 2 (SMap.get 0 t.events 2 + 1) }
      let older : Prop := ∃ q ∈ s.cur.lq ++ s.cur.aq ++ s.cur.sq, q.names .w d.toNat = true
      (older → Waits i s) ∧
      (¬ older →
        (w.state = .filling → exec i s = .next (s.onCur fun t => { t with status := .waiting, wait := some (.buffer d.toNat) })) ∧
        (w.state = .empty → w.load = 2 → exec i s =
          .next ((past.setWbuf c d.toNat { w with load := 0 }).takeTrap c k (s.cur.pc + 4) (deviceFault 0x0F w.entry w.addr))) ∧
        (w.state = .full ∨ (w.state = .empty ∧ w.load ≠ 2) → exec i s = .next past))) ∧
    (Passes (.mstat d a b) s.cur → Ready (.mstat d a b) s c k →
      let w := s.wbuf c a.toNat
      Goes (.mstat d a b) s (s.onCur fun t => withX d (BitVec.ofNat 64
        (w.load.toNat * 2 ^ 14 + (if w.ev = true then 2 ^ 13 else 0) + w.entry * 2 ^ 8 +
          (if w.state = .empty then 0 else w.type.toNat * 2 ^ 4) +
          (match w.state with | .empty => 0 | .filling => 1 | .full => 2))) t) 1) ∧
    (Passes (.vbscale d a b) s.cur → Ready (.vbscale d a b) s c k →
      let w := s.wbuf c b.toNat
      (w.state ≠ .full → WaitsInQueue (.vbscale d a b) s c) ∧
      (w.state = .full → ∃ u, Goes (.vbscale d a b) s u 128 ∧ OnlyStrand c k s u ∧
        u.strand c k = { s.cur with v := (u.strand c k).v, hwm := (u.strand c k).hwm, events := (u.strand c k).events } ∧
        CountsSlots s.cur (u.strand c k) 128 ∧
        WroteVec s u c k d.toNat 3 0
          ((List.range 128).map fun n => some ((SMap.get 0 w.scales n).toNat * 256 + (s.cur.x? a.toNat).toNat % 256)) 128)) ∧
    (Passes (.mrow d a b) s.cur → Ready (.mrow d a b) s c k → a.toNat < 48 →
      let i : Instr := .mrow d a b
      let w := s.wbuf c b.toNat
      let m := modeFor s.cur 3
      let ps := rowSums m.t w ((List.range 32).map fun n => readElem s (s.strand c k) 1 a.toNat m.t n)
      (48 ≤ d.toNat → Traps i s s 0 (illegalOperand 0 (encode i))) ∧
      (d.toNat < 48 → w.state ≠ .full → WaitsInQueue i s c) ∧
      (d.toNat < 48 → w.state = .full → classOf m.t ≠ classOf w.type →
        Traps i s s 0 (deviceFault 3 (768 + w.type.toNat) ((encode i).setWidth 64))) ∧
      (d.toNat < 48 → w.state = .full → classOf m.t = classOf w.type → ∃ u, Goes i s u 32 ∧ OnlyCoreStrand c k s u ∧
        u.strand c k =
          { s.cur with v := (u.strand c k).v, hwm := (u.strand c k).hwm, vflags := s.cur.vflags ||| allFlags ps,
                       events := (u.strand c k).events } ∧
        CountsSlots s.cur (u.strand c k) 128 ∧
        (∃ ev, u.core c = { s.core c with events := ev } ∧
          ∀ e, SMap.get 0 ev e = SMap.get 0 (s.core c).events e + if e = 0x10 then 1 else 0) ∧
        WroteVec s u c k d.toNat 15 0 (ps.map fun x => some x.1) 128))

/-- VCBDEC and VACCRD on registers (R62, R63, R400, R401). VCBDEC waits while its table fills and reports a failed load once; otherwise
element i takes the weight that bits of element i / 8 of a select from the table. VACCRD clears the elements of its accumulator before
it writes its results, which are those of the accumulator as it stood times 2^x[b]. -/
def Obligations.DecodeAndReadOut : Prop :=
  ∀ (s : State) (c k : Nat), Acts s c k → ∀ (d a b : BitVec 6),
    let m := modeFor s.cur 3
    let lo := s.cur.vstart.toNat
    let r := reading s c k m lo
    (Passes (.vcbdec d a b) s.cur → Ready (.vcbdec d a b) s c k → d.toNat < 48 → a.toNat < 48 →
      let i : Instr := .vcbdec d a b
      let x := s.cb c b.toNat
      let L := min s.cur.vl.toNat 1024
      let res := (List.range (L - lo)).map fun j =>
        if r.on (lo + j) then
          let v := r.el 1 a 5 ((lo + j) / 8)
          some (codebookWeight (Codebook.row s s.cur x (v / 256 % 128)) (v % 65536) ((lo + j) % 8))
        else none
      (x.filling = true → WaitsInQueue i s c) ∧
      (x.filling = false → x.load = 2 → Traps i s (s.setCb c b.toNat { x with load := 0 }) lo (deviceFault 0x0F x.entry x.addr)) ∧
      (x.filling = false → x.load ≠ 2 →
        ∃ u, exec i s = .next u ∧ OnlyStrand c k s u ∧ SameMasks s.cur (u.strand c k) ∧
          PastWord i 8 lo (L - lo) 0 s.cur (u.strand c k) ∧
          (if L ≤ lo then SameVectors s.cur (u.strand c k) else WroteVec s u c k d.toNat 8 lo res ((L * 8 + 63) / 64)))) ∧
    (Passes (.vaccrd d a b) s.cur → Ready (.vaccrd d a b) s c k → d.toNat < 48 → a.toNat < 48 →
      let i : Instr := .vaccrd d a b
      let L := min s.cur.vl.toNat (min 128 (vlmax m.t))
      let res := (List.range (L - lo)).map fun j =>
        if r.on (lo + j) then some (readOut m (s.cur.x? b.toNat).toInt (r.el 1 a 15 (lo + j))) else none
      ∃ v u, exec i s = .next u ∧ OnlyStrand c k s v ∧ OnlyStrand c k s u ∧ SameMasks s.cur (u.strand c k) ∧
        PastWord i m.t lo (L - lo) (allFlags (res.filterMap id)) s.cur (u.strand c k) ∧
        (if L ≤ lo then SameVectors s.cur (u.strand c k)
          else
            WroteVec s v c k a.toNat 15 lo (res.map fun x => x.map fun _ => 0) (max (s.cur.mark a.toNat) L) ∧
            WroteVec v u c k d.toNat m.t lo (res.map fun x => x.map (·.1))
              (if d = a then max (s.cur.mark a.toNat) L else slotsOf m.t L)))

/-! ## Fibre words at their nodes -/

namespace Sys2Proof.Claims

/-- Node `n` of slot `sl` of core `c` acts with a word that is its own: the chain runs in SPATIAL state and has not begun to break, and the node
has not finished (R30, R414). -/
def AtNode (i : Instr) (s : State) (c sl n : Nat) : Prop :=
  s.agent = .node c sl n ∧ s.stop = none ∧ (s.slot c sl).state = .spatial ∧ (s.slot c sl).breaking = none ∧
    n < (s.slot c sl).rec_.nodes.length ∧ ((s.slot c sl).node n).finished = false ∧ ((s.slot c sl).rec_.node n).kind = 2 ∧
    ((s.slot c sl).rec_.node n).word = encode i

/-- The queue of a field among those of a list, and the tokens that it holds. -/
def fieldQ (rs : List QRef) (f : BitVec 6) : Option QRef := rs.find? fun r => r.field = f.toNat
def tokensAt (s : State) : Option QRef → List Token
  | some r => tokensOf (s.queue r.core r.q).items
  | none => []

/-- What one step of a node does (R416): it pops tokens of its inputs a and b, pushes tokens to its outputs d and d+1, and takes a new state; before
that, it may find a fault, and besides that it may reach a tile, memory or the owner's flags. -/
structure Move where
  a : Nat
  b : Nat
  out : List (Nat × QItem)
  x : NodeState
  check : State → Option Exc := fun _ => none
  act : State → State := id

/-- From `u` to `w`, what node `n` of a slot writes of the registers and masks that words of the owner have written since the RUN has become
undefined, and nothing else has changed (R34, R365). -/
def Spoiled (c sl n : Nat) (u w : State) : Prop :=
  let y := u.slot c sl
  let lost (x : Nat) : Prop := x ∈ y.wrote ∧ x ∈ (y.nodeItems (y.rec_.node n)).writes
  let b := w.strand c y.owner
  OnlyStrand c y.owner u w ∧ b = { u.strand c y.owner with v := b.v, m := b.m } ∧
  (∀ r i, i < 128 → ¬ lost r → SMap.get 0 b.v (128 * r + i) = SMap.get 0 (u.strand c y.owner).v (128 * r + i)) ∧
  ∀ j, ¬ lost (64 + j) → SMap.get 0 b.m j = SMap.get 0 (u.strand c y.owner).m j

/-- The node fires, and `u` is the state but for what it leaves undefined. -/
def FiresTo (i : Instr) (s : State) (c sl n : Nat) (u : State) : Prop := ∃ w, exec i s = .next w ∧ Spoiled c sl n u w

/-- The step of a node: none where it cannot take place; a fault of its own; or a move, which waits for room at its outputs, breaks the chain where a
token or the latch of an output on its own core is wrong (R218; over a link or circuit the latch is looked at when the token lands) or its check fails, and otherwise happens as a whole and is counted in event 0x11. -/
def Steps (i : Instr) (s : State) (c sl n : Nat) (d a b : BitVec 6) (hasB : Bool) (r : Option (Except Exc Move)) : Prop :=
  let e := s.nodeEnv c sl n false 0 0
  let ra := fieldQ e.ins a
  let rb := if hasB = true then fieldQ e.ins b else none
  match r with
  | none => exec i s = .next s
  | some (.error x) => exec i s = .next (s.nodeFault c sl n (((e.ins.filterMap fun q => s.headFault q false).head?).getD x))
  | some (.ok m) =>
    let pops : List (QRef × Nat) :=
      if ra = rb then ra.toList.map fun q => (q, max m.a m.b) else ra.toList.map (fun q => (q, m.a)) ++ rb.toList.map fun q => (q, m.b)
    let room : Prop := ∀ o, o < 2 → ∀ q, (e.outs.find? fun q => q.field = d.toNat + o) = some q →
      tokensFor m.out o ≤ s.roomIn q ∧ scalesFor m.out o ≤ s.bandIn q
    let wrong : List Exc :=
      pops.filterMap (fun p => (runFault p.2 (s.queue p.1.core p.1.q)).map fun k => queueExc 0x0D k p.1.q) ++
        e.outs.filterMap fun q =>
          if m.out.any (fun o => d.toNat + o.1 = q.field) && q.core = e.place && (s.queue q.core q.q).doneLatch then some (queueExc 0x0D 6 q.q) else none
    let core := ((s.slot c sl).rec_.node n).core
    (¬ room → exec i s = .next s) ∧
    (room → ∀ x, wrong.head? = some x → exec i s = .next (s.nodeFault c sl n x)) ∧
    (room → wrong = [] →
      (∀ x, m.check s = some x → exec i s = .next ((s.notePoison e x).nodeFault c sl n x)) ∧
      (m.check s = none →
        let u := m.act (pops.foldl (fun u p => (popRun e p.1 p.2 u).2) s)
        u.stop = none → FiresTo i s c sl n
          (((State.pushOut e d.toNat m.out u).setNode c sl n m.x).onCore core fun y =>
            { y with events := SMap.set 0 y.events 0x11 (SMap.get 0 y.events 0x11 + 1) })))

/-- Tokens for an output, and the state of a node that passes a stop or DONE on: DONE ends it. -/
def tok (o : Nat) (t : Token) : Nat × QItem := (o, .tok t)
def passing (x : NodeState) (t : Token) : NodeState := if t.kind = 2 then { x with finished := true } else x
def hold (x : NodeState) (l : List Token) : NodeState := { x with toks := l }
def set (x : NodeState) (i v : Nat) : NodeState := { x with regs := SMap.set 0 x.regs i (BitVec.ofNat 64 v) }
def at_ (x : NodeState) (i : Nat) : Nat := (SMap.get 0 x.regs i).toNat
def ended (x : NodeState) : NodeState := { x with finished := true }

/-- A fibre token, and the parts of a token (R217). -/
def pair (c r : Nat) : Token := { kind := 0, data := BitVec.ofNat 64 (c * 2 ^ 32 + r) }
def crd (t : Token) : Nat := part t.data 63 32
def ref (t : Token) : Nat := part t.data 31 0
def lev (t : Token) : Nat := part t.data 3 0
def isV (t : Token) : Bool := t.kind = 0
def isE (t : Token) : Bool := t.kind = 1 || t.kind = 2

/-- A move that pops and pushes and does no more. -/
def moves (a b : Nat) (out : List (Nat × QItem)) (x : NodeState) : Option (Except Exc Move) := some (.ok { a := a, b := b, out := out, x := x })

/-- The merge of two fibres by coordinate (R418): what equal coordinates give, what a gives that comes first, and what b gives; equal stops or DONEs
pass to the outputs `outs`, and any other pair is a mismatch. -/
def merging (x : NodeState) (bad : Exc) (ta tb : List Token) (outs : List Nat) (same : Token → Token → Nat × Nat × List (Nat × QItem))
    (onlyA onlyB : Token → List (Nat × QItem)) : Option (Except Exc Move) :=
  match ta.head?, tb.head? with
  | some a, some b =>
    if isV a ∧ isV b ∧ crd a = crd b then moves (same a b).1 (same a b).2.1 (same a b).2.2 x
    else if isV a ∧ ((isV b ∧ crd a < crd b) ∨ isE b) then moves 1 0 (onlyA a) x
    else if isV b ∧ ((isV a ∧ crd b < crd a) ∨ isE a) then moves 0 1 (onlyB b) x
    else if isE a ∧ a = b then moves 1 1 (outs.map fun o => tok o a) (passing x a)
    else some (.error bad)
  | _, _ => none

/-- A node with aligned inputs (R416): both VAL, or one stop or DONE on both. -/
def paired (bad : Exc) (ta tb : List Token) (f g : Token → Token → Option (Except Exc Move)) : Option (Except Exc Move) :=
  match ta.head?, tb.head? with
  | some a, some b => if isV a ∧ isV b then f a b else if isE a ∧ a = b then g a b else some (.error bad)
  | _, _ => none

/-- A node with one input: a VAL gives tokens, and anything else passes. -/
def mapping (x : NodeState) (ta : List Token) (f : Token → List (Nat × QItem)) : Option (Except Exc Move) :=
  match ta with
  | a :: _ => if isV a then moves 1 0 (f a) x else moves 1 0 [tok 0 a] (passing x a)
  | [] => none

/-- OP of FREDC (R420), on an accumulator and an element. -/
def reduced (m : Mode) (op acc v : Nat) : Nat × FlagSet :=
  if m.t.toNat < 8 ∨ m.t.toNat = 15 then
    let a := valueOf m.t acc
    let b := valueOf m.t v
    if op = 0 then fitted m (a + b) else exactly m (if op = 1 then max a b else min a b)
  else if op = 0 then fadd (fmt m.t) m.rnd m.sat acc v
  else fminmax (fmt m.t) (op = 1) acc v

/-- The words that move tokens and reach no tile or memory (R417 to R420, R422 to R424, R426, R428): whether field b is an input, and the step,
from the node's param and state, the tokens of its inputs, its word and its mode, and the owner of its flags. -/
def tokenMove (m : Mode) (w : BitVec 32) (owner : Nat × Nat) (param : Nat) (x : NodeState) (ta tb : List Token) : Instr → Option (Bool × Option (Except Exc Move))
  | .fscand _ a _ =>
    let p := at_ x 0 % 2 ^ 32
    let e := at_ x 0 / 2 ^ 32
    some (false,
      if p < e then moves 0 0 [tok 0 (pair (p - (e - param)) p)] (set x 0 (e * 2 ^ 32 + (p + 1)))
      else
        match ta with
        | [] => none
        | t :: _ =>
          if t.kind = 1 then
            if lev t = 14 then some (.error (queueExc 0x0D 3 (a.toNat - 48))) else moves 1 0 [tok 0 (tStop (lev t + 1))] (hold x [])
          else if x.toks ≠ [] then moves 0 0 [tok 0 (tStop 0)] (hold x [])
          else if isV t then
            if ref t = 0xFFFFFFFF then moves 1 0 [] (hold (set x 0 0) [tStop 0])
            else if 0xFFFFFFFE < ref t * param + param then some (.error (illegalOperand 2 w))
            else moves 1 0 [] (hold (set x 0 ((ref t * param + param) * 2 ^ 32 + ref t * param)) [tStop 0])
          else moves 1 0 [tok 0 tDone] (ended x))
  | .fisect _ a _ => some (true, merging x (queueExc 0x0D 9 (a.toNat - 48)) ta tb [0, 1] (fun a b => (1, 1, [tok 0 a, tok 1 b])) (fun _ => []) fun _ => [])
  | .funion _ a _ => some (true, merging x (queueExc 0x0D 9 (a.toNat - 48)) ta tb [0, 1] (fun a b => (1, 1, [tok 0 a, tok 1 b]))
      (fun a => [tok 0 a, tok 1 (pair (crd a) 0xFFFFFFFF)]) fun b => [tok 0 (pair (crd b) 0xFFFFFFFF), tok 1 b])
  | .fmerge _ a _ => some (true, merging x (queueExc 0x0D 9 (a.toNat - 48)) ta tb [0] (fun a _ => (1, 0, [tok 0 a])) (fun a => [tok 0 a]) fun b => [tok 0 b])
  | .frept _ a _ =>
    let bad : Option (Except Exc Move) := some (.error (queueExc 0x0D 9 (a.toNat - 48)))
    some (true,
      match ta, tb with
      | p :: rest, q :: _ =>
        if q.kind = 0 then if isV p then moves 0 1 [tok 0 (pair (crd q) (ref p))] x else bad
        else if q.kind = 1 then
          if ¬ isV p then bad
          else if lev q = 0 then moves 1 1 [tok 0 (tStop 0)] x
          else
            match rest with
            | [] => none
            | p2 :: _ => if p2.kind = 1 ∧ lev p2 + 1 = lev q then moves 2 1 [tok 0 (tStop (lev q))] x else bad
        else if p.kind = 2 then moves 1 1 [tok 0 tDone] (ended x)
        else bad
      | _, _ => none)
  | .fredc .. => some (false,
      match ta with
      | [] => none
      | t :: _ =>
        if isV t then
          let v := t.data.toNat % 2 ^ lwidth m.t
          let r := if x.toks = [] then (v, (0 : FlagSet)) else reduced m param (at_ x 0) v
          some (.ok { a := 1, b := 0, out := [], x := hold (set x 0 r.1) [tVal 0], act := fun s =>
            if r.2 = 0 then s else s.onStrand owner.1 owner.2 fun st => { st with vflags := st.vflags ||| r.2 } })
        else if t.kind = 1 then
          moves 1 0 ((if x.toks ≠ [] then [tok 0 (tVal (at_ x 0))] else if param = 0 then [tok 0 (tVal 0)] else []) ++
            (if lev t = 0 then [] else [tok 0 (tStop (lev t - 1))])) (hold x [])
        else moves 1 0 [tok 0 tDone] (ended x))
  | .fsteer _ a _ => some (true, paired (queueExc 0x0D 9 (a.toNat - 48)) ta tb
      (fun p q => moves 1 1 (if q.data.toNat % 2 = param then [] else [tok 0 p]) x) fun p _ => moves 1 1 [tok 0 p] (passing x p))
  | .fdrop .. => some (false, mapping x ta fun _ => [])
  | .fcrd .. => some (false, mapping x ta fun t => [tok 0 (tVal (crd t))])
  | .fref .. => some (false, mapping x ta fun t => [tok 0 (tVal (ref t))])
  | .fpack _ a _ => some (true, paired (queueExc 0x0D 9 (a.toNat - 48)) ta tb (fun p q => moves 1 1 [tok 0 (pair (ref p) (ref q))] x)
      fun p _ => moves 1 1 [tok 0 p] (passing x p))
  | .fsink .. => some (false,
      match ta with
      | [] => none
      | t :: _ =>
        if t.kind = 2 then moves 1 0 [] (ended (set x 0 (at_ x 0 + 1)))
        else if t.kind = 1 then moves 1 0 [] (set x (16 + lev t) (at_ x (16 + lev t) + 1))
        else moves 1 0 [] x)
  | .floopc _ a _ => some (true,
      match x.toks, at_ x 1, ta, tb with
      | t :: _, _, _, _ => moves 0 0 [tok 0 t] (hold x [])
      | [], 0, t :: _, _ =>
        moves 1 0 [] (if isV t then set (set (hold x [t]) 2 1) 1 1 else if t.kind = 1 then set (hold x [t]) 1 2 else set (hold x [t]) 1 3)
      | [], 0, [], _ => none
      | [], _, _, [] => none
      | [], k + 1, _, t :: _ =>
        if k = 0 ∧ isV t then (if at_ x 2 < param then moves 0 1 [] (set (hold x [t]) 2 (at_ x 2 + 1)) else moves 0 1 [] (set x 1 0))
        else if k = 1 ∧ t.kind = 1 then moves 0 1 [] (set x 1 0)
        else if k = 2 ∧ t.kind = 2 then moves 0 1 [] (ended x)
        else some (.error (queueExc 0x0D 9 (a.toNat - 48))))
  | .fjoin .. => some (true,
      match at_ x 0, ta, tb with
      | 0, _, [] => none
      | 0, _, q :: _ =>
        if q.kind = 2 then moves 0 1 [] (set x 0 1)
        else
          match ta with
          | [] => none
          | p :: _ => if p.kind = 2 then moves 0 1 [] x else moves 1 1 [tok 0 p] x
      | _ + 1, [], _ => none
      | _ + 1, p :: _, _ => moves 1 0 [tok 0 p] (passing x p))
  | .rmatch _ a _ =>
    let run := ta.takeWhile isV
    let len := min 32 run.length
    some (true,
      match ta, tb with
      | [], _ => none
      | _ :: _, [] => none
      | p :: _, q :: _ =>
        if isV p then
          if ta.length ≤ len then none
          else if isV q then
            moves len 1 ((0, .scale (BitVec.ofNat 16 ((len - 1) * 256 + part q.data 7 0))) :: (ta.take len).map (tok 0)) x
          else some (.error (queueExc 0x0D 9 (a.toNat - 48)))
        else if isE p ∧ p = q then moves 1 1 [tok 0 p] (passing x p)
        else some (.error (queueExc 0x0D 9 (a.toNat - 48))))
  | _ => none

end Sys2Proof.Claims

/-- The fibre words that move tokens alone, at their nodes (R414, R416 to R420, R422 to R424, R426, R428): each takes the step that the
tokens at the heads of its inputs and its own state call for, whole or not at all, and waits, or breaks its chain, where it cannot. What a node
writes of a register that a word of the strand has written since the RUN is undefined (R34), here as in every firing. -/
def Obligations.FibreTokenWords : Prop :=
  ∀ (i : Instr) (s : State) (c sl n : Nat), AtNode i s c sl n →
    let e := s.nodeEnv c sl n false 0 0
    let nd := (s.slot c sl).rec_.node n
    let m := modeOf (nd.modesIn (s.slot c sl).modes).i
    ∀ d a b, i.fields.map (·.1) = [d, a, b].map BitVec.toNat → ∀ hasB r,
      tokenMove m (encode i) (c, (s.slot c sl).owner) nd.param ((s.slot c sl).node n) (tokensAt s (fieldQ e.ins a))
        (tokensAt s (if hasB = true then fieldQ e.ins b else none)) i = some (hasB, r) →
      Steps i s c sl n d a b hasB r

namespace Sys2Proof.Claims

/-- What a fibre node's word has at hand besides its tokens: its node's core, the strand that owns its chain, its type, its param, whether its
references are physical addresses, its probe, and the word. -/
structure Desk where
  s : State
  c : Nat
  k : Nat
  place : Nat
  m : Mode
  param : Nat
  phys : Bool
  user : Bool
  vl : Nat
  w : BitVec 32

/-- Who reaches tiles: the core, the strand that is told of what it finds, and the node's core. -/
def Desk.env (f : Desk) : Env :=
  { c := f.c, k := f.k, place := f.place, vl := 0, vstart := 0, modes := { i := 0, f := 0, m := 0, x := 0 }, x := [], raw := f.w, run := .strand,
    base := 0, ins := [], outs := [] }
def Desk.h (f : Desk) : Word := BitVec.ofNat 64 (f.param % 2 ^ 20)
def Desk.sz (f : Desk) : Nat := width f.m.t / 8
def Desk.probe (f : Desk) : Probe := (f.s.strand f.c f.k).probe (f.param % 8)

/-- A step through the check of a tile (R134, R371). -/
def through (t : TileCheck) (r : Option (Except Exc Move)) : Option (Except Exc Move) :=
  match t with
  | .ok => r
  | .stall => none
  | .bad x => some (.error x)

/-- The check of a tile of two rows with elements of `w` bits. -/
def Desk.twoRows (f : Desk) (w : Nat) (g : HState → Gate) : TileCheck :=
  let t := f.s.tile f.place (part f.h 19 8)
  if f.s.handleOk f.place f.h = false then .bad (deviceFault 8 (part f.h 19 8) f.h)
  else if t.rows ≠ 2 then .bad (illegalOperand 2 f.w)
  else f.s.tileCheck f.place f.h w (illegalOperand 2 f.w) g

/-- The check of a tile target. -/
def Desk.tile (f : Desk) (g : HState → Gate) : TileCheck :=
  f.s.tileCheck f.place f.h (width f.m.t) (deviceFault 3 f.m.t.toNat (f.w.setWidth 64)) g

/-- The address of an element of a DRAM target, where it lies, the fault that its access meets, and the pin that a physical address gives up (R164,
R165, R415). -/
def Desk.addr (f : Desk) (t : Token) (whole : Bool) : Word :=
  if f.phys || whole then t.data else f.probe.base + BitVec.ofNat 64 (ref t * f.sz)
def Desk.spot (f : Desk) (va : Word) : Phys := if f.phys = true then physOf va else f.probe.phys va
def Desk.fault (f : Desk) (va : Word) (write : Bool) : Option Exc :=
  if va.toNat % f.sz ≠ 0 then some (deviceFault 0x11 f.sz va)
  else if f.phys = true then none
  else probeFault f.probe (f.param % 8) f.w va f.sz (!write) write
def Desk.unpin (f : Desk) (va : Word) (s : State) : State :=
  match f.phys, pageOf (va.toNat / 4096) with
  | true, some g => s.unpinAll [g]
  | _, _ => s

/-- PROTECTION of a write on behalf of U mode into the step record of a running step (R44). -/
def Desk.protect (f : Desk) (s : State) (va : Word) : Option Exc :=
  if f.user && (s.cores.any fun e => e.2.record = some (f.spot va).line) then some (deviceFault 7 1 va) else none

/-- A move that makes no access and gives up the pin of a physical address (R421). -/
def Desk.skips (f : Desk) (b : Nat) (out : List (Nat × QItem)) (x : NodeState) (va : Word) : Option (Except Exc Move) :=
  some (.ok { a := 1, b := b, out := out, x := x, act := f.unpin va })

/-- The element that a token names, of an ACC40 slot bits 39:0 (R58), and the write of one, counted in the node's state word 0 (R421). -/
def Desk.readAt (f : Desk) (x : NodeState) (t : Token) (whole : Bool) : Option (Except Exc Move) :=
  let off : Int := if whole = true then (t.data.toNat : Int) else (ref t : Int)
  let va := f.addr t whole
  if f.param < 2 ^ 31 then
    through (f.tile gateRead) (some (.ok {
      a := 1, b := 0, out := [tok 0 (tVal ((f.s.tileRead f.c f.k f.place f.h off).1 % 2 ^ lwidth f.m.t))], x := x,
      check := fun s => s.tilePoisonExc f.c f.place f.h off, act := fun s => (s.tileRead f.c f.k f.place f.h off).2 }))
  else some (.ok {
    a := 1, b := 0, out := [tok 0 (tVal ((f.s.vread f.c f.k (f.spot va) f.sz).1 % 2 ^ lwidth f.m.t))], x := x,
    check := fun s => match f.fault va false with | some e => some e | none => s.poisonExc f.c va (f.spot va),
    act := fun s => f.unpin va (s.vread f.c f.k (f.spot va) f.sz).2 })
def Desk.writeAt (f : Desk) (x : NodeState) (v t : Token) (whole : Bool) : Option (Except Exc Move) :=
  let off : Int := if whole = true then (t.data.toNat : Int) else (ref t : Int)
  let va := f.addr t whole
  let n := v.data.toNat % 2 ^ lwidth f.m.t
  let y := set x 0 (at_ x 0 + 1)
  if f.param < 2 ^ 31 then
    through (f.tile gateWrite) (some (.ok {
      a := 1, b := 1, out := [], x := y, act := fun s => s.tileWrite f.c f.k f.place f.h [(off, n)] }))
  else some (.ok {
    a := 1, b := 1, out := [], x := y, check := fun s => (f.fault va true).or (f.protect s va),
    act := fun s => f.unpin va ((s.touch (f.spot va)).store (.other (dieOf f.c)) (piecesOf (f.spot va) (toBytes n f.sz))) })

/-- The report of a node that writes, once DONE has come: the count and DONE (R421). -/
def reporting (b n : Nat) (x : NodeState) (act : State → State) : Option (Except Exc Move) :=
  some (.ok { a := 1, b := b, out := [tok 0 (tVal n), tok 0 tDone], x := ended x, act := act })

/-- A VAL that FXLATE sends on: its page, found present and allowed (R165, R425). -/
def Desk.page (f : Desk) (va : Word) : Option Leaf :=
  let w : Bool := f.param = 1
  match (f.s.dieLeaf (dieOf f.place) (f.s.strand f.c f.k).satp va).1 with
  | some l => if w = true ∧ l.w = true ∧ l.d = false then none else some l
  | none => none
def Desk.good (f : Desk) (va : Word) : Option Leaf :=
  (f.page va).filter fun l => (probeCheck f.user (f.param ≠ 1) (f.param = 1) l).isNone

/-- The words that reach a tile, memory or the page tables (R417, R421, R425, R427); `full` says that the input's queue is full. -/
def targetMove (f : Desk) (full : Bool) (x : NodeState) (ta tb : List Token) : Instr → Option (Bool × Option (Except Exc Move))
  | .fscan _ a _ =>
    let e : Env := f.env
    let cell (row col : Nat) : Nat := (f.s.cell e f.h row col).1
    let p := at_ x 0 % 2 ^ 32
    let last := at_ x 0 / 2 ^ 32
    some (false,
      if p < last then through (f.twoRows 32 gateRead) (some (.ok {
          a := 0, b := 0, out := [tok 0 (pair (cell 1 p) p)], x := set x 0 (last * 2 ^ 32 + (p + 1)),
          check := fun s => s.cellPoison e f.h 1 p, act := fun s => (s.cell e f.h 1 p).2 }))
      else
        match ta with
        | [] => none
        | t :: _ =>
          if t.kind = 1 then
            if lev t = 14 then some (.error (queueExc 0x0D 3 (a.toNat - 48))) else moves 1 0 [tok 0 (tStop (lev t + 1))] (hold x [])
          else if x.toks ≠ [] then moves 0 0 [tok 0 (tStop 0)] (hold x [])
          else if isV t then
            if ref t = 0xFFFFFFFF then moves 1 0 [] (hold (set x 0 0) [tStop 0])
            else through (f.twoRows 32 gateRead) (some (.ok {
              a := 1, b := 0, out := [],
              x := hold (set x 0 (max (cell 0 (ref t + 1)) (cell 0 (ref t)) * 2 ^ 32 + cell 0 (ref t))) [tStop 0],
              check := fun s => match s.cellPoison e f.h 0 (ref t) with | some y => some y | none => s.cellPoison e f.h 0 (ref t + 1),
              act := fun s => ((s.cell e f.h 0 (ref t)).2.cell e f.h 0 (ref t + 1)).2 }))
          else moves 1 0 [tok 0 tDone] (ended x))
  | .fval .. => some (false,
      match ta with
      | [] => none
      | t :: _ =>
        if ¬ isV t then moves 1 0 [tok 0 t] (passing x t)
        else if ref t = 0xFFFFFFFF then f.skips 0 [tok 0 (tVal 0)] x t.data
        else f.readAt x t false)
  | .fgath .. => some (false,
      match ta with
      | [] => none
      | t :: _ => if isV t then f.readAt x t true else moves 1 0 [tok 0 t] (passing x t))
  | .fwrv _ a _ => some (true, paired (queueExc 0x0D 9 (a.toNat - 48)) ta tb
      (fun v t => if ref t = 0xFFFFFFFF then f.skips 1 [] x t.data else f.writeAt x v t false)
      fun t _ => if t.kind = 2 then reporting 1 (at_ x 0) x id else moves 1 1 [] x)
  | .fscat _ a _ => some (true, paired (queueExc 0x0D 9 (a.toNat - 48)) ta tb (fun v t => f.writeAt x v t true)
      fun t _ => if t.kind = 2 then reporting 1 (at_ x 0) x id else moves 1 1 [] x)
  | .fwrc .. =>
    let e : Env := f.env
    let k := at_ x 0 % 2 ^ 32
    let b := at_ x 0 / 2 ^ 32
    let first (s : State) : State := if at_ x 0 = 0 then s.putCell e f.h 0 0 0 else s
    let gate := f.twoRows 32 gateWrite
    some (false,
      match ta with
      | [] => none
      | t :: _ =>
        if isV t then through gate (some (.ok {
          a := 1, b := 0, out := [], x := set x 0 (b * 2 ^ 32 + (k + 1) % 2 ^ 32), act := fun s => (first s).putCell e f.h 1 k (crd t) }))
        else if t.kind = 1 then through gate (some (.ok {
          a := 1, b := 0, out := [], x := set x 0 ((b + 1) % 2 ^ 32 * 2 ^ 32 + k),
          act := fun s => (first s).putCell e f.h 0 ((b + 1) % 2 ^ 32) k }))
        else if at_ x 0 = 0 then through gate (reporting 0 (b * 2 ^ 32 + k) x first)
        else reporting 0 (b * 2 ^ 32 + k) x first)
  | .fxlate .. => some (false,
      match ta with
      | [] => none
      | t :: _ =>
        if ¬ isV t then moves 1 0 [tok 0 t] (passing (set x 1 0) t)
        else
          let len := max f.vl 1
          let did := at_ x 1
          match f.good t.data with
          | some l => some (.ok {
              a := 1, b := 0, out := [tok 0 (tVal (physWord (l.page.base.plus (t.data.toNat % 4096))).toNat)], x := set x 1 ((did + 1) % len),
              act := fun s => (s.dieLeaf (dieOf f.place) (f.s.strand f.c f.k).satp t.data).2.pinAll [l.page] })
          | none =>
            let strip := (ta.takeWhile isV).take (len - did)
            if ¬ (strip.length = len - did ∨ (ta.drop strip.length).any isE ∨ full = true) then none
            else if (f.page t.data).isSome then some (.error (deviceFault 7 (if f.param = 1 then 1 else 0) t.data))
            else
              let missing := (((strip.filter fun y => (f.page y.data).isNone).map fun y =>
                BitVec.ofNat 64 (y.data.toNat / 4096 * 4096)).eraseDups).take 16
              some (.error { deviceFault 6 missing.length (missing.headD 0) with pages := missing }))
  | .fhashi .. =>
    let e : Env := f.env
    let size := (f.s.tile f.place (part f.h 19 8)).cols
    let ins := at_ x 0 % 2 ^ 32
    let lost := at_ x 0 / 2 ^ 32
    some (false,
      match ta with
      | [] => none
      | t :: _ =>
        if isV t then
          let run (s : State) : Insert × State := State.insert e f.m f.h size (crd t) (ref t % 2 ^ lwidth f.m.t) size 0 s
          through (f.twoRows 64 gateWrite) (some (.ok {
            a := 1, b := 0, out := [],
            x := match (run f.s).1 with
              | .new => set x 0 (lost * 2 ^ 32 + (ins + 1) % 2 ^ 32)
              | .full => set x 0 ((lost + 1) % 2 ^ 32 * 2 ^ 32 + ins)
              | _ => x,
            check := fun s => match (run s).1 with | .fault y => some y | _ => none,
            act := fun s => (run s).2 }))
        else if t.kind = 1 then
          moves 1 0 (tok 0 (tVal (at_ x 0)) :: (if lev t = 0 then [] else [tok 0 (tStop (lev t - 1))])) (set x 0 0)
        else moves 1 0 [tok 0 tDone] (ended x))
  | _ => none

end Sys2Proof.Claims

/-- The fibre words that reach tiles, memory or the page tables, at their nodes (R165, R414 to R417, R421, R425, R427); a step that reaches no
tile asks for none (R134). That FWRV and FSCAT count every VAL pair that they write, and no other, is log 38; that FXLATE works in strips of
one where its VL is 0, and that U is as at the CHCFG, is log 39; that a node which writes pushes its report and DONE in one step is log 40. -/
def Obligations.FibreTargetWords : Prop :=
  ∀ (i : Instr) (s : State) (c sl n : Nat), AtNode i s c sl n →
    let e := s.nodeEnv c sl n false 0 0
    let y := s.slot c sl
    let nd := y.rec_.node n
    let f : Desk := { s := s, c := c, k := y.owner, place := nd.core, m := modeOf (nd.modesIn y.modes).i, param := nd.param,
                      phys := (y.rec_.ins n).any fun j => y.rec_.physical j, user := y.user, vl := nd.vlIn y.vl, w := encode i }
    ∀ d a b, i.fields.map (·.1) = [d, a, b].map BitVec.toNat → ∀ hasB r,
      targetMove f (decide ((s.queue nd.core (a.toNat - 48)).d ≤ (s.queue nd.core (a.toNat - 48)).held)) (y.node n)
        (tokensAt s (fieldQ e.ins a)) (tokensAt s (if hasB = true then fieldQ e.ins b else none)) i = some (hasB, r) →
      Steps i s c sl n d a b hasB r

/-! ## Nodes, ports and slots at work -/

namespace Sys2Proof.Claims

/-- Node `n` of slot `sl` of core `c`, of kind `kd`, may fire: the chain runs in SPATIAL state and has not begun to break, and the node has not
finished (R30). -/
def MayFire (s : State) (c sl n kd : Nat) : Prop :=
  s.stop = none ∧ (s.slot c sl).state = .spatial ∧ (s.slot c sl).breaking = none ∧ n < (s.slot c sl).rec_.nodes.length ∧
    ((s.slot c sl).node n).finished = false ∧ ((s.slot c sl).rec_.node n).kind = kd

/-- The fault of a push of a node to a queue of its own core that has had DONE; over a link or circuit the latch is looked at when the token lands
(R218). -/
def latched (s : State) (e : Env) (r : QRef) : Option Exc :=
  if r.core = e.place ∧ (s.queue r.core r.q).doneLatch = true then some (queueExc 0x0D 6 r.q) else none

/-- A stop or DONE that stands at every input of a node goes to every output (R32): not while an output has no room; and no further where an output
has had DONE. -/
def Forwards (i : Instr) (s u : State) (c sl n : Nat) (e : Env) (pairs : Bool) (t : Token) (x : NodeState) : Prop :=
  ((∃ r ∈ e.outs, s.roomIn r = 0) → exec i s = .next s) ∧
  ((∀ r ∈ e.outs, s.roomIn r ≠ 0) →
    (∀ f, (e.outs.filterMap fun r => latched s e r).head? = some f → exec i s = .next (u.nodeFault c sl n f)) ∧
    ((∀ r ∈ e.outs, latched s e r = none) → FiresTo i s c sl n
      ((State.pushAll e t e.outs (State.popAll e pairs e.ins u)).setNode c sl n
        { x with finished := x.finished || decide (t.kind = 2) })))

end Sys2Proof.Claims

/-- Firings of LG nodes (R30 to R32, R487). A node with inputs waits until each has a token; an equal stop or DONE on all of them is
passed to every output; unequal ends, or an end beside a VAL, break the chain; on VALs the node's word acts, or waits, or its fault
breaks the chain. A node without inputs gives the elements of its word and then STOP and DONE, and with no output it fires once. -/
def Obligations.LogicNodeFirings : Prop :=
  ∀ (s : State) (c sl n : Nat), MayFire s c sl n 0 →
    let i : Instr := .lgNodeFire c sl n
    let y := s.slot c sl
    let nd := y.rec_.node n
    let x := y.node n
    let closing (t : State) : State :=
      if at_ x 2 = 0 then t else t.onStrand c y.owner fun st => { st with hwm := SMap.set 0 st.hwm nd.d (at_ x 2) }
    ∀ w, nd.instr = some w →
      (y.rec_.ins n ≠ [] →
        let e := s.nodeEnv c sl n false 0 (at_ x 0)
        let hs := e.ins.map fun r => (s.queue r.core r.q).head
        (none ∈ hs → exec i s = .next s) ∧
        (∀ ts : List Token, hs = ts.map some →
          ((∃ t ∈ ts, isE t) →
            (∀ f, (e.ins.filterMap fun r => s.headFault r nd.pairs).head? = some f → exec i s = .next (s.nodeFault c sl n f)) ∧
            ((∀ r ∈ e.ins, s.headFault r nd.pairs = none) →
              ((¬ ∃ t, isE t ∧ ∀ u ∈ ts, u = t) → exec i s = .next (s.nodeFault c sl n (queueExc 0x0D 9 (nd.a - 48)))) ∧
              (∀ t, isE t → (∀ u ∈ ts, u = t) → Forwards i s (closing s) c sl n e nd.pairs t (set (set x 0 0) 2 0)))) ∧
          ((∀ t ∈ ts, ¬ isE t) →
            (∀ u, wordEffect w e s = (.stall, u) → exec i s = .next s) ∧
            (∀ v f u, wordEffect w e s = (.trap v f, u) → u.stop = none →
              ∃ z, exec i s = .next ((u.setNode c sl n z).nodeFault c sl n f)) ∧
            (∀ m u, wordEffect w e s = (.ok m, u) → u.stop = none →
              let first := (e.ins.map (·.entry)).headD 0
              let gone := SMap.get 0 (u.slot c sl).prog (2 * first + 1) - SMap.get 0 y.prog (2 * first + 1)
              FiresTo i s c sl n (u.setNode c sl n (set ((u.slot c sl).node n) 0 (at_ x 0 + gone))))))) ∧
      (y.rec_.ins n = [] →
        let e := s.nodeEnv c sl n false (at_ x 0) 0
        (e.outs = [] → ∀ m u, wordEffect w e s = (.ok m, u) → u.stop = none →
          FiresTo i s c sl n (u.setNode c sl n { x with finished := true })) ∧
        (e.outs = [] → ∀ f, elementOf w = some f → (f.mask = true ∨ f.d.toNat < 48) → (∀ r ∈ f.srcs, r.toNat < 48) →
          ∃ u, FiresTo i s c sl n (u.setNode c sl n { x with finished := true }) ∧ OnlyCoreStrand c y.owner s u) ∧
        (∀ q, e.outs.head? = some q →
          (at_ x 1 = 1 → Forwards i s s c sl n e false tDone x) ∧
          (at_ x 1 ≠ 1 →
            (∀ u, wordEffect w e s = (.ok 0, u) → Forwards i s s c sl n e false (tStop ((y.rec_.entry q.entry).n - 1)) (set x 1 1)) ∧
            (∀ u, wordEffect w e s = (.stall, u) → exec i s = .next s) ∧
            (∀ m u, wordEffect w e s = (.ok (m + 1), u) → u.stop = none →
              FiresTo i s c sl n (u.setNode c sl n (set x 0 (at_ x 0 + (m + 1))))))))

namespace Sys2Proof.Claims

/-- The buffer of a matrix node's rotation, and after a row: the next buffer follows the last row of this one, which is EMPTY then (R145). -/
def turned (s : State) (nd : NEntry) (x : NodeState) : NodeState × State :=
  let w := 4 * nd.unit + at_ x 0
  if nd.param % 2 ^ 30 ≤ at_ x 1 + 1 then
    (set (set x 1 0) 0 ((at_ x 0 + 1) % (nd.param / 2 ^ 30 + 1)), s.setWbuf nd.core w { s.wbuf nd.core w with state := .empty })
  else (set x 1 (at_ x 1 + 1), s)

end Sys2Proof.Claims

/-- Firings of MN nodes with a queue of rows (R145, R209, R393, R394): without a row of 32 tokens at the head, a FULL buffer or room the
node waits; a buffer of another class breaks the chain; otherwise the row is popped with its scale, its 128 partials go to the
destination register, or are kept and pushed as far as there is room, event 0x10 counts one, and the rotation advances. A stop or DONE
at the head is passed on. -/
def Obligations.MatrixNodeFirings : Prop :=
  ∀ (s : State) (c sl n : Nat), MayFire s c sl n 1 →
    let i : Instr := .mnNodeFire c sl n
    let y := s.slot c sl
    let nd := y.rec_.node n
    let x := y.node n
    let e := s.nodeEnv c sl n false 0 0
    let m := modeOf (nd.modesIn y.modes).x
    let w := s.wbuf nd.core (4 * nd.unit + at_ x 0)
    (x.toks ≠ [] → ∀ r, e.outs.head? = some r →
      (∀ f, latched s e r = some f → exec i s = .next (s.nodeFault c sl n f)) ∧
      (latched s e r = none → FiresTo i s c sl n (State.pushRow c sl n e r 128 0 s).2)) ∧
    (x.toks = [] → ∀ r, e.ins.head? = some r →
      let q := s.queue r.core r.q
      (q.head = none → exec i s = .next s) ∧
      (∀ t, q.head = some t → isE t →
        (∀ f, s.headFault r true = some f → exec i s = .next (s.nodeFault c sl n f)) ∧
        (s.headFault r true = none → Forwards i s s c sl n e true t x)) ∧
      (∀ t, q.head = some t → ¬ isE t →
        (s.rowAt r = .none → exec i s = .next s) ∧
        (∀ f, s.rowAt r = .bad f → exec i s = .next (s.nodeFault c sl n f)) ∧
        (s.rowAt r = .row →
          let room : Prop := ∀ q ∈ e.outs, s.roomIn q ≠ 0 ∧ s.bandIn q ≠ 0
          (w.state ≠ .full ∨ ¬ room → exec i s = .next s) ∧
          (w.state = .full → room → classOf m.t ≠ classOf w.type →
            exec i s = .next (s.nodeFault c sl n (deviceFault 3 (768 + w.type.toNat) (nd.word.setWidth 64)))) ∧
          (w.state = .full → room → classOf m.t = classOf w.type →
            let sa := q.headScale.toNat
            let (row, s1) := popRow e r 32 s
            let ps := rowSums m.t w (row.map fun t => t.data.toNat % 2 ^ width m.t)
            let s2 := (s1.onStrand c y.owner fun t => { t with vflags := t.vflags ||| allFlags ps }).onCore nd.core fun z =>
              { z with events := SMap.set 0 z.events 0x10 (SMap.get 0 z.events 0x10 + 1) }
            let (x1, s3) := turned s2 nd x
            (e.outs = [] → FiresTo i s c sl n
              ((s3.onStrand c y.owner fun t => t.writeVec s1 nd.d 15 0 (ps.map fun p => some p.1) 128).setNode c sl n x1)) ∧
            (∀ o, e.outs.head? = some o →
              let s4 := s3.setNode c sl n { set (set x1 2 0) 3 sa with toks := ps.map fun p => tVal p.1 }
              (∀ f, latched s4 e o = some f → exec i s = .next (s4.nodeFault c sl n f)) ∧
              (latched s4 e o = none → FiresTo i s c sl n (State.pushRow c sl n e o 128 0 s4).2))))))

namespace Sys2Proof.Claims

/-- The port of node `n`, and its queue. -/
def portOf (s : State) (c sl n : Nat) : Port := s.port ((s.slot c sl).rec_.node n).core ((s.slot c sl).rec_.node n).unit

/-- A port past its element (R215): the next position, with the STOP of the dimension that has ended, if one has. -/
def Port.onward (p : Port) : Port :=
  if p.i0 + 1 < p.count 0 then { p with i0 := p.i0 + 1 }
  else if p.i1 + 1 < p.count 1 then { p with i0 := 0, i1 := p.i1 + 1, stop := some 0 }
  else if p.i2 + 1 < p.count 2 then { p with i0 := 0, i1 := 0, i2 := p.i2 + 1, stop := some (min 1 (p.dims - 1)) }
  else { p with i0 := 0, i1 := 0, i2 := 0, stop := some (p.dims - 1), past := true }

/-- The memory map places the element of a port's position and the bytes that it has gathered, or they lie in host memory or a tile (R152). -/
def AtMapped (s : State) (e : Env) (p : Port) : Prop :=
  (p.tiled = true ∨ ∀ a, ((s.strand e.c e.k).probe p.probe).phys p.addr = .dev a → (s.place a).isSome = true) ∧
  ∀ g ∈ p.gather, ∀ a, g.1 = .dev a → (s.place a).isSome = true

/-- One token of a source: a STOP that is due, DONE at the end, or the element of the position, as the checks and the port leave it (R214 to R216). -/
def sourceStep (s : State) (c sl n : Nat) (e : Env) (u : Nat) (r : QRef) : Option State :=
  let p := s.port e.place u
  match p.stop with
  | some j => some ((s.pushQ e r (.tok (tStop j))).setPort e.place u { p with stop := none })
  | none =>
    if p.past = true then
      let s1 := (s.pushQ e r (.tok tDone)).setPort e.place u { p with state := .ended }
      some (s1.setNode c sl n (ended ((s1.slot c sl).node n)))
    else
      match p.check s e, p.elemFault s e, p.poison s e with
      | .ok, none, none => some (((p.read s e).2.pushQ e r (.tok (tVal (p.payload (p.read s e).1)))).setPort e.place u (Port.onward p))
      | _, _, _ => none

/-- One token of a sink: it must be the one that the pattern's position calls for. -/
def sinkStep (s : State) (c sl n : Nat) (e : Env) (u : Nat) (r : QRef) (t : Token) : Option State :=
  let p := s.port e.place u
  let s1 := (s.popQ e r false).2
  match p.stop with
  | some j =>
    if t = tStop j then
      let s2 := s1.setPort e.place u { p with stop := none }
      some (s2.setNode c sl n (set ((s2.slot c sl).node n) (16 + lev t) (at_ ((s2.slot c sl).node n) (16 + lev t) + 1)))
    else none
  | none =>
    if p.past = true then
      if t = tDone then
        let s2 := s1.flushPort e.place u
        let s3 := s2.setPort e.place u { s2.port e.place u with state := .ended }
        some (s3.setNode c sl n (ended ((s3.slot c sl).node n)))
      else none
    else if isV t then
      match p.check s e, p.elemFault s e with
      | .ok, none =>
        let s2 := s1.writeElem e u p t.data.toNat
        some (s2.setPort e.place u { Port.onward p with gather := (s2.port e.place u).gather, gatherT := (s2.port e.place u).gatherT })
      | _, _ => none
    else none

end Sys2Proof.Claims

/-- Stream ports at work (R203, R214 to R216): a source without room, or not ACTIVE, pushes nothing; with room for one token it pushes
the token that its pattern gives. A sink without a token pops nothing; a token that its pattern does not call for breaks the chain with
STREAM_MALFORMED, subkind 11; and with one token in its queue it takes that token. -/
def Obligations.PortNodeFirings : Prop :=
  ∀ (s : State) (c sl n : Nat), MayFire s c sl n 3 →
    let y := s.slot c sl
    let e := s.nodeEnv c sl n false 0 0
    let u := (y.rec_.node n).unit
    let p := portOf s c sl n
    (∀ r, e.ins = [] → e.outs.head? = some r →
      let i : Instr := .sourcePortPush c sl n
      (p.state ≠ .active ∨ s.roomIn r = 0 → exec i s = .next s) ∧
      (p.state = .active → s.roomIn r ≠ 0 → ∀ f, latched s e r = some f → exec i s = .next (s.nodeFault c sl n f)) ∧
      (p.state = .active → s.roomIn r ≠ 0 → latched s e r = none → AtMapped s e p → ∀ t, sourceStep s c sl n e u r = some t →
        ((t.port e.place u).state ≠ .active ∨ t.roomIn r = 0) → FiresTo i s c sl n t)) ∧
    (∀ r, e.ins.head? = some r →
      let i : Instr := .sinkPortWrite c sl n
      (p.state ≠ .active ∨ (s.queue r.core r.q).head = none → exec i s = .next s) ∧
      (∀ t, p.state = .active → (s.queue r.core r.q).head = some t →
        (∀ f, s.headFault r false = some f → exec i s = .next (s.nodeFault c sl n f)) ∧
        (s.headFault r false = none →
          (¬ (match p.stop with | some j => t = tStop j | none => if p.past = true then t = tDone else t.kind = 0) →
            exec i s = .next (s.nodeFault c sl n (queueExc 0x0D 11 r.q))) ∧
          (AtMapped s e p → ∀ v, sinkStep s c sl n e u r t = some v →
            ((v.port e.place u).state ≠ .active ∨ (v.queue r.core r.q).head = none) → FiresTo i s c sl n v))))

/-! ## Events of chains, copies, strands, jobs and the device -/

namespace Sys2Proof.Claims

/-- An event counter of a core, and one of a strand, rises (R279). -/
def coreCounts (s : State) (c e n : Nat) : State :=
  s.onCore c fun r => { r with events := SMap.set 0 r.events e (SMap.get 0 r.events e + BitVec.ofNat 64 n) }
def strandCounts (s : State) (c k e n : Nat) : State :=
  s.onStrand c k fun t => { t with events := SMap.set 0 t.events e (SMap.get 0 t.events e + BitVec.ofNat 64 n) }

/-- An ADVANCE of tag `t` has left router `r` (R257): the next phase, or phase 0 after a last one. -/
def nextPhase (r t : Nat) (s : State) : State :=
  let last : Bool := (SMap.get 0 s.tags (2048 * r + 8 * t + s.phase r t)).getLsbD 61
  { s with phases := s.phases.put (256 * r + t) (if last = true then 0 else (s.phase r t + 1) % 8),
           advPassed := s.advPassed.put (256 * r + t) (SMap.get 0 s.advPassed (256 * r + t) + 1) }

/-- An item lands in its queue; a token after DONE is not stored, and the node that sent it breaks its chain (R206, R218). -/
def lands (s : State) (c : Nat) (f : Flight) : State :=
  let q := s.queue c f.q
  let stored : State := s.setQueue c f.q { q with
    items := q.items ++ [f.item], wdRun := 0, doneLatch := q.doneLatch || match f.item with | .tok t => decide (t.kind = 2) | .scale _ => false }
  match f.item, f.slot with
  | .tok _, some o => if q.doneLatch = true then s.nodeFault (o / 4) (o % 4) f.node (queueExc 0x0D 6 f.q) else stored
  | .tok _, none => if q.doneLatch = true then s else stored
  | .scale _, _ => stored

/-- An item reaches core `c`. On a circuit the ADVANCE words before it have left the core's router, and an invalid entry of the tag drops it,
and counts it (R256, R257, R277). -/
def arrives (s : State) (c : Nat) (f : Flight) : State :=
  match f.via with
  | none => lands s c f
  | some t =>
    let u := Nat.repeat (nextPhase c t) (f.adv - SMap.get 0 s.advPassed (256 * c + t)) s
    if (SMap.get 0 u.tags (2048 * c + 8 * t + u.phase c t)).getLsbD 63 = true then lands u c f else u.countErr errFlitTag c

/-- Every item on its way to a queue of a record reaches it, those of a core in the order in which they were sent (R195, R283). -/
def allLand (s : State) (r : Rec) : State :=
  ((r.places.map (·.2.1)).eraseDups).foldl (fun (u : State) d =>
    let toward (f : Flight) : Bool := r.places.any fun x => x.2.1 = d ∧ x.2.2 = f.q
    ((u.core d).flights.filter toward).foldl (fun (v : State) f => arrives v d f)
      (u.onCore d fun y => { y with flights := y.flights.filter fun f => !toward f })) s

/-- An item of the same circuit was sent toward core `c` before the oldest one toward queue `q` (R195, R257). -/
def Behind (s : State) (c q : Nat) (f : Flight) : Prop :=
  f.via ≠ none ∧ ∃ g ∈ (s.core c).flights.takeWhile (fun g => g.q ≠ q), g.via = f.via

/-- A slot BROKEN, with its break record (R283). -/
def broken (s : State) (c sl : Nat) (b : Breaking) : State :=
  let y := s.slot c sl
  let n := min 0xFFFFFFFF (part y.brec.w0 31 0 + 1)
  strandCounts (s.setSlot c sl { y with
    state := .broken
    brec := { w0 := BitVec.ofNat 64 (b.cause.toNat * 2 ^ 60 + b.node * 2 ^ 54 + b.queue * 2 ^ 50 + sl * 2 ^ 48 + n), w1 := b.vcause, w2 := b.stval,
              w3 := BitVec.ofNat 64 b.time }
    p := decide (b.cause = 1 ∨ b.cause = 2), breaking := none, resume := decide (b.cause = 3), passAt := 0, passFired := false, idleMark := [] })
    c y.owner 7 1

/-- The end of a word of a remainder (R37, R268): the next node, or at the end of the pass the strip counter, and a CHRESP that waits for it. -/
def wordOver (s : State) (c sl : Nat) (fired : Bool) : State :=
  let y := s.slot c sl
  if y.passAt + 1 < y.rec_.nodes.length then
    s.setSlot c sl { y with passAt := y.passAt + 1, passFired := y.passFired || fired, idleMark := [] }
  else
    s.setSlot c sl { y with
      passAt := 0, passFired := false, strips := if y.strips = BitVec.allOnes 32 then y.strips else y.strips + 1, respond := false,
      state := if y.respond = true then .spatial else .temporal, idleMark := if y.passFired = true ∨ fired = true then [] else s.waitMark c sl }

/-- A run has nothing left: every node has finished, and no item is on its way to a queue of the record (R407). -/
def RunOver (s : State) (c sl : Nat) : Prop :=
  let y := s.slot c sl
  (∀ n, n < y.rec_.nodes.length → (y.node n).finished = true) ∧ ∀ x ∈ y.rec_.places, ∀ f ∈ (s.core x.2.1).flights, f.q ≠ x.2.2

/-- The owner of a TEMPORAL slot may run a word of its remainder: whatever its vector words wait for, but not in a trap window nor before it has
returned from the remainder's last fault, and no pass begins once the run is over (R37, R446), nor, after a pass in which no node fired, before
something that the next one waits for has changed (log 104). -/
def Remains (s : State) (c sl : Nat) : Prop :=
  let y := s.slot c sl
  let t := s.strand c y.owner
  y.state = .temporal ∧ y.away = false ∧ t.tw = false ∧ t.fault = none ∧ (t.status = .active ∨ t.status = .waiting) ∧
    (y.passAt = 0 → ¬ RunOver s c sl ∧ (y.idleMark = [] ∨ y.idleMark ≠ s.waitMark c sl))

end Sys2Proof.Claims

/-- What happens to slots beside their nodes' firings (R35, R37, R206, R218, R225, R236, R242, R256, R257, R268, R282, R283, R374, R407): tokens
land, a run of VPUSH as one, unless another of their circuit goes ahead, a limiter holds them or the queue has had DONE; a broken chain's tokens
land and its record is written, with a fault record where the break is a fault, for which the ring must have room before the slot leaves SPATIAL
(log 44, DEDUCED); a broken slot enters TEMPORAL where its pass stands; the remainder runs node by node, and begins no pass once its run is over,
nor one without hope, at whose end a CHRESP acts at once (log 104, DEDUCED); a fault of one of its words leaves vstart 0 (log 29, DEDUCED) and is
not taken before the owner's older words have completed and its fences are met; a run that is over is IDLE; and a router's phase advances behind
the tokens that go ahead of the ADVANCE. What a VPUSH sent that lands after a DONE is dropped without a fault (log 133, DESIGN CHOICE). -/
def Obligations.ChainEvents : Prop :=
  ∀ (s : State) (c sl : Nat), s.stop = none →
    let y := s.slot c sl
    (∀ q, ((s.core c).flights.all fun f => f.q ≠ q) = true → exec (.tokenLand c q) s = .next s) ∧
    (∀ q f, (s.core c).flights.find? (fun f => f.q = q) = some f →
      let seen := SMap.get 0 (s.core c).admitted q
      let metered : Bool := (match f.item with | .tok t => t.kind = 0 | .scale _ => false) && s.fromOutside c f
      let full : Prop := metered = true ∧ ∃ t w, (s.core c).limit = some (t, w) ∧ t ≤ seen
      let run := ((s.core c).flights.filter fun g => g.q = q).take (f.rest + 1)
      let left : State := s.onCore c fun r =>
        { r with flights := run.foldl List.erase r.flights, circuits := SMap.set 0 r.circuits (2 * q) 0,
                 admitted := if metered then r.admitted.put q (seen + 1) else r.admitted }
      (Behind s c q f → exec (.tokenLand c q) s = .next s) ∧
      (¬ Behind s c q f → full → exec (.tokenLand c q) s = .next (coreCounts s c 0x14 (cyclesOf s (dieOf c)))) ∧
      (¬ Behind s c q f → ¬ full → exec (.tokenLand c q) s = .next (run.foldl (fun u g => arrives u c g) left))) ∧
    (∀ b, y.state = .spatial → y.breaking = some b →
      let landed (u : State) : State := (allLand u y.rec_).flushSinks y.rec_
      let mapped : Prop := SinksMapped s y.rec_
      (b.cause ≠ 1 → b.cause ≠ 2 → mapped → exec (.chainBreak c sl) s = .next (broken (landed s) c sl b)) ∧
      (b.cause = 1 ∨ b.cause = 2 →
        let rec_ := recordOf y.owner 0 { cause := 48, stval := b.stval, vcause := b.vcause, pages := b.pages } b.time
        let n := 1 + continuations rec_.pages.length
        (s.ringRoom (dieOf c) n = false → exec (.chainBreak c sl) s =
          .next (s.setSlot c sl { y with breaking := some { b with since := some (b.since.getD s.time) } })) ∧
        (s.ringRoom (dieOf c) n = true →
          let s1 := match b.since with
            | some t0 => s.notify c y.owner 5 (BitVec.ofNat 64 (s.time - t0))
            | none => s
          let (addr, s2) := (landed s1).writeRecord c rec_
          mapped → exec (.chainBreak c sl) s = .next (broken (s2.onStrand c y.owner fun t => { t with vfrec := addr }) c sl b)))) ∧
    (y.state = .broken → y.resume = true → exec (.slotEnterTemporal c sl) s =
      .next (s.setSlot c sl { y with state := .temporal, resume := false, idleMark := [] })) ∧
    (y.state ≠ .broken ∨ y.resume = false → exec (.slotEnterTemporal c sl) s = .next s) ∧
    (¬ Remains s c sl → exec (.remainderWord c sl) s = .next s) ∧
    (Remains s c sl →
      ((y.node y.passAt).finished = true → exec (.remainderWord c sl) s = .next (wordOver s c sl false)) ∧
      ((y.node y.passAt).finished = false →
        (∀ u, s.fire c sl y.passAt true = (.stall, u) → exec (.remainderWord c sl) s = .next (wordOver s c sl false)) ∧
        (∀ m u, s.fire c sl y.passAt true = (.ok m, u) → u.stop = none → ∃ w, Spoiled c sl y.passAt u w ∧ exec (.remainderWord c sl) s =
          .next (wordOver (strandCounts w c y.owner 8 (if m = 0 then 0 else 1)) c sl (decide (0 < m)))) ∧
        (∀ e x u, s.fire c sl y.passAt true = (.trap e x, u) → u.stop = none →
          let o := s.strand c y.owner
          let older : Prop := o.lq = [] ∧ o.aq = [] ∧ o.sq = [] ∧ o.walks = [] ∧ o.fences = []
          let v := (u.onStrand c y.owner fun t => { t with vstart := 0 }).takeTrap c y.owner o.pc
            { x with vcause := x.vcause + BitVec.ofNat 64 (2 ^ 24 + y.passAt * 2 ^ 26 + sl * 2 ^ 16) }
          (¬ older → exec (.remainderWord c sl) s = .next s) ∧
          (older → exec (.remainderWord c sl) s =
            .next (v.setSlot c sl { v.slot c sl with away := true, respond := false }))))) ∧
    ((y.state = .spatial ∧ y.breaking = none) ∨ (y.state = .temporal ∧ y.passAt = 0) →
      (¬ RunOver s c sl → exec (.runComplete c sl) s = .next s) ∧
      (RunOver s c sl → exec (.runComplete c sl) s = .next
        ((s.setSlot c sl { y with state := .idle, respond := false, resume := false, passAt := 0, passFired := false, idleMark := [] }).onStrand
          c y.owner fun t => { t with feClear := y.rec_.regs.foldl (fun m v => m.del v) t.feClear }))) ∧
    ∀ r t, let n := SMap.get 0 s.advPassed (256 * r + t)
      let ahead : Prop := ∃ f ∈ (s.core r).flights, f.via = some t ∧ f.adv ≤ n
      (SMap.get 0 s.advSent t ≤ n ∨ ahead → exec (.advancePass r t) s = .next s) ∧
      (n < SMap.get 0 s.advSent t → ¬ ahead → exec (.advancePass r t) s = .next (nextPhase r t s))

namespace Sys2Proof.Claims

/-- A copy that does not ask for a token is DONE; one that does pushes its payload, stays ACTIVE for want of room, or fails at a queue that takes no
token (R239). -/
def closed (s : State) (c n : Nat) (x : Copy) : State :=
  let q := s.queue c x.tq
  let done : Copy := { x with state := .done, beatsDone := true, arrived := true }
  if x.wantsToken = false then s.setCopy c n done
  else if q.doneLatch = true ∨ q.owner ≠ none then s.setCopy c n { done with status := 2, addr := 0 }
  else if q.d - q.held - airborne (s.core c).flights x.tq = 0 then s.setCopy c n { x with state := .active, beatsDone := true, arrived := true }
  else
    let v : Word := BitVec.ofNat 64 (x.moved % 2 ^ 32 * 2 ^ 32 + min x.poisoned 0xFFFF * 2 ^ 16 + x.status.toNat * 2 ^ 8 + n)
    (s.setQueue c x.tq { q with items := q.items ++ [.tok { kind := 0, data := v }], wdRun := 0 }).setCopy c n done

end Sys2Proof.Claims

namespace Sys2Proof.Claims

/-- A handle of a copy is no longer current (R133), or its tile is not resident (R140). -/
def StaleCopy (s : State) (c : Nat) (x : Copy) : Prop := ∃ h ∈ x.handles, s.handleOk c h = false
def AwayCopy (s : State) (c : Nat) (x : Copy) : Prop := ∃ h ∈ x.handles, (s.tile c (part h 19 8)).res ≠ 0

/-- A FENCEE of its strand keeps a copy from its accesses: one from before the fence, in the table or still queued, has accesses to perform
(R181). -/
def FencedCopy (s : State) (c : Nat) (x : Copy) : Prop :=
  (∃ e ∈ (s.core c).copies, e.2.busy = true ∧ e.2.strand = x.strand ∧ e.2.after < x.after) ∨
  ∃ q ∈ (s.strand c x.strand).lq ++ (s.strand c x.strand).aq ++ (s.strand c x.strand).sq,
    (opnOf (encode q.word) = 0x98 ∨ opnOf (encode q.word) = 0xA2) ∧ q.front.fenceE < x.after

/-- The state check of a source or index tile passes now, one way or the other (R134, R135, R258). -/
def OutNow (s : State) (c : Nat) (h : Word) : Prop :=
  let t := s.tile c (part h 19 8)
  t.state = .empty ∨ ((t.state = .full ∨ t.state = .draining) ∧ t.drains ≠ 63)

/-- A WAITING copy could start now (R238). -/
def Startable (s : State) (c : Nat) (x : Copy) : Prop :=
  x.state = .waiting ∧ ¬ FencedCopy s c x ∧
    (StaleCopy s c x ∨
      (¬ AwayCopy s c x ∧ (x.kind = .acopy → (x.skind = 1 → x.srcHeld = true ∨ OutNow s c (x.w 1)) ∧
        (x.form ≠ 0 → x.idxHeld = true ∨ OutNow s c x.idx))))

/-- The memory map places bytes `b` to `b + len − 1` of a DRAM or row end, or they lie in host memory (R152). -/
def EndMapped (s : State) (e : End) (b len : Nat) : Prop :=
  e.kind = 1 ∨ ∀ i a, i < len → e.phys (b + i) = .dev a → (s.place a).isSome = true

/-- The bytes that a U-mode copy would write from `b` on meet the step record of a running step (R44). -/
def MeetsRecord (s : State) (x : Copy) (b len : Nat) : Prop :=
  x.user = true ∧ x.dkind ≠ 1 ∧ ∃ e ∈ s.cores, ∃ r, e.2.record = some r ∧ ∃ i, i < 64 ∧ x.dst.within b len (r.plus i) ≠ none

/-- A byte of the destination of a linear copy of DRAM or rows holds the byte of the source, where neither line is poisoned, the strand's stores
have all been performed, and it lies neither among the bytes read nor at another byte written (R168, R170, R184, R384). -/
def Copied (s u : State) (c : Nat) (x : Copy) (sb db len : Nat) : Prop :=
  x.skind ≠ 1 → x.dkind ≠ 1 → (s.strand c x.strand).stores = [] → ∀ i a T o, i < len → x.dst.phys (db + i) = .dev a →
    s.place a = some (T, o) → s.tierPoison T o = false → s.poisonAt (x.src.phys (sb + i)) = false → x.src.within x.src.off x.n (.dev a) = none →
    (∀ j a', j < len → j ≠ i → x.dst.phys (db + j) = .dev a' → s.place a' ≠ some (T, o)) → u.tierByte T o = s.byteAt (x.src.phys (sb + i))

end Sys2Proof.Claims

/-- The copies under way (R133, R135, R138, R140, R181, R237 to R239, R375, R384, R390, R399): a WAITING copy that a fence holds back, that
awaits a tile, or that stands behind an older one that could start (log 122, DEDUCED: R238 also says that a WAITING entry holds no other entry
back), stays; one whose handles are no longer current ends with ERROR; a linear one from DRAM goes ACTIVE, and so does a load of a buffer or table.
An ACTIVE one moves a beat of whole bytes, whose extent is log 47's (DEDUCED), but for a U-mode write into a step record, which ends it with ERROR. After the last beat a filled tile is FULL, and the copy is DONE, with the token that it asks for. A watch whose
unit a write has left different sends the new value. -/
def Obligations.CopyEvents : Prop :=
  ∀ (s : State) (c n : Nat), s.stop = none → c < 256 →
    let x := s.copy c n
    let stale : Prop := StaleCopy s c x
    let away : Prop := AwayCopy s c x
    let behind : Prop := ∃ e ∈ (s.core c).copies, e.2.order < x.order ∧ Startable s c e.2
    (x.state = .waiting →
      (FencedCopy s c x ∨ behind → exec (.copyActivate c n) s = .next s) ∧
      (¬ FencedCopy s c x → ¬ behind →
        (stale → exec (.copyActivate c n) s = .next (s.failCopy c n 2 (s.beatAddr x))) ∧
        (¬ stale → away → exec (.copyActivate c n) s = .next s) ∧
        (¬ stale → ¬ away → (x.kind ≠ .acopy ∨ (x.skind ≠ 1 ∧ x.form = 0)) →
          exec (.copyActivate c n) s = .next (s.setCopy c n { x with state := .active })) ∧
        (¬ stale → ¬ away → x.kind = .acopy → x.skind = 1 → x.form = 0 → x.srcHeld = false →
          let t := s.tile c (part (x.w 1) 19 8)
          (t.state = .empty → exec (.copyActivate c n) s = .next (s.failCopy c n 2 (s.beatAddr x))) ∧
          (t.state = .filling ∨ t.drains = 63 ∧ t.state ≠ .empty → exec (.copyActivate c n) s = .next (s.setCopy c n x)) ∧
          ((t.state = .full ∨ t.state = .draining) → t.drains ≠ 63 → exec (.copyActivate c n) s =
            .next ((s.setTile c (part (x.w 1) 19 8) { t with state := .draining, drains := t.drains + 1 }).setCopy c n
              { x with state := .active, srcHeld := true }))))) ∧
    (x.state = .active → x.beatsDone = false →
      (stale → exec (.copyBeat c n) s = .next (s.failCopy c n 2 (s.beatAddr x))) ∧
      (¬ stale → away → exec (.copyBeat c n) s = .next s) ∧
      (¬ stale → ¬ away →
        (x.kind = .acopy → x.form = 0 →
          let sb := x.src.off + x.offset
          let db := x.dst.off + x.offset
          let len := min (min (x.n - x.offset) (x.dst.beatLeft db)) (min (x.src.pageLeft sb) (x.dst.pageLeft db))
          (MeetsRecord s x db len → ∃ a, exec (.copyBeat c n) s = .next (s.failCopy c n 2 a)) ∧
          (¬ MeetsRecord s x db len → EndMapped s x.src sb len → EndMapped s x.dst db len → ∃ u, exec (.copyBeat c n) s = .next u ∧
            Copied s u c x sb db len ∧
            (∀ T o, (x.dkind = 1 ∨ ∀ i a, i < len → x.dst.phys (db + i) = .dev a → s.place a ≠ some (T, o)) → u.tierByte T o = s.tierByte T o) ∧
            (x.offset + len < x.n → (u.copy c n).offset = x.offset + len ∧ (u.copy c n).moved = x.moved + len ∧ (u.copy c n).state = .active) ∧
            (x.n ≤ x.offset + len → x.dkind = 1 ∨ x.wantsToken = false →
              (u.copy c n).beatsDone = true ∧ (u.copy c n).moved = x.moved + len ∧
                (u.copy c n).state = (if x.dkind = 1 then .active else .done)) ∧
            ∀ e, SMap.get 0 (u.core c).events e = SMap.get 0 (s.core c).events e + if e = 0x13 then BitVec.ofNat 64 len else 0)) ∧
        (∀ b, x.kind = .mldw b → x.offset < 32 →
          ∃ u, exec (.copyBeat c n) s = .next u ∧ (u.copy c n).offset = x.offset + 1 ∧
            (∀ i, i < 128 → SMap.get 0 (u.wbuf c b).elems (128 * x.offset + i) =
              BitVec.ofNat 16 (s.loadElem c x.strand (x.w 0) (part (x.w 2) 15 0 + x.offset) (part (x.w 2) 31 16 + i)).1) ∧
            (u.wbuf c b).state = (s.wbuf c b).state) ∧
        (∀ b, x.kind = .vcbld b → x.offset = 0 →
          let t := s.tile c (part (x.w 0) 19 8)
          ∃ u, exec (.copyBeat c n) s = .next u ∧ (u.copy c n).offset = 1 ∧
            ∀ i, i < 64 → SMap.get 0 (u.cb c b).rows i = BitVec.ofNat 32
              (s.loadElem c x.strand (x.w 0) (((x.w 1).toNat + i) / t.cols) (((x.w 1).toNat + i) % t.cols)).1))) ∧
    (x.state = .active → x.beatsDone = true → x.arrived = false →
      (x.kind = .acopy →
        let t := s.tile c (part (x.w 3) 19 8)
        let s1 := if s.handleOk c (x.w 3) = true ∧ t.state = .filling then s.setTile c (part (x.w 3) 19 8) { t with state := .full } else s
        exec (.arrivalToken c n) s = .next (closed s1 c n { x with arrived := true })) ∧
      (∀ b, x.kind = .mldw b → exec (.arrivalToken c n) s = .next
        ((s.setCopy c n { Copy.reset with order := x.order }).setWbuf c b { s.wbuf c b with state := .full, load := 0, addr := 0 })) ∧
      (∀ b, x.kind = .vcbld b → exec (.arrivalToken c n) s = .next
        ((s.setCopy c n { Copy.reset with order := x.order }).setCb c b { s.cb c b with filling := false, loaded := true, load := 0, addr := 0 }))) ∧
    (x.state = .active → x.beatsDone = true → x.arrived = true → x.wantsToken = true →
      exec (.copyCompletionToken c n) s = .next (closed s c n x)) ∧
    (∀ k i w, (s.strand c k).watches[i]? = some w →
      let now : Word := BitVec.ofNat 64 (s.numAt w.unit 8)
      let changed : Prop := s.poisonAt w.unit = false ∧ now ≠ w.v0
      let q := s.queue c w.q
      let gone : State := s.onStrand c k fun t => { t with watches := t.watches.eraseIdx i }
      (¬ changed → exec (.watchFire c k i) s = .next s) ∧
      (changed → q.doneLatch = true → exec (.watchFire c k i) s = .next gone) ∧
      (changed → q.doneLatch = false → q.d - q.held - airborne (s.core c).flights w.q = 0 → exec (.watchFire c k i) s = .next s) ∧
      (changed → q.doneLatch = false → q.d - q.held - airborne (s.core c).flights w.q ≠ 0 →
        exec (.watchFire c k i) s = .next (gone.setQueue c w.q { q with items := q.items ++ [.tok { kind := 0, data := now }], wdRun := 0 })))

/-! ## Strand, job and device events -/

namespace Sys2Proof.Claims

/-- The queue that a queued QPOPX pops (R431). -/
def popped : Instr → Option Nat
  | .qpopx _ a _ => some (a.toNat - 48)
  | _ => none

/-- The oldest queued QPOPX of a strand, where the strand waits at it for a token (R18, R431). -/
def waitedPop (t : Strand) : Option Queued :=
  match t.wait, t.aq.find? fun q => (popped q.word).isSome with
  | some (.queue n), some q => if popped q.word = some n then some q else none
  | _, _ => none

/-- A strand stands where a trap can be taken: it runs or waits, none of its vector words waits or walks, but for a QPOPX at which it waits and what is
younger, no fault of its own waits for room, and no fence waits but one at which a trap may be taken (R18, R320). -/
def Boundary_ (t : Strand) : Prop :=
  (t.status = .active ∨ t.status = .waiting) ∧ (∀ o ∈ t.lq ++ t.aq ++ t.sq, ∃ q, waitedPop t = some q ∧ q.pos ≤ o.pos) ∧ t.walks = [] ∧
    t.fault = none ∧ ∀ f ∈ t.fences, f.clean = true

/-- A strand with what program order carries through its front end as it was at `f`, at `pc`. -/
def goneBack (t : Strand) (f : Front) (pc : Word) : Strand :=
  { t with x := f.x, vl := f.vl, vstart := f.vstart, modes := f.modes, instret := f.instret, events := SMap.set 0 t.events 1 f.scalars,
           fenceE := f.fenceE, pc := pc, request := none, sstatus := f.csrs.sstatus, sie := f.csrs.sie, stvec := f.csrs.stvec,
           scounteren := f.csrs.scounteren, sscratch := f.csrs.sscratch, sepc := f.csrs.sepc, scause := f.csrs.scause, stval := f.csrs.stval,
           ssip := f.csrs.ssip, stimecmp := f.csrs.stimecmp, satp := f.csrs.satp, vcause := f.csrs.vcause, tw := f.csrs.tw }

/-- A strand back at a queued word, from element `e` on: the word and all that is younger is queued no more, nor waits a younger fence (R87). -/
def backAt (t : Strand) (q : Queued) (e : Nat) : Strand :=
  { goneBack t q.front q.pc with
    vstart := BitVec.ofNat 11 e, fences := t.fences.filter fun f => f.pos ≤ q.pos, lq := t.lq.filter fun o => o.pos < q.pos,
    aq := t.aq.filter fun o => o.pos < q.pos, sq := t.sq.filter fun o => o.pos < q.pos }

/-- The machine with strand `k` of core `c` back at a queued word, and what younger words have changed meanwhile given back (log 6). -/
def wentBack (s : State) (c k : Nat) (q : Queued) (e : Nat) : State := (s.undoAfter c k q.pos).onStrand c k fun t => backAt t q e

/-- What a trap at a boundary finds: a QPOPX at which the strand waits, and the oldest fence that waits with what followed it, not executed (R18,
R320; log 6). -/
def atTrap (s : State) (c k : Nat) : State :=
  let u := match waitedPop (s.strand c k) with
    | some q => wentBack s c k q 0
    | none => s
  u.onStrand c k fun t => match t.fences with
    | f :: _ => { goneBack t f.front f.pc with fences := [] }
    | [] => t

/-- A waiting fence that is older than a queued word keeps it from being performed (R180, R182). -/
def FencedWord (t : Strand) (q : Queued) : Prop := ∃ f ∈ t.fences, f.pos ≤ q.pos ∧ accessWord f.engine q.word = true

/-- The sequencer may look at a queued word: it lies within the slip of the oldest one, its registers are full, and no older queued word has a hazard
with it in registers, masks, modes, queues or tables, nor in the bytes that either stores (R23, R108). -/
def Open_ (s : State) (c k : Nat) (q : Queued) : Prop :=
  let t := s.strand c k
  let older := (t.lq ++ t.aq ++ t.sq).filter fun o => o.pos < q.pos
  let f := footprint q.word q.front.modes
  (∀ o ∈ q :: older, q.pos < o.pos + t.vslip.toNat) ∧ t.full f = true ∧
    ∀ o ∈ older, (footprint o.word o.front.modes).hazard f = false ∧ s.memHazard c k o q = false

/-- A fault of a queued word is taken: every older vector word has completed, and no fence before it waits (R87, R225). -/
def TrapsNow (t : Strand) (q : Queued) : Prop :=
  t.walks = [] ∧ (∀ o ∈ t.lq ++ t.aq ++ t.sq, q.pos ≤ o.pos) ∧ ∀ f ∈ t.fences, q.pos < f.pos

/-- A queued word that is not admitted now: the sequencer may not look at it, a fence holds it, what it needs is not ready, or it faults and
something older has not completed (R23, R87, R225). -/
def Unable (s : State) (c k : Nat) (q : Queued) : Prop :=
  ¬ Open_ s c k q ∨ FencedWord (s.strand c k) q ∨ (∃ u, s.wordOf c k q.pos q.word q.front = (.stall, u)) ∨
    ((∃ e x u, s.wordOf c k q.pos q.word q.front = (.trap e x, u)) ∧ ¬ TrapsNow (s.strand c k) q)

/-- A chain of strand `k` of core `c` has run, and no CHWAIT has waited for it yet (R34). -/
def HasRunning (s : State) (c k : Nat) : Prop := ∃ e ∈ (s.core c).slots, e.2.owner = k ∧ e.2.unwaited = true

/-- Interrupt `n` of a strand is pending and enabled (R86, R88). -/
def Pending (s : State) (c k n : Nat) : Bool := (s.strand c k).sie.getLsbD n && (s.sip c k).getLsbD n

end Sys2Proof.Claims

/-- What strands take and find between their instructions (R18, R25, R83, R85 to R88, R162, R241, R242, R279, R282): an enabled
interrupt, in the order SEI, SSI, STI, at a fence that waits and at a QPOPX at which the strand waits as if it had not been executed (R18, R320); a
pending break trap, before any interrupt; the end of a wait; a reply of Titania, all ones where a7 names no service (which values name one is a
constant of the model, log 95); the sequencer's admission of the oldest queued word that can be admitted, a fault of which waits until all that is
older has completed and undoes what younger words have changed (R23, R87, R225; how far, log 6), its completion of a walk; a timer that has come; a row given up; and room in the fault ring. -/
def Obligations.StrandEvents : Prop :=
  ∀ (s : State) (c k : Nat), s.stop = none →
    let t := s.strand c k
    (Boundary_ t → s.inContext c k = false →
      let on : Prop := t.priv = .u ∨ t.sstatus.getLsbD 1 = true
      ((∀ n, n < 4 → ¬ ((s.slot c n).state = .broken ∧ (s.slot c n).owner = k ∧ (s.slot c n).p = true)) ∨ t.tw = true →
        on → ∀ n, (n = 9 ∨ (n = 1 ∧ Pending s c k 9 = false) ∨ (n = 5 ∧ Pending s c k 9 = false ∧ Pending s c k 1 = false)) → Pending s c k n = true →
          exec (.interruptEntry c k) s = .next ((atTrap s c k).takeTrap c k ((atTrap s c k).strand c k).pc
            { cause := BitVec.ofNat 64 (2 ^ 63 + n), stval := 0, vcause := 0, pages := [] })) ∧
      (t.tw = false → ∀ n, n < 4 → (s.slot c n).state = .broken → (s.slot c n).owner = k → (s.slot c n).p = true →
        (∀ m, m < n → ¬ ((s.slot c m).state = .broken ∧ (s.slot c m).owner = k ∧ (s.slot c m).p = true)) →
        let y := s.slot c n
        exec (.interruptEntry c k) s = .next s ∧
        exec (.breakTrapEntry c k) s = .next
          (((atTrap s c k).onStrand c k fun t => t.enter t.pc { cause := 48, stval := y.brec.w2, vcause := y.brec.w1, pages := [] }).setSlot c n
            { y with p := false, sv := true }))) ∧
    (∀ q : Queued, (∀ e ∈ s.undos, e.key ≠ 4 * c + k ∨ e.pos ≤ q.pos) → s.undoAfter c k q.pos = s) ∧
    (∀ w, t.status = .waiting → t.wait = some w → t.fault ≠ none → exec (.waitEnd c k) s = .next s) ∧
    (∀ w, t.status = .waiting → t.wait = some w → t.fault = none → ∀ isOver : Prop, (isOver ↔ match w with
        | .copy n => (s.copy c n).state = .free ∨ (s.copy c n).state = .done
        | .completion va => s.visible c k va = true
        | .chain n => (s.slot c n).state = .free ∨ (s.slot c n).state = .idle
        | .buffer b => (s.wbuf c b).state ≠ .filling
        | .barrier n v => s.barrierMet c n v = true
        | .queue q => (s.queue c q).owner ≠ none ∨ 0 < (s.queue c q).held
        | .titania => False
        | .interrupt => s.sip c k &&& t.sie ≠ 0) →
      (isOver → exec (.waitEnd c k) s = .next (s.setStrand c k { t with status := .active, wait := none })) ∧
      (¬ isOver → exec (.waitEnd c k) s = .next s)) ∧
    (∀ a0 a1 : Word, t.status = .waiting → t.wait = some .titania →
      let answer (x : Strand) (v0 v1 : Word) : State := s.setStrand c k
        { ((x.writeX 10 v0).writeX 11 v1) with
          status := .active, wait := none, pc := t.pc + 4, instret := t.instret + 1, events := SMap.set 0 t.events 1 (SMap.get 0 t.events 1 + 1) }
      (t.readX 17 ≠ 0x4E0 → Config.osService (t.readX 17) = true → exec (.titaniaReply c k a0 a1) s = .next (answer t a0 a1)) ∧
      (t.readX 17 ≠ 0x4E0 → Config.osService (t.readX 17) = false →
        exec (.titaniaReply c k a0 a1) s = .next (answer t (BitVec.allOnes 64) (t.readX 11))) ∧
      (t.readX 17 = 0x4E0 → t.notices = [] → exec (.titaniaReply c k a0 a1) s = .next (answer t 0 a1)) ∧
      (t.readX 17 = 0x4E0 → ∀ n ns, t.notices = n :: ns →
        exec (.titaniaReply c k a0 a1) s = .next (answer { t with notices := ns } (BitVec.ofNat 64 n.kind) n.arg))) ∧
    (t.lq ++ t.aq ++ t.sq ≠ [] →
      ((∀ q ∈ t.heads, Unable s c k q) → exec (.vectorAdmission c k) s = .next (strandCounts s c k 4 (cyclesOf s (dieOf c)))) ∧
      (∀ hs q rest, t.heads = hs ++ q :: rest → (∀ p ∈ hs, Unable s c k p) → Open_ s c k q → ¬ FencedWord t q →
        (∀ n u, s.wordOf c k q.pos q.word q.front = (.ok n, u) → u.stop = none →
          let v := u.onStrand c k fun x => (x.accept (opnOf (encode q.word)) n (footprint q.word q.front.modes)).dequeue q
          exec (.vectorAdmission c k) s = .next (((s.noteChanges v c k q.pos).pruneUndos c k).onCore c fun r => { r with lastAdmit := k })) ∧
        (∀ e x u, s.wordOf c k q.pos q.word q.front = (.trap e x, u) → u.stop = none → TrapsNow t q → exec (.vectorAdmission c k) s =
          .next (((wentBack u c k q e).takeTrap c k q.pc x).onCore c fun r => { r with lastAdmit := k })) ∧
        (∀ f, elementOf q.word = some f → (f.mask = true ∨ f.d.toNat < 48) → (∀ x ∈ f.srcs, x.toNat < 48) → ¬ HasRunning s c k →
          ∃ u, exec (.vectorAdmission c k) s = .next u ∧ OnlyCoreStrand c k s { u with undos := s.undos } ∧ (u.core c).lastAdmit = k ∧
            (u.strand c k).lq = t.lq.filter (fun o => o.pos ≠ q.pos) ∧ (u.strand c k).aq = t.aq.filter (fun o => o.pos ≠ q.pos) ∧
            (u.strand c k).sq = t.sq.filter (fun o => o.pos ≠ q.pos)))) ∧
    (∀ r, t.walks.contains r = true → ∃ u, exec (.vectorWalkComplete c k r) s = .next u ∧ OnlyStrand c k s u ∧
      (u.strand c k).walks = t.walks.erase r ∧
      ∀ j, SMap.get false (u.strand c k).feClear j = (if j = r ∧ (t.walks.erase r).contains r = false then false else SMap.get false t.feClear j)) ∧
    (t.stimecmp.toNat ≤ s.timeFor c k → exec (.stipSet c k) s = .next (s.noteTime c k)) ∧
    (∀ i, t.status = .idle → t.heldBy ≠ none → i < 8 →
      exec (.rowReopenGiveup c k i) s = .next (s.setStrand c k { t with giveUp := t.giveUp.erase i ++ [i] })) ∧
    ∀ d n, exec (.faultRingAdvance d n) s =
      .next (s.setDie d { s.die d with ringR := if (s.die d).ringR + n < (s.die d).ringW then (s.die d).ringR + n else (s.die d).ringW })

namespace Sys2Proof.Claims

/-- The job that owns region `g`. -/
def HasRegion (s : State) (g id : Nat) (j : Job) (r : Region) : Prop :=
  s.region g = some r ∧ r.running = some (BitVec.ofNat 32 id) ∧ id < 2 ^ 32 ∧ s.job id = some j

/-- The energy that a job starts with (R269). -/
def startEnergy (eclass : Nat) : Nat := [0, 25000, 50000, 100000, 200000, 400000, 800000, 1600000].getD eclass 0

/-- A job and its completion word end with a status (R46, R228). -/
def ends (s : State) (id : Nat) (j : Job) (status : Nat) : State :=
  let u := (s.touch j.donePlace).store (.other 0) (piecesOf j.donePlace (toBytes status 8))
  { u with jobs := u.jobs.del id }

/-- What a job has held in its region `r` is given up from `s` to `v` (R46, R93, R132, R158, R233, R290): on each of its cores the chain slots with
their queues, the copies, buffers and tables, the rows, probes and watches, and the handles that it has allocated or retired, and with them the
region and the reserve that is left. Memory stays. -/
def GaveUp (s v : State) (id : Nat) (j : Job) (r : Region) : Prop :=
  v.region j.region = some { r with running := none, limit := none } ∧ v.account = s.account + j.reserve ∧
  (∀ T o, v.tierByte T o = s.tierByte T o) ∧
  ∀ c ∈ r.cores,
    let x := v.core c
    (x.slots = [] ∧ x.copies = [] ∧ x.wbufs = [] ∧ x.cbs = [] ∧ x.flights = [] ∧ x.args = [] ∧ x.jobid = 0 ∧ x.record = none) ∧
    (∀ q, v.queue c q = Queue.reset) ∧
    (∀ n, let t := s.tile c n
      v.tile c n = if t.job = BitVec.ofNat 32 id ∧ (t.allocated = true ∨ t.gen = 0xFF) then Tile.reset else t) ∧
    ∀ k, k < 4 →
      let t := v.strand c k
      t.watches = [] ∧ t.inStep = false ∧ (∀ i, i < 8 → (t.row i).held = false) ∧ ∀ p, (t.probe p).live = false

/-- The energy that a running job draws from the account in a microsecond, beyond what its reserve gives (R233). -/
def drawn (m : List (Nat × Nat)) (j : Job) : Nat :=
  if j.state = .running ∨ j.state = .stopping then
    let used := ((m.find? fun e => e.1 = j.region).map (·.2)).getD 0
    used - min used j.reserve
  else 0

/-- A job after a microsecond (R233, R234). -/
def charged (m : List (Nat × Nat)) (j : Job) : Job :=
  if j.state = .running ∨ j.state = .stopping then
    { j with reserve := j.reserve - min (((m.find? fun e => e.1 = j.region).map (·.2)).getD 0) j.reserve
             timer := if j.state = .running then j.timer - 1 else j.timer }
  else j

/-- The strands of a region's cores. -/
def eachStrand (r : Region) (f : State → Nat → Nat → State) (s : State) : State :=
  r.cores.foldl (fun u c => (List.range 4).foldl (fun v k => f v c k) u) s

/-- A predecessor of a job has failed: its completion word holds neither 0 nor the pending value (R229). -/
def PredFailed (s : State) (j : Job) : Prop :=
  ∃ i, i < 4 ∧ j.preds.getD i 0 ≠ 0 ∧ s.predValue j (j.preds.getD i 0) ≠ 0 ∧ s.predValue j (j.preds.getD i 0) ≠ pendingWord.toNat

/-- A region asks for a job: it runs none, its clocks run, and a job of its queue is READY. -/
def Asks (s : State) (g : Nat) : Prop :=
  ∃ r, s.region g = some r ∧ r.running = none ∧ r.frozen = false ∧ ∃ e ∈ s.jobsOf g, e.2.state = .ready

end Sys2Proof.Claims

/-- Jobs between their instructions (R46, R226 to R236, R269 to R273, R290 to R293): a QUEUED job whose predecessors have ended is
READY, or ends with status 3 where one has failed, which a job made READY by a hint does too; a job that Titania ends, without a HALTED
strand, gives everything up with status 2; a free region takes its best READY job, and passes the others, once no region's request for
energy stands before its own and the account covers the reserve; a leaf runs its next step on each of its cores, none of which has
strand 0 HALTED, and advances when all of them are over; a quantum that has run out starts again or stops the job; a STOPPING job stops
at the boundary, or after its grace; a limiter's window starts at the cores whose last one is over; energy is accounted for, to the reserve of
each running job before the account, and 115 °C freezes the device (R484); the end of a job gives up all that it holds on the cores of its
region, and writes the status (R46, R132, R290); and a core reset alone has every register at its reset value. The order of requests is
kept by region, a core's cycle count starts again from 0, and a returned reserve is held to the ceiling only at the next refill: these
are the model's choices (log entries 108, 110 and 107). -/
def Obligations.JobEvents : Prop :=
  ∀ (s : State), s.stop = none →
    (∀ (id : BitVec 32) j, s.job id.toNat = some j → j.state = .queued →
      let ps := ((List.range 4).map fun i => (i, j.preds.getD i 0)).filter fun x => x.2 ≠ 0
      let value (v : Word) : Nat := s.predValue j v
      let bad : Prop := ∃ p ∈ ps, value p.2 ≠ 0 ∧ value p.2 ≠ pendingWord.toNat
      let met : Prop := ∀ p ∈ ps, value p.2 = 0 ∨ (j.sa.getD p.1 false = true ∧ s.hinted j p.2 = true)
      (bad ↔ PredFailed s j) ∧
      (bad → (ends s id.toNat j 3).stop = none → exec (.dependenceMet id) s = .next (ends s id.toNat j 3)) ∧
      (¬ bad → met → exec (.dependenceMet id) s = .next (s.setJob id.toNat { j with state := .ready })) ∧
      (¬ bad → ¬ met → exec (.dependenceMet id) s = .next (s.setJob id.toNat j))) ∧
    (∀ (id : BitVec 32) j, s.job id.toNat = some j → j.state ≠ .queued →
      let late : Prop := j.state = .ready ∧ j.resume = .fresh ∧ PredFailed s j
      (late → (ends s id.toNat j 3).stop = none → exec (.dependenceMet id) s = .next (ends s id.toNat j 3)) ∧
      (¬ late → exec (.dependenceMet id) s = .next s)) ∧
    (∀ g id j r, HasRegion s g id j r → j.region = g →
      let halted : Prop := ∃ c ∈ r.cores, ∃ k, k < 4 ∧ (s.strand c k).status = .halted
      (halted → exec (.jobAbort (BitVec.ofNat 32 id)) s = .next s) ∧
      (¬ halted →
        let u := (eachStrand r (fun u c k => u.onStrand c k Strand.aborted) s).endJob id j r 2
        let v := eachStrand r (fun u c k => u.notify c k 4 (BitVec.ofNat 64 id)) u
        v.stop = none → exec (.jobAbort (BitVec.ofNat 32 id)) s = .next v)) ∧
    (∀ g r, s.region g = some r →
      let ready := (s.jobsOf g).filter fun e => e.2.state = .ready
      (ready = [] → exec (.jobSelection g) s = .next s) ∧
      (∀ id j, bestOf ready = some (id, j) →
        (r.running ≠ none ∨ r.frozen = true → exec (.jobSelection g) s = .next s) ∧
        (r.running = none → r.frozen = false →
          let late : Prop := j.resume = .fresh ∧ PredFailed s j
          (late → (ends s id j 3).stop = none → exec (.jobSelection g) s = .next (ends s id j 3)) ∧
          (¬ late → j.eclass < 8 →
            ((∃ x ∈ s.draws, x ≠ g ∧ Asks s x) → g ∉ s.draws → ∃ l, exec (.jobSelection g) s = .next { s with draws := l ++ [g] }) ∧
            (s.account < startEnergy j.eclass → ∃ l, exec (.jobSelection g) s = .next { s with draws := l } ∧ g ∈ l) ∧
            (startEnergy j.eclass ≤ s.account → ∀ w, s.draws = w ++ [g] ∨ (s.draws = w ∧ g ∉ w) → (∀ x ∈ w, ¬ Asks s x) →
              let u := (ready.foldl (fun (u : State) e => if e.1 = id then u else u.setJob e.1 { e.2 with passes := min 4 (e.2.passes + 1) })
                { s with draws := [] }).runJob id j r
              u.stop = none → exec (.jobSelection g) s = .next u))))) ∧
    (∀ g id j r leaf, HasRegion s g id j r →
      ((∃ x ∈ r.leafCores (j.node leaf), (s.strand x.2 0).status = .halted) → exec (.stepEntry g leaf) s = .next s) ∧
      (j.state = .running → r.frozen = false → j.reopen = [] → j.mayStep leaf = true →
        (∀ x ∈ r.leafCores (j.node leaf), (s.strand x.2 0).status ≠ .halted) →
        let w := j.walker leaf
        let w1 : Walker := { w with running := true, c := if w.c = [] then List.replicate (j.node leaf).nest.depth 0 else w.c }
        let j1 := { j with walkers := j.walkers.put leaf w1, reopen := [] }
        let u := (r.leafCores (j.node leaf)).foldl (fun (u : State) x => u.enterCore j1 leaf x.1 x.2) (s.setJob id j1)
        u.stop = none → exec (.stepEntry g leaf) s = .next u) ∧
      (j.mayStep leaf = false → exec (.stepEntry g leaf) s = .next s) ∧
      (r.frozen = false → (j.walker leaf).running = true →
        let cs := (r.leafCores (j.node leaf)).map (·.2)
        ((∃ c ∈ cs, s.coreOver c = false) → exec (.stepComplete g leaf) s = .next s) ∧
        ((∀ c ∈ cs, s.coreOver c = true) →
          let n := (j.node leaf).nest
          let w := j.walker leaf
          let w1 : Walker := { c := (bump n.bounds.reverse w.c.reverse).reverse, s := w.s + 1, running := false, complete := decide (n.total ≤ w.s + 1) }
          let j1 := { j with walkers := j.walkers.put leaf w1 }
          let u := (cs.foldl (fun (u : State) c => u.onCore c fun x => { x with copies := x.copies.map freeDone }) s).setJob id j1
          (j1.rootDone = false → exec (.stepComplete g leaf) s = .next u) ∧
          (j1.rootDone = true → (u.endJob id j1 r 0).stop = none → exec (.stepComplete g leaf) s = .next (u.endJob id j1 r 0)))) ∧
      (j.state = .running → j.quantum ≠ 0 → j.timer = 0 →
        let rival : Prop := ∃ e ∈ s.jobsOf g, e.2.state = .ready
        (¬ rival → exec (.quantumExpiry g) s = .next (s.setJob id { j with timer := j.quantum })) ∧
        (rival →
          let cs := ((j.tree.filter fun x => x.kind = .leaf).flatMap fun x => (r.leafCores x).map (·.2)).eraseDups
          exec (.quantumExpiry g) s = .next ((cs.foldl (fun (u : State) c => u.notify c 0 1 (BitVec.ofNat 64 (s.time + 20000))) s).setJob id
            { j with state := .stopping, grace := s.time + 20000 }))) ∧
      (j.state = .stopping → r.frozen = false →
        let still : Prop := ∀ e ∈ j.walkers, e.2.running = false
        (still → exec (.stepBoundaryStop g) s = .next (s.stopAtBoundary id j r)) ∧
        (¬ still → exec (.stepBoundaryStop g) s = .next s) ∧
        (s.time < j.grace → exec (.graceExpiry g) s = .next s) ∧
        (j.grace ≤ s.time → still → exec (.graceExpiry g) s = .next (s.stopAtBoundary id j r)) ∧
        (j.grace ≤ s.time → ¬ still → exec (.graceExpiry g) s = .next (s.saveRegion id j r .frozen j.reopen)))) ∧
    (∀ g r, s.region g = some r →
      let isOver (c : Nat) : Bool := match (s.core c).limit with | some l => decide (l.2 ≤ (s.core c).window + 1) | none => false
      exec (.rateWindowBoundary g) s = .next ((r.cores.filter isOver).foldl (fun (u : State) c =>
        u.onCore c fun x => { x with limit := r.limit, window := 0, admitted := [] }) s)) ∧
    (∀ m (out temp : Nat), (s.jobs.map (·.1)).Nodup →
      let d := min 2400 ((2400 - s.powerCap) + 100 * (temp - 95))
      let draws : Nat := s.jobs.foldl (fun n e => n + (e.2.map (drawn m)).getD 0) 0
      ∃ u : State, u = { s with jobs := u.jobs, account := u.account, temp := temp, derate := d } ∧
        u.account = min 2400000 (s.account + ((2400 - d : Nat) : Int)) - (draws : Int) - (out : Int) ∧
        (∀ id, u.job id = (s.job id).map (charged m)) ∧
        exec (.energyAccountTick m out temp) s = .next (if temp < 115 then u else u.freezeBy .onyx)) ∧
    (∀ g id j r status, HasRegion s g id j r → j.region = g → ∃ v, GaveUp s v id j r ∧
      s.endJob id j r status = r.cores.foldl (fun u c => u.onCore c fun x => { x with limit := none, window := 0, admitted := [] })
        (ends v id j status)) ∧
    (∀ g r, s.region g = some r → r.frozen = true →
      exec (.containmentReset (.region g)) s = .next (s.setRegion g { r with resets := r.resets ++ [.region g] })) ∧
    ∀ c, (s.core c).region = none → (s.core c).slots = [] → (s.core c).copies = [] → (s.core c).ports = [] →
      (∀ k, k < 4 → (s.strand c k).sq = []) → (∀ e ∈ s.cores, e.1 ≠ c → ∀ f ∈ e.2.flights, f.src ≠ c) →
      (∀ e ∈ s.cores, ∀ y ∈ e.2.slots, y.2.state ≠ .spatial ∨ ∀ n, n < y.2.rec_.nodes.length → (y.2.rec_.node n).core ≠ c) →
      let freed := (List.range 4).foldl (fun (u : State) k =>
        let v := (u.freeRows c k).freeProbes c k
        (v.unpinAll (v.strand c k).vtsafePages).setStrand c k { Strand.reset with lastTime := (v.strand c k).lastTime }) s
      let u := freed.setCore c { Core.reset with region := (freed.core c).region, seq := (freed.core c).seq }
      u.stop = none → exec (.containmentReset (.core c)) s = .next u

/-! ## Events of the device -/

namespace Sys2Proof.Claims

/-- An error counter rises, up to its limit (R277). -/
def errs (s : State) (kind unit : Nat) : State :=
  { s with errs := SMap.set 0 s.errs (errKey kind unit) (min 0xFFFFFFFF (SMap.get 0 s.errs (errKey kind unit) + 1)) }

/-- Event 0x15 of a core, and a telemetry record of kind 1 (R278). -/
def stallTold (s : State) (c unit n : Nat) : State :=
  let u := coreCounts s c 0x15 1
  { u with out := u.out ++ [.telemetry 1 unit (u.dieTime (dieOf c)) [n]] }

/-- A lending entry's state and its count of handshakes (R154). -/
def lend (e : BitVec 16) (st shake : Nat) : BitVec 16 := BitVec.ofNat 16 ((e.toNat / 256 + shake) % 256 * 256 + st)
def neighbour (ch : Nat) : Nat := if ch % 2 = 0 then ch + 1 else ch - 1

/-- The rows of slot `i` of a bank that a strand holds (R157). -/
def rowsHeldIn (s : State) (b i : Nat) (t : Strand) : Nat :=
  match (s.rowSlot b i).block with
  | some r => (t.held.filter fun x => s.rowOf (.dev x.phys) = some r).length
  | none => 0

/-- The cores of a set on one die form a rectangle (R39). -/
def Rect (cs : List Nat) : Prop :=
  cs = [] ∨
    let up (f : Nat → Nat) : Nat := (cs.map f).foldl max 0
    let low (f : Nat → Nat) : Nat := (cs.map f).foldl min ((cs.map f).headD 0)
    cs.length = (up coreRow - low coreRow + 1) * (up coreCol - low coreCol + 1)

/-- A device physical page that no window covers (R468): it lies beyond DRAM, or holds a page table, a fault record ring, or other memory of Titania
or Onyx; which pages those are is a constant of the model. -/
def Guarded (s : State) (n : Nat) : Prop :=
  0x12000000 ≤ n ∨ Config.titaniaPage n = true ∨ n ∈ s.tablePages ∨
    ∃ i o d, i < 64 ∧ d < 4 ∧ s.place (4096 * n + 64 * i) = some (.fast, o) ∧ ringSlot d 0 ≤ o ∧ o < ringSlot d 0 + 64 * 4096

/-- A range of pages meets such a page. -/
def GuardedIn (s : State) (page pages : Nat) : Prop := ∃ i, i < pages ∧ Guarded s (page + i)

/-- A window covers such a page. -/
def Exposed (s : State) : Prop :=
  (∃ e ∈ s.devWindows, ∃ w, e.2 = some w ∧ GuardedIn s w.page w.pages) ∨ ∃ e ∈ s.fabricWindows, ∃ w, e.2 = some w ∧ GuardedIn s w.page w.pages

/-- What an act of Titania leads to from `s`, which leaves it undone where it would put a page table under a window (R468). -/
def Hides (i : Instr) (s u : State) : Prop :=
  (Exposed u → Exposed s → exec i s = .next u) ∧ (¬ Exposed u → exec i s = .next u) ∧ (Exposed u → ¬ Exposed s → exec i s = .next s)

/-- The copies that the revocation of handle `h` ends: those under way into or out of it (R133, R240). -/
def RevokedCopy (h : Word) (x : Copy) : Bool :=
  (x.state = .waiting || x.state = .active || x.state = .suspended) && x.handles.contains h &&
    (!x.beatsDone || (x.kind = .acopy && x.dkind = 1 && !x.arrived && x.w 3 = h))

end Sys2Proof.Claims

/-- Errors, watchdogs, DRAM and Titania's tables and tiles (R39, R129, R133, R140, R151, R154, R160, R163, R168, R256, R259, R276 to
R278): what each event changes, and when it changes nothing, as for a line, a unit or a bank that the device does not have, and for a
region when a die of it has no context left (log 79, DESIGN CHOICE); a table write that the device refuses changes nothing (log 81, DEDUCED),
nor does an act of Titania that would put a page table under a window (R468). A refresh writes back and reopens every row that its bank holds.
A revocation ends the copies under way into or out of its handle on every core that can name it (R133, R240). A lending handshake is counted at
the lending channel, and a revoked handle's generation rises: these are the model's choices (log entries 111 and 113). -/
def Obligations.MemoryAndTableEvents : Prop :=
  ∀ (s : State), s.stop = none →
    (∀ l, 6 * 2 ^ 30 ≤ l → exec (.dramUncorrectableError .fast l) s = .next s) ∧
    (∀ l, 12 * 2 ^ 30 ≤ l → exec (.dramUncorrectableError .capacity l) s = .next s) ∧
    (∀ l, l < 6 * 2 ^ 30 → exec (.dramUncorrectableError .fast l) s = .next
      (errs { s with poisonFast := SMap.set false s.poisonFast l true } 3 (chanOf (64 * l / 1024)))) ∧
    (∀ l, l < 12 * 2 ^ 30 → exec (.dramUncorrectableError .capacity l) s = .next
      (errs { s with poisonCap := SMap.set false s.poisonCap l true } 3 (256 + 64 * l / 256 % 16))) ∧
    (∀ c l, 256 ≤ c ∨ lineCount false ≤ l → exec (.tileUncorrectableError .l0 c l) s = .next s) ∧
    (∀ d l, 4 ≤ d ∨ lineCount true ≤ l → exec (.tileUncorrectableError .l1 d l) s = .next s) ∧
    (∀ c l, c < 256 → l < lineCount false → exec (.tileUncorrectableError .l0 c l) s = .next
      (errs (s.onCore c fun r => { r with l0poison := r.l0poison.put l true }) 1 (256 * c + l % 31))) ∧
    (∀ d l, d < 4 → l < lineCount true → exec (.tileUncorrectableError .l1 d l) s = .next
      (errs (s.setDie d { s.die d with l1poison := (s.die d).l1poison.put l true }) 1 (65536 + 256 * d + l % 127))) ∧
    (∀ ch, ch < 256 → exec (.eccCorrected (.dramChannel .fast ch)) s = .next (errs s 2 ch)) ∧
    (∀ ch, ch < 16 → exec (.eccCorrected (.dramChannel .capacity ch)) s = .next (errs s 2 (256 + ch))) ∧
    (∀ l u b, (match l with | .l0 => u < 256 ∧ b < 31 | .l1 => u < 4 ∧ b < 127) → exec (.eccCorrected (.tileBank l u b)) s = .next (errs s 0 (match l with | .l0 => 256 * u + b | .l1 => 65536 + 256 * u + b))) ∧
    (∀ c k, let t := s.strand c k
      (t.wdRun < 2 ^ 24 → exec (.watchdogEvent (.strand c k)) s = .next s) ∧
      (2 ^ 24 ≤ t.wdRun → exec (.watchdogEvent (.strand c k)) s = .next
        (stallTold (s.setStrand c k { t with wdRun := t.wdRun - 2 ^ 24, wdEvents := min 0xFFFF (t.wdEvents + 1) }) c (4 * c + k) (min 0xFFFF (t.wdEvents + 1))))) ∧
    (∀ c q, let x := s.queue c q
      (x.wdRun < 2 ^ 24 → exec (.watchdogEvent (.queue c q)) s = .next s) ∧
      (2 ^ 24 ≤ x.wdRun → exec (.watchdogEvent (.queue c q)) s = .next
        (stallTold (s.setQueue c q { x with wdRun := x.wdRun - 2 ^ 24, wdEvents := min 0xFFFF (x.wdEvents + 1) }) c (2 ^ 16 + 16 * c + q)
          (min 0xFFFF (x.wdEvents + 1))))) ∧
    (∀ c q, let n := SMap.get 0 (s.core c).circuits (2 * q)
      let m := min 0xFFFF (SMap.get 0 (s.core c).circuits (2 * q + 1) + 1)
      (n < 2 ^ 24 → exec (.watchdogEvent (.circuit c q)) s = .next s) ∧
      (2 ^ 24 ≤ n → exec (.watchdogEvent (.circuit c q)) s = .next
        (stallTold (s.setCore c { s.core c with circuits := SMap.set 0 (SMap.set 0 (s.core c).circuits (2 * q) (n - 2 ^ 24)) (2 * q + 1) m }) c
          (2 ^ 17 + 512 * c + q) m))) ∧
    (∀ b, (∀ i, i < 4 → (s.rowSlot b i).block = none) → exec (.refreshBreak b) s = .next s) ∧
    (∀ b, ∃ u, exec (.refreshBreak b) s = .next u ∧ u = { s with rowSlots := u.rowSlots, strands := u.strands } ∧
      (∀ i, i < 4 → let x := s.rowSlot b i
        u.rowSlot b i = if x.block = none then x else { x with breaks := if x.breaks = BitVec.allOnes 16 then x.breaks else x.breaks + 1 }) ∧
      ∀ c k, let t := s.strand c k
        u.strand c k = { t with events := (u.strand c k).events } ∧
        ∀ e, SMap.get 0 (u.strand c k).events e = SMap.get 0 t.events e +
          if e = 0x0B then BitVec.ofNat 64 (rowsHeldIn s b 0 t + rowsHeldIn s b 1 t + rowsHeldIn s b 2 t + rowsHeldIn s b 3 t) else 0) ∧
    (∀ ch, ch < 256 →
      let a := SMap.get 0 s.lend ch
      let b := SMap.get 0 s.lend (neighbour ch)
      (a.toNat % 4 ≠ 0 ∨ b.toNat % 4 ≠ 0 ∨ s.holdsRow ch = true → exec (.channelLend ch) s = .next s) ∧
      (a.toNat % 4 = 0 → b.toNat % 4 = 0 → s.holdsRow ch = false → exec (.channelLend ch) s =
        .next { s with lend := (s.lend.put ch (lend a 1 1)).put (neighbour ch) (lend b 2 0) }) ∧
      (a.toNat % 4 ≠ 1 → exec (.channelReclaim ch) s = .next s) ∧
      (a.toNat % 4 = 1 → exec (.channelReclaim ch) s =
        .next { s with lend := (s.lend.put ch (lend a 0 1)).put (neighbour ch) (lend b 0 0) })) ∧
    (∀ id tenant cores satp,
      let cs := cores.eraseDups.mergeSort fun a b => a ≤ b
      let onDie (d : Nat) : Nat := (s.regions.filter fun e => e.2.any fun r => r.cores.any fun x => dieOf x = d).length
      let fits : Prop := id < 64 ∧ s.region id = none ∧ cs ≠ [] ∧ (∀ c ∈ cs, c < 256 ∧ (s.core c).region = none) ∧
        ∀ d, d < 4 → Rect (cs.filter fun c => dieOf c = d) ∧ ((∃ c ∈ cs, dieOf c = d) → onDie d < 16)
      (¬ fits → exec (.regionCreate id tenant cores satp) s = .next s) ∧
      (fits → Hides (.regionCreate id tenant cores satp) s
        ((cs.foldl (fun (u : State) c => u.onCore c fun r => { r with region := some id }) s).setRegion id
          { cores := cs, tenant := tenant, satp := satp, running := none, limit := none, frozen := false, resets := [] }))) ∧
    (∀ id r, s.region id = some r →
      (s.jobsOf id ≠ [] → exec (.regionDestroy id) s = .next s) ∧
      (s.jobsOf id = [] → exec (.regionDestroy id) s = .next
        { r.cores.foldl (fun (u : State) c => u.onCore c fun x => { x with region := none }) s with regions := s.regions.del id })) ∧
    (∀ n w0 w1, let wz : Prop := part w0 62 54 ≠ 0 ∨ part w0 43 22 ≠ 0
      (n < 32 → ¬ wz → (w0.getLsbD 63 = false ∨ s.badInterleave n w0 w1 = false) →
        exec (.interleaveTableWrite n w0 w1) s = .next { s with interleave := s.interleave.put n (w0, w1) }) ∧
      (32 ≤ n ∨ wz ∨ (w0.getLsbD 63 = true ∧ s.badInterleave n w0 w1 = true) → exec (.interleaveTableWrite n w0 w1) s = .next s)) ∧
    (∀ r t f w, let used : Prop := (∃ c ∈ s.cores, ∃ y ∈ c.2.slots, ∃ x ∈ y.2.rec_.routes, x.tag = t) ∨ t ∈ s.keptTags
      let reserved : Prop := 256 ≤ r ∧ part w 17 15 ≠ 0 ∧ t ≠ Config.checkpointTag
      (¬ used → ¬ reserved → r < 264 → t < 256 → f < 8 → part w 60 45 = 0 → part w 39 32 = 0 →
        exec (.routerTagTableWrite r t f w) s = .next { s with tags := SMap.set 0 s.tags (2048 * r + 8 * t + f) w }) ∧
      (used ∨ reserved ∨ 264 ≤ r ∨ 256 ≤ t ∨ 8 ≤ f ∨ part w 60 45 ≠ 0 ∨ part w 39 32 ≠ 0 → exec (.routerTagTableWrite r t f w) s = .next s)) ∧
    (∀ ws denied,
      let ps : Pieces := ws.map fun e => (.dev e.1, e.2)
      let u := (ps.foldl (fun (u : State) x => u.touch x.1) s).store (.other 0) ps
      u.stop = none → Hides (.pageTableInvalidation ws denied) s { u with
        denied := denied
        dies := u.dies.map fun e => (e.1, { e.2 with walker := e.2.walker.filter fun f => SMap.get 0 u.pins (pinKey f.page) ≠ 0 }) }) ∧
    (∀ c n b, let t := s.tile c n
      (n < 2048 → t.allocated = true → (t.state = .empty ∨ t.state = .full) → t.res = 0 → freeRun (s.levelRuns true c) b t.lines = true →
        b + t.lines ≤ lineCount true → exec (.tileDemote c n b) s = .next
          ((s.setRun true c b (s.runLines false c t.base t.lines)).setTile c n { t with res := 1, base := b })) ∧
      (t.allocated = false ∨ t.state = .filling ∨ t.state = .draining → exec (.tileDemote c n b) s = .next s ∧ exec (.tileEvict c n) s = .next s) ∧
      (t.allocated = true → (t.state = .empty ∨ t.state = .full) → t.res ≠ 2 → exec (.tileEvict c n) s = .next
        ({ s with backing := s.backing.put (backingKey t.job c n) (s.runLines (decide (2048 ≤ n ∨ t.res = 1)) c t.base t.lines) }.setTile c n
          { t with res := 2 })) ∧
      (t.allocated = true → t.res = 2 → freeRun (s.levelRuns (decide (2048 ≤ n)) c) b t.lines = true →
        b + t.lines ≤ lineCount (decide (2048 ≤ n)) →
          let u := s.setRun (decide (2048 ≤ n)) c b (SMap.get [] s.backing (backingKey t.job c n))
          exec (.tileRestore c n b) s = .next
            ({ u with backing := u.backing.del (backingKey t.job c n) }.setTile c n { t with res := 0, base := b })) ∧
      (t.allocated = false ∨ t.res = 0 → exec (.tileRestore c n b) s = .next s)) ∧
    (∀ c n, let t := s.tile c n
      (t.allocated = false → exec (.handleRevocation c n) s = .next s) ∧
      (t.allocated = true →
        let h : Word := BitVec.ofNat 64 (n * 256 + t.gen.toNat)
        let cs := (if n < 2048 then [c] else (List.range 64).map fun i => 64 * dieOf c + i).filter fun x => (s.core x).jobid = t.job
        let u := cs.foldl (fun (u : State) x => (u.core x).copies.foldl (fun (v : State) e =>
          if RevokedCopy h e.2 = true then v.failCopy x e.1 2 (v.beatAddr e.2) else v) u) s
        let t' := u.tile c n
        let gone : Tile := { t' with
          allocated := false, state := .empty, gen := t'.gen + 1, drains := 0, job := if t'.gen = 0xFE then t'.job else 0 }
        exec (.handleRevocation c n) s = .next
          (cs.foldl (fun (u : State) x => (List.range 4).foldl (fun (v : State) k => v.notify x k 2 h) u) (u.setTile c n gone))))

namespace Sys2Proof.Claims

/-- The device sends an output. -/
def emits (u : State) (o : Output) : State := { u with out := u.out ++ [o] }

/-- A Herez port is one of the device's 144, and UP. -/
def IsUp (s : State) (p : Nat) : Prop := p < 144 ∧ (SMap.get Herez.reset s.herez p).link = .up

/-- A change of host window `w` to `new` unmaps a pinned page: a page beyond the new size, or any where the window goes or changes its port
(R469). -/
def DropsPinned (s : State) (w : Nat) (new : Option HostWindow) : Prop :=
  ∃ old, SMap.get none s.hostWindows w = some old ∧ ∃ e ∈ s.pins, e.1 % 2 = 1 ∧ e.1 / 2 / 2 ^ 32 = w ∧ e.2 ≠ 0 ∧
    ∀ n, new = some n → n.port = old.port → n.pages ≤ e.1 / 2 % 2 ^ 32

/-- The ports of group `g` that the checkpoint engine can use: those of its reserved ports 15 to 17 that are UP (R472, R482). -/
def enginePorts (s : State) (g : Nat) : List Nat :=
  [18 * g + 15, 18 * g + 16, 18 * g + 17].filter fun p => decide (p < 144 ∧ (SMap.get Herez.reset s.herez p).link = .up)

/-- Every region is freeze-scanned, or runs again (R482). -/
def regionsFrozen (s : State) (on : Bool) : SMap (Option Region) := s.regions.map fun e => (e.1, e.2.map fun r => { r with frozen := on })

/-- The image that a checkpoint makes (R482): both tiers with their poison, the wrapped keys, and what the freeze-scans saved. -/
def imageOf (s : State) : Image :=
  { tick := s.time, fast := s.fast, cap := s.cap, poisonFast := s.poisonFast, poisonCap := s.poisonCap, keys := Config.wrapKeys s.keySlots,
    saved := { s.saved with regions := s.regions.map fun e => (e.1, e.2.map fun r => { r with frozen := true, resets := [] }) } }

/-- An image of the safe tier holds these bytes of the tiers, poison markers and wrapped keys. -/
def Contents (x : Image) (f c : List (Nat × Byte)) (pf pc : List (Nat × Bool)) (k : List Byte) : Prop :=
  x.fast = f ∧ x.cap = c ∧ x.poisonFast = pf ∧ x.poisonCap = pc ∧ x.keys = k

/-- Onyx may load key slots: none that a valid interleave entry names would change (R480). -/
def KeysFit (s : State) (ks : List (Nat × BitVec 512)) : Prop :=
  ∀ i, i < 64 → (∃ e ∈ s.interleave, e.2.1.getLsbD 63 = true ∧ part e.2.1 53 48 = i) → SMap.get 0 s.keySlots i = SMap.get 0 ks i

/-- A flit that is accepted, by its header: the bits that are zero, the class and the tag (R256, R473, R475). -/
def accepts (s : State) (p head : Nat) (payload : List Byte) : State :=
  let cls := head % 8
  let tag := head / 2 ^ 8 % 256
  let x := SMap.get Herez.reset s.herez p
  if 5 ≤ cls ∨ head / 2 ^ 48 ≠ 0 then errs { s with herez := s.herez.put p { x with drops := x.drops + 1 } } errFlitTag (256 + p / 18)
  else if cls = 4 then
    let word := Config.flitControl payload
    let known : Bool := (x.retry.any fun f => f.seq = word.1) || word.1 = x.sendSeq % 2 ^ 32
    let u : State := { s with herez := s.herez.put p { x with retry := if known then x.retry.dropWhile fun f => f.seq ≠ word.1 else x.retry } }
    if word.2 then u.replay p else u
  else if (s.groupEntry (p / 18) tag).getLsbD 63 = false then errs s errFlitTag (256 + p / 18)
  else if cls = 1 then s.bring (p / 18) tag (Config.flitTokens payload)
  else s

end Sys2Proof.Claims

/-- Hosts, clients, checkpoints and the Herez fabric (R466 to R476, R481, R482, R486): accesses through the windows of the two ports, requests,
which Titania takes from a channel's ring in device memory and answers in one in host memory, links, and what stands closed or waits. Where the
rings lie, what an entry asks for and a reply's statuses are constants and free values of the model (log 77, DESIGN CHOICE). A host window that
would unmap a pinned page changes once it is not pinned. A host write while a checkpoint closes the windows completes with Unsupported Request
(log 75, DEDUCED), and a link's reset drops the port's device windows (log 83, DEDUCED). A restore takes the last image with the contents that
it names, and an image keeps what the freeze-scans saved (log 78, DEDUCED). A flit
that cannot be corrected or whose tag fails is dropped, to be replayed, and one with a nonzero header bit that is zero is dropped and counted
(log 138, DESIGN CHOICE); what a flit carries is a constant's (log 139, DESIGN CHOICE); a flit that moves to its escape channel changes nothing here
(log 101, DESIGN CHOICE). A token for the circuit of a stopped or frozen job waits at its sender (R293). A port that goes DOWN hands its circuits
on to the lowest-numbered port of their masks that is UP (R475). -/
def Obligations.HostAndFabricEvents : Prop :=
  ∀ (s : State), s.stop = none →
    (∀ p a st bs n, 2 ≤ p →
      exec (.hostWindowWrite p a st bs) s = .next s ∧ exec (.hostWindowRead p a st n) s = .next s) ∧
    (∀ p a st bs n ch t, s.booted = false → p < 2 →
      let retry : State := emits s (.requestRetry p)
      exec (.hostWindowWrite p a st bs) s = .next retry ∧ exec (.hostWindowRead p a st n) s = .next retry ∧
        (Config.channelPort ch % 2 = p → exec (.hostDoorbellWrite ch t) s = .next retry)) ∧
    (∀ p a st bs, s.booted = true → p < 2 → s.checkpoint ≠ .none ∨ s.windowFor p a bs.length st = none →
      exec (.hostWindowWrite p a st bs) s = .next (emits s (.unsupportedRequest p))) ∧
    (∀ p a st bs w, s.booted = true → p < 2 → s.checkpoint = .none → s.windowFor p a bs.length st = some w →
      let ps := piecesOf (.dev (4096 * w.page + (a - w.base))) bs
      let u := (ps.foldl (fun (u : State) x => u.touch x.1) s).store (.other 0) ps
      u.stop = none → exec (.hostWindowWrite p a st bs) s = .next u) ∧
    (∀ p a st n, s.booted = true → p < 2 → s.windowFor p a n st = none →
      exec (.hostWindowRead p a st n) s = .next (emits s (.unsupportedRequest p))) ∧
    (∀ p a st n w, s.booted = true → p < 2 → s.windowFor p a n st = some w →
      let at0 : Phys := .dev (4096 * w.page + (a - w.base))
      let u := (List.range n).foldl (fun (u : State) i => u.touch (at0.plus i)) s
      u.stop = none → exec (.hostWindowRead p a st n) s = .next (emits u (.hostCompletion p (s.bytesAt at0 n)))) ∧
    (∀ ch t, s.booted = true →
      (ch < 64 → exec (.hostDoorbellWrite ch t) s = .next
        { s with channels := s.channels.put ch { SMap.get { tail := 0, head := 0 } s.channels ch with tail := t % 4096 } }) ∧
      (64 ≤ ch → exec (.hostDoorbellWrite ch t) s = .next s)) ∧
    (∀ ch svc, let x := SMap.get { tail := 0, head := 0 } s.channels ch
      let at0 : Phys := .dev (Config.ringPlace ch + 64 * x.head)
      let entry := if s.poisonAt at0 = true then List.replicate 64 0 else s.bytesAt at0 64
      (s.booted = false ∨ x.head = x.tail ∨ Config.clientService entry ≠ svc → exec (.clientRequest ch svc) s = .next s) ∧
      (s.booted = true → x.head ≠ x.tail → Config.clientService entry = svc →
        let place := Config.replyPlace ch x.head
        let replied (u : State) (st : Word) : State :=
          u.store (.other 0) (piecesOf (.host place.1 place.2.1 place.2.2) ((Config.replyEntry entry st ++ List.replicate 64 0).take 64))
        let u : State := { s.touch at0 with channels := s.channels.put ch { x with head := (x.head + 1) % 4096 } }
        let answers (v : State) : Prop := ∃ st, exec (.clientRequest ch svc) s = .next (replied v st)
        u.stop = none →
        (svc = none → answers u) ∧
        (∀ w, svc = some (.powerCap w) →
          answers { u with powerCap := if 600 ≤ w ∧ w ≤ 2400 then w else u.powerCap }) ∧
        (∀ q, svc = some (.attest q) →
          answers (emits u (.spdm (256 + ch) (Config.spdmAnswer q ((List.range 8).map fun i => SMap.get 0 u.measurements i))))) ∧
        (svc = some .checkpoint →
          answers (if u.checkpoint = .none then { u with checkpoint := .copying, regions := regionsFrozen u true } else u)) ∧
        (∀ va g, svc = some (.admitJob va g) →
          (u.admitFor va g = none → answers u) ∧ (∀ v, u.admitFor va g = some v → v.stop = none → answers v) ∧
            (va.toNat % 64 ≠ 0 ∨ s.region g = none → u.admitFor va g = none)))) ∧
    (∀ p, 2 ≤ p → exec (.hostLinkFailure p) s = .next s ∧ exec (.hostLinkReset p) s = .next s) ∧
    (∀ p, p < 2 → exec (.hostLinkFailure p) s = .next { s with hostDown := s.hostDown.put p true } ∧
      exec (.hostLinkReset p) s = .next
        { s with hostDown := s.hostDown.put p false, devWindows := s.devWindows.filter fun e => e.1 / 256 ≠ p }) ∧
    (∀ p i b g n,
      (i < 256 → p < 2 → n ≠ 0 → ¬ GuardedIn s g n → exec (.deviceWindowMap p i b g n) s = .next { s with
        devWindows := s.devWindows.put (256 * p + i) (some { base := b, page := g, pages := n, stream := none }) }) ∧
      (i < 256 → p < 2 → exec (.deviceWindowMap p i b g 0) s = .next { s with devWindows := s.devWindows.del (256 * p + i) }) ∧
      (256 ≤ i ∨ 2 ≤ p ∨ GuardedIn s g n → exec (.deviceWindowMap p i b g n) s = .next s)) ∧
    (∀ p i st w, SMap.get none s.devWindows (256 * p + i) = some w →
      exec (.tdispBind p i st) s = .next { s with devWindows := s.devWindows.put (256 * p + i) (some { w with stream := some st }) }) ∧
    (∀ w p n,
      let new : Option HostWindow := if n = 0 then none else some { port := p, pages := n }
      (2048 ≤ w ∨ 2 ≤ p ∨ 2 ^ 32 < n → exec (.hostWindowMap w p n) s = .next s) ∧
      (w < 2048 → p < 2 → n ≤ 2 ^ 32 → s.hostMaps = [] →
        (DropsPinned s w new → exec (.hostWindowMap w p n) s = .next { s with hostMaps := [(w, new)] }) ∧
        (¬ DropsPinned s w new → exec (.hostWindowMap w p n) s = .next
          { s with hostWindows := match new with | some h => s.hostWindows.put w (some h) | none => s.hostWindows.del w }))) ∧
    (s.booted = true → s.checkpoint = .none → exec .checkpointRequest s = .next
      { s with checkpoint := .copying, regions := regionsFrozen s true }) ∧
    (s.booted = false ∨ s.checkpoint ≠ .none → exec .checkpointRequest s = .next s) ∧
    (let held : Prop := ∃ g, g < 8 ∧ enginePorts s g = []
      let done : State :=
        { s with checkpoint := .none, regions := s.regions.map fun e => (e.1, e.2.map fun r => { r with frozen := false, resets := [] }) }
      (held ∨ s.checkpoint = .none → exec .checkpointEngineDone s = .next s) ∧
      (¬ held → s.checkpoint ≠ .none → (∀ e ∈ s.regions, ∀ r, e.2 = some r → r.resets = []) →
        exec .checkpointEngineDone s = .next (if s.checkpoint = .restoring then done
          else emits { done with images := s.images ++ [imageOf s] } (.checkpoint ((List.range 8).flatMap fun g => enginePorts s g)
            { imageOf s with
              fast := s.fast.map fun (e : Nat × Byte) => (e.1, Config.stored 0 e.1 e.2)
              cap := s.cap.map fun (e : Nat × Byte) => (e.1, Config.stored 1 e.1 e.2) })))) ∧
    (∀ f c pf pc k, ((∀ x ∈ s.images, ¬ Contents x f c pf pc k) → exec (.checkpointRestore f c pf pc k) s = .next s) ∧
      ∀ x older newer, s.images = older ++ x :: newer → Contents x f c pf pc k → (∀ y ∈ newer, ¬ Contents y f c pf pc k) →
        (Config.unwrapKeys k = none → exec (.checkpointRestore f c pf pc k) s = .next s) ∧
        (∀ ks, Config.unwrapKeys k = some ks →
          (s.booted = false ∨ s.checkpoint ≠ .none ∨ ¬ KeysFit s ks → exec (.checkpointRestore f c pf pc k) s = .next s) ∧
          (s.booted = true → s.checkpoint = .none → KeysFit s ks → exec (.checkpointRestore f c pf pc k) s = .next
            { s.restoreSaved x.saved with
              checkpoint := .restoring, regions := x.saved.regions.map fun e => (e.1, e.2.map fun r => { r with frozen := true }),
              fast := f.foldl (fun m e => SMap.set memoryDefault m e.1 e.2) [], cap := c.foldl (fun m e => SMap.set memoryDefault m e.1 e.2) [],
              poisonFast := pf, poisonCap := pc,
              keySlots := ks.foldl (fun m e => if e.1 < 64 then SMap.put m e.1 e.2 else m) [] }))) ∧
    (∀ bs : List Byte,
      (bs.length ≠ 256 → corrected bs = none) ∧
      (bs.length = 256 → bs.drop 240 = (Config.fecParity (bs.take 240) ++ List.replicate 16 0).take 16 → corrected bs = some (bs.take 240)) ∧
      (∀ b, corrected bs = some b → b.length = 240 ∧
        (((b ++ (Config.fecParity b ++ List.replicate 16 0).take 16).zip bs).filter fun x => x.1 ≠ x.2).length ≤ 8)) ∧
    (∀ p bs, let x := SMap.get Herez.reset s.herez p
      (¬ IsUp s p → exec (.herezFlitReceive p bs) s = .next s) ∧
      (IsUp s p →
        let drop : State := { s with herez := s.herez.put p { x with drops := x.drops + 1 } }
        (corrected bs = none → exec (.herezFlitReceive p bs) s = .next drop) ∧
        (∀ b, corrected bs = some b →
          let head := areaNum b 0 8
          let key := (SMap.get (0, 0) s.linkKeys p).2
          (Config.openFlit key b = none → exec (.herezFlitReceive p bs) s = .next drop) ∧
          (∀ payload, Config.openFlit key b = some payload →
            let waits : Prop := head / 2 ^ 16 % 2 ^ 32 ≠ x.nextSeq % 2 ^ 32 ∨ (head % 8 = 1 ∧ head / 2 ^ 8 % 256 ∈ s.keptTags)
            (waits → exec (.herezFlitReceive p bs) s = .next s) ∧
            (¬ waits → exec (.herezFlitReceive p bs) s =
              .next (accepts { s with herez := s.herez.put p { x with nextSeq := x.nextSeq + 1 } } p head payload)))))) ∧
    (∀ g c, exec (.escapeChannelMove g c) s = .next s) ∧
    (∀ p, let x := SMap.get Herez.reset s.herez p
      let toLink (l : PortLink) : State := { s with herez := s.herez.put p { x with link := l, drops := 0 } }
      let plain : Prop := s.liveTags = [] ∧ ∀ e ∈ s.herez, e.2.retry = []
      (x.link = .up → p < 144 → 16 ≤ x.drops → exec (.herezPortRetrain p) s = .next (toLink .retrain)) ∧
      (x.link ≠ .up ∨ 144 ≤ p ∨ x.drops < 16 → exec (.herezPortRetrain p) s = .next s) ∧
      (x.link = .retrain → p < 144 → exec (.herezPortDown p) s = .next (s.setLink p .down) ∧
        (plain → s.setLink p .down = emits (toLink .down) (.telemetry 3 p s.time [0])) ∧
        ∀ t f q, t ∈ s.liveTags → f < 8 → s.bound.find? (fun e => e.1 = 8 * t + f) = some (8 * t + f, p) →
          q ∈ maskPorts (exitGroup t) (SMap.get 0 s.tags (2048 * (256 + exitGroup t) + 8 * t + f)) → q ≠ p → IsUp s q →
          (∀ r, r < q → r ∈ maskPorts (exitGroup t) (SMap.get 0 s.tags (2048 * (256 + exitGroup t) + 8 * t + f)) → r = p ∨ ¬ IsUp s r) →
          (s.setLink p .down).bound.find? (fun e => e.1 = 8 * t + f) = some (8 * t + f, q)) ∧
      (x.link ≠ .retrain ∨ 144 ≤ p → exec (.herezPortDown p) s = .next s) ∧
      (x.link ≠ .up → p < 144 → exec (.herezPortUp p) s = .next (s.setLink p .up) ∧
        (plain → s.setLink p .up = emits (toLink .up) (.telemetry 3 p s.time [1]))) ∧
      (x.link = .up ∨ 144 ≤ p → exec (.herezPortUp p) s = .next s)) ∧
    (∀ w t g n,
      (n ≠ 0 → t < 256 → Config.tagGranted t = true → ¬ GuardedIn s g n → exec (.fabricWindowExport w t g n) s = .next
        { s with fabricWindows := s.fabricWindows.put w (some { tag := t, page := g, pages := n }) }) ∧
      (n ≠ 0 → 256 ≤ t ∨ Config.tagGranted t = false ∨ GuardedIn s g n → exec (.fabricWindowExport w t g n) s = .next s) ∧
      exec (.fabricWindowExport w t g 0) s = .next { s with fabricWindows := s.fabricWindows.del w }) ∧
    ∀ w x t a n, SMap.get none s.fabricWindows w = some x →
      let at0 : Phys := .dev (4096 * x.page + a)
      (∀ bs, x.tag ≠ t ∨ 4096 * x.pages < a + bs.length ∨ s.checkpoint ≠ .none → exec (.remoteFabricAccess w t a n (some bs)) s = .next s) ∧
      (∀ bs, x.tag = t → a + bs.length ≤ 4096 * x.pages → s.checkpoint = .none →
        let ps := piecesOf at0 bs
        let u := (ps.foldl (fun (u : State) x => u.touch x.1) s).store (.other 0) ps
        u.stop = none → exec (.remoteFabricAccess w t a n (some bs)) s = .next u) ∧
      (x.tag ≠ t ∨ 4096 * x.pages < a + n → exec (.remoteFabricAccess w t a n none) s = .next s) ∧
      (x.tag = t → a + n ≤ 4096 * x.pages →
        let u := (List.range n).foldl (fun (u : State) i => u.touch (at0.plus i)) s
        u.stop = none →
          exec (.remoteFabricAccess w t a n none) s = .next (u.respond t a (s.bytesAt at0 n)) ∧
          ((u.groupEntry (exitGroup t) t).getLsbD 63 = false → u.respond t a (s.bytesAt at0 n) = errs u errFlitTag (256 + exitGroup t)))

/-- Boot, trust, power and freeze (R295, R477 to R480, R483 to R485): what Onyx starts and measures, the keys, the limiter's clocks, the
freezes, the first of which reads the state out and none of which Onyx has signalled is thawed, the links that retrain at a thaw, and
the device reset. A measurement register is extended with the hash of its old value and the digest (log 45, PRESUMED); a device reset puts
DRAM at its reset value (log 84, DESIGN CHOICE). -/
def Obligations.BootAndPowerEvents : Prop :=
  ∀ (s : State), s.stop = none →
    let wait (last : Nat) : Boot := .backoff (if last = 0 then 1 else min 64 (2 * last))
    let digest (d : BitVec 384) : List Byte := toBytes d.toNat 48
    let extend (u : State) (i : Nat) (d : BitVec 384) : State :=
      { u with measurements := u.measurements.put i (Config.sha384 (digest (SMap.get 0 u.measurements i) ++ digest d)) }
    let freeze (u : State) (f : FreezeSource) : State :=
      let v : State := { u with frozen := some (if u.frozen = some .onyx then .onyx else f) }
      if u.frozen = none then emits v (.readOut u.readOut) else v
    let clocks (f : Nat → Nat) : State := (List.range 4).foldl (fun (u : State) d => u.setDie d { u.die d with clock := f (u.die d).clock }) s
    exec .deviceReset s = .next { State.reset with turns := s.turns, tick := s.tick, out := s.out, securityVersion := s.securityVersion, images := s.images } ∧
    (∀ im cf v m e last, s.boot = .fetching last → Config.imageConfig im = cf → Config.imageVersion im = v →
      let named : Prop := ∃ e ∈ s.interleave, e.2.1.getLsbD 63 = true ∧ part e.2.1 53 48 = 0
      let good : Prop := Config.mldsaOk im m = true ∧ Config.ecdsaOk im e = true ∧ s.securityVersion.toNat ≤ v.toNat
      let u := extend (extend (extend s 0 (Config.sha384 Config.onyxFirmware)) 1 (Config.sha384 im)) 2 (Config.sha384 cf)
      (good → ¬ named → exec (.bootImageReceived im cf v m e) s = .next
        { u with keySlots := s.keySlots.put 0 (Config.newKey s.tick), boot := .running v }) ∧
      (good → named → exec (.bootImageReceived im cf v m e) s = .next { u with boot := .running v }) ∧
      (¬ good → exec (.bootImageReceived im cf v m e) s = .next { s with boot := wait last })) ∧
    (∀ im cf v m e, (∀ last, s.boot ≠ .fetching last) ∨ Config.imageConfig im ≠ cf ∨ Config.imageVersion im ≠ v →
      exec (.bootImageReceived im cf v m e) s = .next s) ∧
    (∀ last, s.boot = .fetching last → exec .bootFetchFailure s = .next { s with boot := wait last }) ∧
    (∀ n, s.boot = .backoff n → exec .bootRetry s = .next { s with boot := .fetching n }) ∧
    (∀ v, s.boot = .running v → exec .securityVersionRaise s =
      .next { s with securityVersion := if s.securityVersion.toNat < v.toNat then v else s.securityVersion }) ∧
    (∀ p q,
      let answer := Output.spdm p (Config.spdmAnswer q ((List.range 8).map fun i => SMap.get 0 s.measurements i))
      (3 ≤ p → exec (.spdmRequest p q) s = .next s) ∧
      (p < 2 → s.booted = false → exec (.spdmRequest p q) s = .next (emits s (.requestRetry p))) ∧
      (p = 2 ∨ p < 2 ∧ s.booted = true → exec (.spdmRequest p q) s = .next (emits s answer))) ∧
    (∀ i d, (s.booted = true → 3 ≤ i → i ≤ 7 → exec (.measurementExtend i d) s = .next (extend s i (Config.sha384 d))) ∧
      (s.booted = false ∨ i < 3 ∨ 7 < i → exec (.measurementExtend i d) s = .next s)) ∧
    (∀ i k, let named : Prop := ∃ e ∈ s.interleave, e.2.1.getLsbD 63 = true ∧ part e.2.1 53 48 = i
      (¬ named → i < 64 → exec (.keySlotLoad i k) s = .next { s with keySlots := s.keySlots.put i k }) ∧
      (64 ≤ i → exec (.keySlotLoad i k) s = .next s) ∧
      (¬ named → exec (.keySlotZeroize i) s = .next { s with keySlots := s.keySlots.del i }) ∧
      (named → exec (.keySlotLoad i k) s = .next s ∧ exec (.keySlotZeroize i) s = .next s)) ∧
    (∀ p a b, exec (.linkKeyUpdate p a b) s = .next { s with linkKeys := s.linkKeys.put p (a, b) }) ∧
    (∀ w, exec (.powerCapSet w) s = .next { s with powerCap := if 600 ≤ w ∧ w ≤ 2400 then w else s.powerCap }) ∧
    (∀ w,
      (s.powerCap < w → exec (.clockStep w) s = .next
        (if s.powerLimited = true then clocks fun m => max 800 (m - 100)
          else emits { clocks (fun m => max 800 (m - 100)) with powerLimited := true } (.telemetry 4 0 s.time [1]))) ∧
      (w ≤ s.powerCap → 95 * s.powerCap ≤ 100 * w → exec (.clockStep w) s = .next s) ∧
      (w ≤ s.powerCap → 100 * w < 95 * s.powerCap →
        let u := clocks fun m => min 1600 (m + 100)
        exec (.clockStep w) s = .next
          (if s.powerLimited = true ∧ ∀ d ∈ List.range 4, (u.die d).clock = 1600 then emits { u with powerLimited := false } (.telemetry 4 0 s.time [0]) else u))) ∧
    (∀ t, exec (.thermalFreeze t) s = .next (if t < 115 then s else freeze { s with temp := t } .onyx)) ∧
    (∀ f, exec (.enckeFreeze f) s = .next (freeze s f)) ∧
    ((s.frozen = none ∨ s.frozen = some .onyx → exec .thaw s = .next s) ∧
      ∀ f, s.frozen = some f → f ≠ .onyx → exec .thaw s = .next { s with
        frozen := none, out := s.out ++ ([0, 1].filter fun p => !s.hostDown.any fun e => e.1 = p).map Output.linkRetrain
        herez := s.herez.map fun e => (e.1, { e.2 with link := if e.2.link = .up then .retrain else e.2.link }) }) ∧
    ∀ b, exec (.errorCounterSnapshot b) s =
      .next { s with
        out := s.out ++ s.errs.map fun e => .telemetry 5 (e.1 % 2 ^ 24) s.time [e.1 / 2 ^ 24, e.2]
        errs := if b = true then [] else s.errs }

/-! ## The machine as a whole -/

/-- What the encoder gives for an instruction, the decoder reads back as that instruction, with every operand at every value that its
field admits (R301 to R303, R306, R307, R315); and a word that stands for the row of the encodings without an instruction is read as
that row, with the word, if no instruction encodes it. -/
def Obligations.DecodeEncodeAgree : Prop :=
  ∀ (i : Instr) (w : BitVec 32), encode? i = some w → (∀ v, i = .reservedEncoding v → decode? v = none) → decode w = i

/-- Both tiers of memory keep their canonical form in every step (model's choice: log 4): addresses rise strictly, and no byte is listed
that an unlisted address reads as, so that equal memories are equal data. -/
def Obligations.MemoryCanonicalKept : Prop :=
  ∀ s t : State, Memory.wf s = true → step s = .next t → Memory.wf t = true

/-- The machine after device reset, in the values that the spec's reset columns give (R9, R18, R27, R83, R84, R89, R91, R94, R98, R99,
R104, R109, R114, R115, R117, R120, R124, R134, R143, R151, R163, R168, R197, R201, R216, R232, R237, R242, R256, R274, R275, R277,
R466), and its memory in canonical form. -/
def Obligations.ResetState : Prop :=
  Memory.wf State.reset = true ∧ State.reset.stop = none ∧ State.reset.time = 0 ∧ State.reset.account = 2400000 ∧ State.reset.frozen = none ∧
  (∀ c k, let t := State.reset.strand c k
    t.status = .idle ∧ t.sstatus = 0x200000000 ∧ t.stimecmp = 0xFFFFFFFFFFFFFFFF ∧
    [t.sie, t.stvec, t.scounteren, t.sscratch, t.sepc, t.scause, t.stval, t.satp, t.voorva, t.vcause, t.vtsafe] = List.replicate 11 0 ∧
    t.ssip = false ∧ t.vflags = 0 ∧ t.tw = false ∧ t.vl = 0 ∧ t.vstart = 0 ∧ t.resv = none ∧ t.watches = [] ∧ t.notices = [] ∧
    t.lq = [] ∧ t.aq = [] ∧ t.sq = [] ∧
    (∀ r, t.mark r = 0 ∧ SMap.get false t.feClear r = false) ∧
    (∀ p, (t.probe p).live = false ∧ (t.probe p).base = 0 ∧ (t.probe p).lenm1 = 0) ∧
    (∀ g, g < 4 → let m := modeFor t g
      m.t = 0 ∧ m.s = 0 ∧ m.rnd = 0 ∧ m.sat = false ∧ m.guard = 15 ∧ m.ginv = false) ∧
    ∀ i, (t.row i).held = false) ∧
  (∀ c, (State.reset.core c).region = none ∧ (State.reset.core c).seq = 0 ∧ (State.reset.core c).cycle = 0 ∧ (State.reset.core c).flights = []) ∧
  (∀ c n, (State.reset.slot c n).state = .free ∧ (State.reset.wbuf c n).state = .empty ∧ (State.reset.copy c n).state = .free ∧
    (State.reset.port c n).state = .unbound ∧ (State.reset.queue c n).items = [] ∧ (State.reset.queue c n).owner = none ∧
    (State.reset.queue c n).doneLatch = false) ∧
  (∀ c n, c < 256 → (State.reset.tile c n).allocated = false ∧ (State.reset.tile c n).state = .empty ∧ (State.reset.tile c n).gen = 0) ∧
  (∀ d, d < 4 → (State.reset.die d).ringW = 0 ∧ (State.reset.die d).ringR = 0) ∧
  (∀ n, State.reset.region n = none ∧ State.reset.job n = none ∧ SMap.get 0 State.reset.errs n = 0 ∧ SMap.get 0 State.reset.measurements n = 0 ∧
    SMap.get 0 State.reset.pins n = 0 ∧ SMap.get (0, 0) State.reset.interleave n = (0, 0) ∧ SMap.get 0 State.reset.lend n = 0 ∧
    SMap.get 0 State.reset.tags n = 0 ∧ SMap.get false State.reset.poisonFast n = false ∧ SMap.get false State.reset.poisonCap n = false)

/-- A step runs the instruction that stands at the acting strand's pc (R19, R86): with the strand's turn next, the strand ACTIVE and
free to issue, the step is exec of the word that its fetch gives, decoded, on the state that the fetch leaves; and the word fetched from
a line that the core does not hold is the four bytes at the pc's physical address. An exception of it stands only once everything older
of the strand has completed, and the instruction runs again otherwise (R87). The turn of a node, and of an event, is exec of that node's
word and of that event, where the device has what the event names, Titania runs (R477, R478), and does not rest for a checkpoint (R482); while
the device is frozen, the few events that act then alone do anything (R295). Around exec the step takes the turn off the list, ends the fences of the
strand that are met, notes whether the strand issued (R278, R320) and what a system word changed ahead of older vector words (R87, log 6),
and lets time pass (model's choice: log 1). -/
def Obligations.StepRunsDecodedInstruction : Prop :=
  ∀ (s : State) (ts : List Turn),
    let s0 : State := { s with turns := ts }
    let later (r : Host.Outcome State Fault Refusal) : Host.Outcome State Fault Refusal := match r with
      | .next u => (match (s0.elapse u).stop with | none => .next (s0.elapse u) | some f => .fault f)
      | r => r
    (∀ c k, c < 256 → k < 4 → s.turns = .strand c k :: ts → s.frozen = none → s.clocked c = true →
      let s1 : State := { s0 with agent := .strand c k }.settleFence c k
      let t := s1.strand c k
      ((s.strand c k).fences = [] → s1 = { s0 with agent := .strand c k }) ∧
      (t.status = .active → t.fault = none → t.heldBy = none → t.pc.toNat % 4 = 0 → s1.boundary c k = .nothing → s1.emptyPop c k = none → ∀ w s2, s1.fetch c k = (.ok w, s2) →
        s2.boundary c k = .nothing → s2.mayIssue c k (decode w) w = true → ∀ i, decode w = i →
          let issued (u : State) : Bool := (u.strand c k).pc ≠ (s2.strand c k).pc || (u.strand c k).instret ≠ (s2.strand c k).instret
          let around (r : Host.Outcome State Fault Refusal) : Host.Outcome State Fault Refusal := match r with
            | .next u =>
              if trapped s2 u c k then (if (s2.strand c k).older then r else .next (s2.noteIssue c k w false))
              else
                let v := if issued u = true ∧ isVectorWord w = false ∧ aheadOf w = .system then s2.noteChanges u c k (s2.strand c k).vpos else u
                .next (v.noteIssue c k w (issued u))
            | r => r
          step s = later (around (exec i s2)))) ∧
    (∀ c k p s1 a, s0.translate c k (s0.strand c k).pc .fetch = (.ok p, s1) → p = .dev a → ((s1.core c).icache.find? fun e => e.1 = a / 64) = none →
      s1.touch p = s1 → s1.poisonAt p = false → ∃ s2, s0.fetch c k = (.ok (BitVec.ofNat 32 (s1.numAt p 4)), s2)) ∧
    (∀ c sl n, c < 256 → sl < 4 → s.turns = .node c sl n :: ts → s.frozen = none → s.clocked c = true → ((s.slot c sl).rec_.node n).kind = 2 →
      step s = later (exec (decode ((s.slot c sl).rec_.node n).word) { s0 with agent := .node c sl n })) ∧
    (∀ e, s.turns = .event e :: ts →
      let acts : Prop := (s.frozen ≠ none → whileFrozen e = true) ∧ named e = true ∧ (s.booted = true ∨ beforeBoot e = true) ∧
        (s.checkpoint = .none ∨ ofTitania e = false) ∧ ∀ c, eventCore e = some c → s.clocked c = true
      (acts → step s = later (exec e s0)) ∧ (¬ acts → step s = later (.next s0))) ∧
    (∀ c k, s.turns = .strand c k :: ts → s.frozen ≠ none → step s = later (.next s0)) ∧
    ∀ c sl n, s.turns = .node c sl n :: ts → s.frozen ≠ none → step s = later (.next s0)

/-- Words written out from the encodings of the spec (R302, R303, R306, R307, R315), as numbers, and what each is. -/
def Obligations.DecodeWordsOfSpec : Prop :=
  decode 0x781E188B = .vfmul 49 48 3 ∧ decode 0x0018408B = .vadd 1 2 3 ∧ decode 0x600658AB = .fscan 49 50 0 ∧ decode 0x0022807B = .setmode 0 5 2 ∧
  decode 0xFFF10093 = .addi 1 2 0xFFF ∧ decode 0x0020A1AF = .amoaddW 3 1 2 0 0 ∧ decode 0x00000073 = .ecall ∧ decode 0 = .reservedEncoding 0
end

