-- ==== Sys2Proof/Laws/SMap.lean ====
section
/-!
SUPPORT. Maps: a read after a write gives the value written and leaves every other key alone, whatever the list; every
operation keeps the canonical form; and two canonical maps that read alike are equal data.
-/
namespace Sys2Proof.Machine

variable {α : Type}

theorem SMap.get_nil (d : α) (n : Nat) : SMap.get d [] n = d := rfl

theorem SMap.get_put (d : α) (m : SMap α) (n : Nat) (v : α) (k : Nat) :
    SMap.get d (m.put n v) k = if n = k then v else SMap.get d m k := by
  induction m with
  | nil => simp [SMap.put, SMap.get]
  | cons e m ih =>
    obtain ⟨i, w⟩ := e
    unfold SMap.put
    by_cases h1 : n < i
    · simp only [h1, if_true, SMap.get]
    · by_cases h2 : n = i
      · subst h2
        by_cases hk : n = k <;> simp [SMap.get, hk]
      · simp only [h1, h2, if_false, SMap.get, ih]
        by_cases hk : i = k
        · have : ¬ n = k := by omega
          simp [hk, this]
        · simp [hk]

theorem SMap.get_put_same (d : α) (m : SMap α) (n : Nat) (v : α) : SMap.get d (m.put n v) n = v := by
  simp [SMap.get_put]

theorem SMap.get_put_other (d : α) (m : SMap α) {n k : Nat} (v : α) (h : n ≠ k) :
    SMap.get d (m.put n v) k = SMap.get d m k := by
  simp [SMap.get_put, h]

theorem SMap.get_del (d : α) (m : SMap α) (n k : Nat) : SMap.get d (m.del n) k = if n = k then d else SMap.get d m k := by
  induction m with
  | nil => simp [SMap.del, SMap.get]
  | cons e m ih =>
    obtain ⟨i, w⟩ := e
    simp only [SMap.del] at ih ⊢
    by_cases h1 : i = n
    · subst h1
      simp only [List.filter_cons, bne_self_eq_false, Bool.false_eq_true, if_false, ih, SMap.get]
      by_cases hk : i = k <;> simp [hk]
    · have h2 : (i != n) = true := by simpa using h1
      simp only [List.filter_cons, h2, if_true, SMap.get, ih]
      by_cases hk : i = k
      · have : ¬ n = k := by omega
        simp [hk, this]
      · simp [hk]

theorem SMap.get_set [DecidableEq α] (d : α) (m : SMap α) (n : Nat) (v : α) (k : Nat) :
    SMap.get d (SMap.set d m n v) k = if n = k then v else SMap.get d m k := by
  unfold SMap.set
  by_cases h : v = d
  · simp [h, SMap.get_del]
  · simp [h, SMap.get_put]

theorem SMap.get_set_same [DecidableEq α] (d : α) (m : SMap α) (n : Nat) (v : α) : SMap.get d (SMap.set d m n v) n = v := by
  simp [SMap.get_set]

theorem SMap.get_set_other [DecidableEq α] (d : α) (m : SMap α) {n k : Nat} (v : α) (h : n ≠ k) :
    SMap.get d (SMap.set d m n v) k = SMap.get d m k := by
  simp [SMap.get_set, h]

/-! ## The canonical form -/

section canonical
variable [DecidableEq α]

theorem SMap.wfFrom_cons (d : α) (lo k : Nat) (v : α) (m : SMap α) :
    SMap.wfFrom d lo ((k, v) :: m) = true ↔ lo ≤ k ∧ v ≠ d ∧ SMap.wfFrom d (k + 1) m = true := by
  simp [SMap.wfFrom, and_assoc]

theorem SMap.wfFrom_mono (d : α) {lo lo' : Nat} {m : SMap α} (h : SMap.wfFrom d lo m = true) (hl : lo' ≤ lo) :
    SMap.wfFrom d lo' m = true := by
  cases m with
  | nil => rfl
  | cons e m =>
    rw [SMap.wfFrom_cons] at h ⊢
    exact ⟨by omega, h.2⟩

theorem SMap.wfFrom_put (d : α) {v : α} (hv : v ≠ d) (n : Nat) (m : SMap α) :
    ∀ lo, lo ≤ n → SMap.wfFrom d lo m = true → SMap.wfFrom d lo (m.put n v) = true := by
  induction m with
  | nil => intro lo hl _; simp [SMap.put, SMap.wfFrom, hl, hv]
  | cons e m ih =>
    obtain ⟨k, w⟩ := e
    intro lo hl h
    rw [SMap.wfFrom_cons] at h
    unfold SMap.put
    split
    · rw [SMap.wfFrom_cons, SMap.wfFrom_cons]
      exact ⟨hl, hv, by omega, h.2.1, h.2.2⟩
    · split
      · subst_vars
        rw [SMap.wfFrom_cons]
        exact ⟨hl, hv, h.2.2⟩
      · rw [SMap.wfFrom_cons]
        exact ⟨h.1, h.2.1, ih (k + 1) (by omega) h.2.2⟩

theorem SMap.wfFrom_del (d : α) (n : Nat) (m : SMap α) :
    ∀ lo, SMap.wfFrom d lo m = true → SMap.wfFrom d lo (m.del n) = true := by
  induction m with
  | nil => intro _ _; rfl
  | cons e m ih =>
    obtain ⟨k, w⟩ := e
    intro lo h
    rw [SMap.wfFrom_cons] at h
    have ih' := ih (k + 1) h.2.2
    simp only [SMap.del] at ih' ⊢
    rw [List.filter_cons]
    split
    · rw [SMap.wfFrom_cons]
      exact ⟨h.1, h.2.1, ih'⟩
    · exact SMap.wfFrom_mono d ih' (by omega)

theorem SMap.wf_nil (d : α) : SMap.wf d ([] : SMap α) = true := rfl

theorem SMap.wf_set (d : α) {m : SMap α} (h : SMap.wf d m = true) (n : Nat) (v : α) :
    SMap.wf d (SMap.set d m n v) = true := by
  unfold SMap.set
  split
  · exact SMap.wfFrom_del d n m 0 h
  · exact SMap.wfFrom_put d (by assumption) n m 0 (Nat.zero_le n) h

/-- Below the first key a canonical map reads as the default. -/
theorem SMap.get_below (d : α) {lo n : Nat} {m : SMap α} (h : SMap.wfFrom d lo m = true) (hn : n < lo) :
    SMap.get d m n = d := by
  induction m generalizing lo with
  | nil => rfl
  | cons e m ih =>
    obtain ⟨k, w⟩ := e
    rw [SMap.wfFrom_cons] at h
    have : ¬ k = n := by omega
    simp only [SMap.get, this, if_false]
    exact ih h.2.2 (by omega)

theorem SMap.ext_from (d : α) {a b : SMap α} : ∀ lo, SMap.wfFrom d lo a = true → SMap.wfFrom d lo b = true →
    (∀ n, SMap.get d a n = SMap.get d b n) → a = b := by
  induction a generalizing b with
  | nil =>
    intro lo _ hb h
    cases b with
    | nil => rfl
    | cons e b =>
      obtain ⟨k, w⟩ := e
      rw [SMap.wfFrom_cons] at hb
      have := h k
      simp only [SMap.get, if_true] at this
      exact absurd this.symm hb.2.1
  | cons e a ih =>
    obtain ⟨k, w⟩ := e
    intro lo ha hb h
    rw [SMap.wfFrom_cons] at ha
    cases b with
    | nil =>
      have := h k
      simp only [SMap.get, if_true] at this
      exact absurd this ha.2.1
    | cons e' b =>
      obtain ⟨k', w'⟩ := e'
      rw [SMap.wfFrom_cons] at hb
      have hk : k = k' := by
        rcases Nat.lt_trichotomy k k' with hlt | heq | hgt
        · have h1 := h k
          have h2 : ¬ k' = k := by omega
          simp only [SMap.get, if_true, h2, if_false] at h1
          rw [SMap.get_below d hb.2.2 (by omega)] at h1
          exact absurd h1 ha.2.1
        · exact heq
        · have h1 := h k'
          have h2 : ¬ k = k' := by omega
          simp only [SMap.get, if_true, h2, if_false] at h1
          rw [SMap.get_below d ha.2.2 (by omega)] at h1
          exact absurd h1.symm hb.2.1
      subst hk
      have hw : w = w' := by simpa [SMap.get] using h k
      subst hw
      have : a = b := by
        refine ih (k + 1) ha.2.2 hb.2.2 fun n => ?_
        by_cases hn : k = n
        · subst hn
          rw [SMap.get_below d ha.2.2 (by omega), SMap.get_below d hb.2.2 (by omega)]
        · simpa [SMap.get, hn] using h n
      rw [this]

/-- Canonical maps that read alike are equal data. -/
theorem SMap.ext_wf (d : α) {a b : SMap α} (ha : SMap.wf d a = true) (hb : SMap.wf d b = true)
    (h : ∀ n, SMap.get d a n = SMap.get d b n) : a = b := SMap.ext_from d 0 ha hb h

end canonical

end Sys2Proof.Machine
end

