-- ==== Sys2Proof/Laws/State.lean ====
section
/-!
SUPPORT. What each update of the state leaves in each field, so that no proof unfolds a record update; and reads of strands
and cores after writes of them.
-/
namespace Sys2Proof.Machine

/-! ## setStrand -/

@[simp] theorem State.setStrand_turns (s : State) (c k : Nat) (t : Strand) : (s.setStrand c k t).turns = s.turns := rfl
@[simp] theorem State.setStrand_agent (s : State) (c k : Nat) (t : Strand) : (s.setStrand c k t).agent = s.agent := rfl
@[simp] theorem State.setStrand_tick (s : State) (c k : Nat) (t : Strand) : (s.setStrand c k t).tick = s.tick := rfl
@[simp] theorem State.setStrand_undos (s : State) (c k : Nat) (t : Strand) : (s.setStrand c k t).undos = s.undos := rfl
@[simp] theorem State.setStrand_stop (s : State) (c k : Nat) (t : Strand) : (s.setStrand c k t).stop = s.stop := rfl
@[simp] theorem State.setStrand_time (s : State) (c k : Nat) (t : Strand) : (s.setStrand c k t).time = s.time := rfl
@[simp] theorem State.setStrand_strands (s : State) (c k : Nat) (t : Strand) :
    (s.setStrand c k t).strands = s.strands.put (4 * c + k) t := rfl
@[simp] theorem State.setStrand_cores (s : State) (c k : Nat) (t : Strand) : (s.setStrand c k t).cores = s.cores := rfl
@[simp] theorem State.setStrand_dies (s : State) (c k : Nat) (t : Strand) : (s.setStrand c k t).dies = s.dies := rfl
@[simp] theorem State.setStrand_fast (s : State) (c k : Nat) (t : Strand) : (s.setStrand c k t).fast = s.fast := rfl
@[simp] theorem State.setStrand_cap (s : State) (c k : Nat) (t : Strand) : (s.setStrand c k t).cap = s.cap := rfl
@[simp] theorem State.setStrand_poisonFast (s : State) (c k : Nat) (t : Strand) :
    (s.setStrand c k t).poisonFast = s.poisonFast := rfl
@[simp] theorem State.setStrand_poisonCap (s : State) (c k : Nat) (t : Strand) :
    (s.setStrand c k t).poisonCap = s.poisonCap := rfl
@[simp] theorem State.setStrand_interleave (s : State) (c k : Nat) (t : Strand) :
    (s.setStrand c k t).interleave = s.interleave := rfl
@[simp] theorem State.setStrand_lend (s : State) (c k : Nat) (t : Strand) : (s.setStrand c k t).lend = s.lend := rfl
@[simp] theorem State.setStrand_rowSlots (s : State) (c k : Nat) (t : Strand) :
    (s.setStrand c k t).rowSlots = s.rowSlots := rfl
@[simp] theorem State.setStrand_pins (s : State) (c k : Nat) (t : Strand) : (s.setStrand c k t).pins = s.pins := rfl
@[simp] theorem State.setStrand_denied (s : State) (c k : Nat) (t : Strand) : (s.setStrand c k t).denied = s.denied := rfl
@[simp] theorem State.setStrand_tags (s : State) (c k : Nat) (t : Strand) : (s.setStrand c k t).tags = s.tags := rfl
@[simp] theorem State.setStrand_phases (s : State) (c k : Nat) (t : Strand) : (s.setStrand c k t).phases = s.phases := rfl
@[simp] theorem State.setStrand_advSent (s : State) (c k : Nat) (t : Strand) : (s.setStrand c k t).advSent = s.advSent := rfl
@[simp] theorem State.setStrand_advPassed (s : State) (c k : Nat) (t : Strand) :
    (s.setStrand c k t).advPassed = s.advPassed := rfl
@[simp] theorem State.setStrand_phaseLost (s : State) (c k : Nat) (t : Strand) :
    (s.setStrand c k t).phaseLost = s.phaseLost := rfl
@[simp] theorem State.setStrand_bound (s : State) (c k : Nat) (t : Strand) :
    (s.setStrand c k t).bound = s.bound := rfl
@[simp] theorem State.setStrand_regions (s : State) (c k : Nat) (t : Strand) : (s.setStrand c k t).regions = s.regions := rfl
@[simp] theorem State.setStrand_placed (s : State) (c k : Nat) (t : Strand) : (s.setStrand c k t).placed = s.placed := rfl
@[simp] theorem State.setStrand_draws (s : State) (c k : Nat) (t : Strand) : (s.setStrand c k t).draws = s.draws := rfl
@[simp] theorem State.setStrand_savedResv (s : State) (c k : Nat) (t : Strand) : (s.setStrand c k t).savedResv = s.savedResv := rfl
@[simp] theorem State.setStrand_jobs (s : State) (c k : Nat) (t : Strand) : (s.setStrand c k t).jobs = s.jobs := rfl
@[simp] theorem State.setStrand_account (s : State) (c k : Nat) (t : Strand) : (s.setStrand c k t).account = s.account := rfl
@[simp] theorem State.setStrand_powerCap (s : State) (c k : Nat) (t : Strand) :
    (s.setStrand c k t).powerCap = s.powerCap := rfl
@[simp] theorem State.setStrand_temp (s : State) (c k : Nat) (t : Strand) : (s.setStrand c k t).temp = s.temp := rfl
@[simp] theorem State.setStrand_derate (s : State) (c k : Nat) (t : Strand) : (s.setStrand c k t).derate = s.derate := rfl
@[simp] theorem State.setStrand_powerLimited (s : State) (c k : Nat) (t : Strand) :
    (s.setStrand c k t).powerLimited = s.powerLimited := rfl
@[simp] theorem State.setStrand_devWindows (s : State) (c k : Nat) (t : Strand) :
    (s.setStrand c k t).devWindows = s.devWindows := rfl
@[simp] theorem State.setStrand_hostWindows (s : State) (c k : Nat) (t : Strand) :
    (s.setStrand c k t).hostWindows = s.hostWindows := rfl
@[simp] theorem State.setStrand_hostMaps (s : State) (c k : Nat) (t : Strand) :
    (s.setStrand c k t).hostMaps = s.hostMaps := rfl
@[simp] theorem State.setStrand_fabricWindows (s : State) (c k : Nat) (t : Strand) :
    (s.setStrand c k t).fabricWindows = s.fabricWindows := rfl
@[simp] theorem State.setStrand_channels (s : State) (c k : Nat) (t : Strand) :
    (s.setStrand c k t).channels = s.channels := rfl
@[simp] theorem State.setStrand_hostDown (s : State) (c k : Nat) (t : Strand) :
    (s.setStrand c k t).hostDown = s.hostDown := rfl
@[simp] theorem State.setStrand_herez (s : State) (c k : Nat) (t : Strand) : (s.setStrand c k t).herez = s.herez := rfl
@[simp] theorem State.setStrand_keySlots (s : State) (c k : Nat) (t : Strand) :
    (s.setStrand c k t).keySlots = s.keySlots := rfl
@[simp] theorem State.setStrand_linkKeys (s : State) (c k : Nat) (t : Strand) :
    (s.setStrand c k t).linkKeys = s.linkKeys := rfl
@[simp] theorem State.setStrand_measurements (s : State) (c k : Nat) (t : Strand) :
    (s.setStrand c k t).measurements = s.measurements := rfl
@[simp] theorem State.setStrand_securityVersion (s : State) (c k : Nat) (t : Strand) :
    (s.setStrand c k t).securityVersion = s.securityVersion := rfl
@[simp] theorem State.setStrand_boot (s : State) (c k : Nat) (t : Strand) : (s.setStrand c k t).boot = s.boot := rfl
@[simp] theorem State.setStrand_frozen (s : State) (c k : Nat) (t : Strand) : (s.setStrand c k t).frozen = s.frozen := rfl
@[simp] theorem State.setStrand_checkpoint (s : State) (c k : Nat) (t : Strand) :
    (s.setStrand c k t).checkpoint = s.checkpoint := rfl
@[simp] theorem State.setStrand_images (s : State) (c k : Nat) (t : Strand) :
    (s.setStrand c k t).images = s.images := rfl
@[simp] theorem State.setStrand_errs (s : State) (c k : Nat) (t : Strand) : (s.setStrand c k t).errs = s.errs := rfl
@[simp] theorem State.setStrand_backing (s : State) (c k : Nat) (t : Strand) : (s.setStrand c k t).backing = s.backing := rfl
@[simp] theorem State.setStrand_out (s : State) (c k : Nat) (t : Strand) : (s.setStrand c k t).out = s.out := rfl

/-! ## onStrand -/

@[simp] theorem State.onStrand_turns (s : State) (c k : Nat) (f : Strand → Strand) :
    (s.onStrand c k f).turns = s.turns := rfl
@[simp] theorem State.onStrand_agent (s : State) (c k : Nat) (f : Strand → Strand) :
    (s.onStrand c k f).agent = s.agent := rfl
@[simp] theorem State.onStrand_tick (s : State) (c k : Nat) (f : Strand → Strand) : (s.onStrand c k f).tick = s.tick := rfl
@[simp] theorem State.onStrand_undos (s : State) (c k : Nat) (f : Strand → Strand) : (s.onStrand c k f).undos = s.undos := rfl
@[simp] theorem State.onStrand_stop (s : State) (c k : Nat) (f : Strand → Strand) : (s.onStrand c k f).stop = s.stop := rfl
@[simp] theorem State.onStrand_time (s : State) (c k : Nat) (f : Strand → Strand) : (s.onStrand c k f).time = s.time := rfl
@[simp] theorem State.onStrand_strands (s : State) (c k : Nat) (f : Strand → Strand) :
    (s.onStrand c k f).strands = s.strands.put (4 * c + k) (f (s.strand c k)) := rfl
@[simp] theorem State.onStrand_cores (s : State) (c k : Nat) (f : Strand → Strand) :
    (s.onStrand c k f).cores = s.cores := rfl
@[simp] theorem State.onStrand_dies (s : State) (c k : Nat) (f : Strand → Strand) : (s.onStrand c k f).dies = s.dies := rfl
@[simp] theorem State.onStrand_fast (s : State) (c k : Nat) (f : Strand → Strand) : (s.onStrand c k f).fast = s.fast := rfl
@[simp] theorem State.onStrand_cap (s : State) (c k : Nat) (f : Strand → Strand) : (s.onStrand c k f).cap = s.cap := rfl
@[simp] theorem State.onStrand_poisonFast (s : State) (c k : Nat) (f : Strand → Strand) :
    (s.onStrand c k f).poisonFast = s.poisonFast := rfl
@[simp] theorem State.onStrand_poisonCap (s : State) (c k : Nat) (f : Strand → Strand) :
    (s.onStrand c k f).poisonCap = s.poisonCap := rfl
@[simp] theorem State.onStrand_interleave (s : State) (c k : Nat) (f : Strand → Strand) :
    (s.onStrand c k f).interleave = s.interleave := rfl
@[simp] theorem State.onStrand_lend (s : State) (c k : Nat) (f : Strand → Strand) : (s.onStrand c k f).lend = s.lend := rfl
@[simp] theorem State.onStrand_rowSlots (s : State) (c k : Nat) (f : Strand → Strand) :
    (s.onStrand c k f).rowSlots = s.rowSlots := rfl
@[simp] theorem State.onStrand_pins (s : State) (c k : Nat) (f : Strand → Strand) : (s.onStrand c k f).pins = s.pins := rfl
@[simp] theorem State.onStrand_denied (s : State) (c k : Nat) (f : Strand → Strand) :
    (s.onStrand c k f).denied = s.denied := rfl
@[simp] theorem State.onStrand_tags (s : State) (c k : Nat) (f : Strand → Strand) : (s.onStrand c k f).tags = s.tags := rfl
@[simp] theorem State.onStrand_phases (s : State) (c k : Nat) (f : Strand → Strand) :
    (s.onStrand c k f).phases = s.phases := rfl
@[simp] theorem State.onStrand_advSent (s : State) (c k : Nat) (f : Strand → Strand) :
    (s.onStrand c k f).advSent = s.advSent := rfl
@[simp] theorem State.onStrand_advPassed (s : State) (c k : Nat) (f : Strand → Strand) :
    (s.onStrand c k f).advPassed = s.advPassed := rfl
@[simp] theorem State.onStrand_phaseLost (s : State) (c k : Nat) (f : Strand → Strand) :
    (s.onStrand c k f).phaseLost = s.phaseLost := rfl
@[simp] theorem State.onStrand_bound (s : State) (c k : Nat) (f : Strand → Strand) :
    (s.onStrand c k f).bound = s.bound := rfl
@[simp] theorem State.onStrand_regions (s : State) (c k : Nat) (f : Strand → Strand) :
    (s.onStrand c k f).regions = s.regions := rfl
@[simp] theorem State.onStrand_placed (s : State) (c k : Nat) (f : Strand → Strand) :
    (s.onStrand c k f).placed = s.placed := rfl
@[simp] theorem State.onStrand_draws (s : State) (c k : Nat) (f : Strand → Strand) :
    (s.onStrand c k f).draws = s.draws := rfl
@[simp] theorem State.onStrand_savedResv (s : State) (c k : Nat) (f : Strand → Strand) :
    (s.onStrand c k f).savedResv = s.savedResv := rfl
@[simp] theorem State.onStrand_jobs (s : State) (c k : Nat) (f : Strand → Strand) : (s.onStrand c k f).jobs = s.jobs := rfl
@[simp] theorem State.onStrand_account (s : State) (c k : Nat) (f : Strand → Strand) :
    (s.onStrand c k f).account = s.account := rfl
@[simp] theorem State.onStrand_powerCap (s : State) (c k : Nat) (f : Strand → Strand) :
    (s.onStrand c k f).powerCap = s.powerCap := rfl
@[simp] theorem State.onStrand_temp (s : State) (c k : Nat) (f : Strand → Strand) : (s.onStrand c k f).temp = s.temp := rfl
@[simp] theorem State.onStrand_derate (s : State) (c k : Nat) (f : Strand → Strand) :
    (s.onStrand c k f).derate = s.derate := rfl
@[simp] theorem State.onStrand_powerLimited (s : State) (c k : Nat) (f : Strand → Strand) :
    (s.onStrand c k f).powerLimited = s.powerLimited := rfl
@[simp] theorem State.onStrand_devWindows (s : State) (c k : Nat) (f : Strand → Strand) :
    (s.onStrand c k f).devWindows = s.devWindows := rfl
@[simp] theorem State.onStrand_hostWindows (s : State) (c k : Nat) (f : Strand → Strand) :
    (s.onStrand c k f).hostWindows = s.hostWindows := rfl
@[simp] theorem State.onStrand_hostMaps (s : State) (c k : Nat) (f : Strand → Strand) :
    (s.onStrand c k f).hostMaps = s.hostMaps := rfl
@[simp] theorem State.onStrand_fabricWindows (s : State) (c k : Nat) (f : Strand → Strand) :
    (s.onStrand c k f).fabricWindows = s.fabricWindows := rfl
@[simp] theorem State.onStrand_channels (s : State) (c k : Nat) (f : Strand → Strand) :
    (s.onStrand c k f).channels = s.channels := rfl
@[simp] theorem State.onStrand_hostDown (s : State) (c k : Nat) (f : Strand → Strand) :
    (s.onStrand c k f).hostDown = s.hostDown := rfl
@[simp] theorem State.onStrand_herez (s : State) (c k : Nat) (f : Strand → Strand) :
    (s.onStrand c k f).herez = s.herez := rfl
@[simp] theorem State.onStrand_keySlots (s : State) (c k : Nat) (f : Strand → Strand) :
    (s.onStrand c k f).keySlots = s.keySlots := rfl
@[simp] theorem State.onStrand_linkKeys (s : State) (c k : Nat) (f : Strand → Strand) :
    (s.onStrand c k f).linkKeys = s.linkKeys := rfl
@[simp] theorem State.onStrand_measurements (s : State) (c k : Nat) (f : Strand → Strand) :
    (s.onStrand c k f).measurements = s.measurements := rfl
@[simp] theorem State.onStrand_securityVersion (s : State) (c k : Nat) (f : Strand → Strand) :
    (s.onStrand c k f).securityVersion = s.securityVersion := rfl
@[simp] theorem State.onStrand_boot (s : State) (c k : Nat) (f : Strand → Strand) : (s.onStrand c k f).boot = s.boot := rfl
@[simp] theorem State.onStrand_frozen (s : State) (c k : Nat) (f : Strand → Strand) :
    (s.onStrand c k f).frozen = s.frozen := rfl
@[simp] theorem State.onStrand_checkpoint (s : State) (c k : Nat) (f : Strand → Strand) :
    (s.onStrand c k f).checkpoint = s.checkpoint := rfl
@[simp] theorem State.onStrand_images (s : State) (c k : Nat) (f : Strand → Strand) :
    (s.onStrand c k f).images = s.images := rfl
@[simp] theorem State.onStrand_errs (s : State) (c k : Nat) (f : Strand → Strand) : (s.onStrand c k f).errs = s.errs := rfl
@[simp] theorem State.onStrand_backing (s : State) (c k : Nat) (f : Strand → Strand) :
    (s.onStrand c k f).backing = s.backing := rfl
@[simp] theorem State.onStrand_out (s : State) (c k : Nat) (f : Strand → Strand) : (s.onStrand c k f).out = s.out := rfl

/-! ## onCur -/

@[simp] theorem State.onCur_turns (s : State) (f : Strand → Strand) : (s.onCur f).turns = s.turns := rfl
@[simp] theorem State.onCur_agent (s : State) (f : Strand → Strand) : (s.onCur f).agent = s.agent := rfl
@[simp] theorem State.onCur_tick (s : State) (f : Strand → Strand) : (s.onCur f).tick = s.tick := rfl
@[simp] theorem State.onCur_undos (s : State) (f : Strand → Strand) : (s.onCur f).undos = s.undos := rfl
@[simp] theorem State.onCur_stop (s : State) (f : Strand → Strand) : (s.onCur f).stop = s.stop := rfl
@[simp] theorem State.onCur_time (s : State) (f : Strand → Strand) : (s.onCur f).time = s.time := rfl
@[simp] theorem State.onCur_strands (s : State) (f : Strand → Strand) :
    (s.onCur f).strands = s.strands.put (4 * s.who.1 + s.who.2) (f s.cur) := rfl
@[simp] theorem State.onCur_cores (s : State) (f : Strand → Strand) : (s.onCur f).cores = s.cores := rfl
@[simp] theorem State.onCur_dies (s : State) (f : Strand → Strand) : (s.onCur f).dies = s.dies := rfl
@[simp] theorem State.onCur_fast (s : State) (f : Strand → Strand) : (s.onCur f).fast = s.fast := rfl
@[simp] theorem State.onCur_cap (s : State) (f : Strand → Strand) : (s.onCur f).cap = s.cap := rfl
@[simp] theorem State.onCur_poisonFast (s : State) (f : Strand → Strand) : (s.onCur f).poisonFast = s.poisonFast := rfl
@[simp] theorem State.onCur_poisonCap (s : State) (f : Strand → Strand) : (s.onCur f).poisonCap = s.poisonCap := rfl
@[simp] theorem State.onCur_interleave (s : State) (f : Strand → Strand) : (s.onCur f).interleave = s.interleave := rfl
@[simp] theorem State.onCur_lend (s : State) (f : Strand → Strand) : (s.onCur f).lend = s.lend := rfl
@[simp] theorem State.onCur_rowSlots (s : State) (f : Strand → Strand) : (s.onCur f).rowSlots = s.rowSlots := rfl
@[simp] theorem State.onCur_pins (s : State) (f : Strand → Strand) : (s.onCur f).pins = s.pins := rfl
@[simp] theorem State.onCur_denied (s : State) (f : Strand → Strand) : (s.onCur f).denied = s.denied := rfl
@[simp] theorem State.onCur_tags (s : State) (f : Strand → Strand) : (s.onCur f).tags = s.tags := rfl
@[simp] theorem State.onCur_phases (s : State) (f : Strand → Strand) : (s.onCur f).phases = s.phases := rfl
@[simp] theorem State.onCur_advSent (s : State) (f : Strand → Strand) : (s.onCur f).advSent = s.advSent := rfl
@[simp] theorem State.onCur_advPassed (s : State) (f : Strand → Strand) : (s.onCur f).advPassed = s.advPassed := rfl
@[simp] theorem State.onCur_phaseLost (s : State) (f : Strand → Strand) : (s.onCur f).phaseLost = s.phaseLost := rfl
@[simp] theorem State.onCur_bound (s : State) (f : Strand → Strand) : (s.onCur f).bound = s.bound := rfl
@[simp] theorem State.onCur_regions (s : State) (f : Strand → Strand) : (s.onCur f).regions = s.regions := rfl
@[simp] theorem State.onCur_placed (s : State) (f : Strand → Strand) : (s.onCur f).placed = s.placed := rfl
@[simp] theorem State.onCur_draws (s : State) (f : Strand → Strand) : (s.onCur f).draws = s.draws := rfl
@[simp] theorem State.onCur_savedResv (s : State) (f : Strand → Strand) : (s.onCur f).savedResv = s.savedResv := rfl
@[simp] theorem State.onCur_jobs (s : State) (f : Strand → Strand) : (s.onCur f).jobs = s.jobs := rfl
@[simp] theorem State.onCur_account (s : State) (f : Strand → Strand) : (s.onCur f).account = s.account := rfl
@[simp] theorem State.onCur_powerCap (s : State) (f : Strand → Strand) : (s.onCur f).powerCap = s.powerCap := rfl
@[simp] theorem State.onCur_temp (s : State) (f : Strand → Strand) : (s.onCur f).temp = s.temp := rfl
@[simp] theorem State.onCur_derate (s : State) (f : Strand → Strand) : (s.onCur f).derate = s.derate := rfl
@[simp] theorem State.onCur_powerLimited (s : State) (f : Strand → Strand) : (s.onCur f).powerLimited = s.powerLimited := rfl
@[simp] theorem State.onCur_devWindows (s : State) (f : Strand → Strand) : (s.onCur f).devWindows = s.devWindows := rfl
@[simp] theorem State.onCur_hostWindows (s : State) (f : Strand → Strand) : (s.onCur f).hostWindows = s.hostWindows := rfl
@[simp] theorem State.onCur_hostMaps (s : State) (f : Strand → Strand) : (s.onCur f).hostMaps = s.hostMaps := rfl
@[simp] theorem State.onCur_fabricWindows (s : State) (f : Strand → Strand) :
    (s.onCur f).fabricWindows = s.fabricWindows := rfl
@[simp] theorem State.onCur_channels (s : State) (f : Strand → Strand) : (s.onCur f).channels = s.channels := rfl
@[simp] theorem State.onCur_hostDown (s : State) (f : Strand → Strand) : (s.onCur f).hostDown = s.hostDown := rfl
@[simp] theorem State.onCur_herez (s : State) (f : Strand → Strand) : (s.onCur f).herez = s.herez := rfl
@[simp] theorem State.onCur_keySlots (s : State) (f : Strand → Strand) : (s.onCur f).keySlots = s.keySlots := rfl
@[simp] theorem State.onCur_linkKeys (s : State) (f : Strand → Strand) : (s.onCur f).linkKeys = s.linkKeys := rfl
@[simp] theorem State.onCur_measurements (s : State) (f : Strand → Strand) : (s.onCur f).measurements = s.measurements := rfl
@[simp] theorem State.onCur_securityVersion (s : State) (f : Strand → Strand) :
    (s.onCur f).securityVersion = s.securityVersion := rfl
@[simp] theorem State.onCur_boot (s : State) (f : Strand → Strand) : (s.onCur f).boot = s.boot := rfl
@[simp] theorem State.onCur_frozen (s : State) (f : Strand → Strand) : (s.onCur f).frozen = s.frozen := rfl
@[simp] theorem State.onCur_checkpoint (s : State) (f : Strand → Strand) : (s.onCur f).checkpoint = s.checkpoint := rfl
@[simp] theorem State.onCur_images (s : State) (f : Strand → Strand) : (s.onCur f).images = s.images := rfl
@[simp] theorem State.onCur_errs (s : State) (f : Strand → Strand) : (s.onCur f).errs = s.errs := rfl
@[simp] theorem State.onCur_backing (s : State) (f : Strand → Strand) : (s.onCur f).backing = s.backing := rfl
@[simp] theorem State.onCur_out (s : State) (f : Strand → Strand) : (s.onCur f).out = s.out := rfl

/-! ## setCore -/

@[simp] theorem State.setCore_turns (s : State) (c : Nat) (x : Core) : (s.setCore c x).turns = s.turns := rfl
@[simp] theorem State.setCore_agent (s : State) (c : Nat) (x : Core) : (s.setCore c x).agent = s.agent := rfl
@[simp] theorem State.setCore_tick (s : State) (c : Nat) (x : Core) : (s.setCore c x).tick = s.tick := rfl
@[simp] theorem State.setCore_undos (s : State) (c : Nat) (x : Core) : (s.setCore c x).undos = s.undos := rfl
@[simp] theorem State.setCore_stop (s : State) (c : Nat) (x : Core) : (s.setCore c x).stop = s.stop := rfl
@[simp] theorem State.setCore_time (s : State) (c : Nat) (x : Core) : (s.setCore c x).time = s.time := rfl
@[simp] theorem State.setCore_strands (s : State) (c : Nat) (x : Core) : (s.setCore c x).strands = s.strands := rfl
@[simp] theorem State.setCore_cores (s : State) (c : Nat) (x : Core) : (s.setCore c x).cores = s.cores.put c x := rfl
@[simp] theorem State.setCore_dies (s : State) (c : Nat) (x : Core) : (s.setCore c x).dies = s.dies := rfl
@[simp] theorem State.setCore_fast (s : State) (c : Nat) (x : Core) : (s.setCore c x).fast = s.fast := rfl
@[simp] theorem State.setCore_cap (s : State) (c : Nat) (x : Core) : (s.setCore c x).cap = s.cap := rfl
@[simp] theorem State.setCore_poisonFast (s : State) (c : Nat) (x : Core) : (s.setCore c x).poisonFast = s.poisonFast := rfl
@[simp] theorem State.setCore_poisonCap (s : State) (c : Nat) (x : Core) : (s.setCore c x).poisonCap = s.poisonCap := rfl
@[simp] theorem State.setCore_interleave (s : State) (c : Nat) (x : Core) : (s.setCore c x).interleave = s.interleave := rfl
@[simp] theorem State.setCore_lend (s : State) (c : Nat) (x : Core) : (s.setCore c x).lend = s.lend := rfl
@[simp] theorem State.setCore_rowSlots (s : State) (c : Nat) (x : Core) : (s.setCore c x).rowSlots = s.rowSlots := rfl
@[simp] theorem State.setCore_pins (s : State) (c : Nat) (x : Core) : (s.setCore c x).pins = s.pins := rfl
@[simp] theorem State.setCore_denied (s : State) (c : Nat) (x : Core) : (s.setCore c x).denied = s.denied := rfl
@[simp] theorem State.setCore_tags (s : State) (c : Nat) (x : Core) : (s.setCore c x).tags = s.tags := rfl
@[simp] theorem State.setCore_phases (s : State) (c : Nat) (x : Core) : (s.setCore c x).phases = s.phases := rfl
@[simp] theorem State.setCore_advSent (s : State) (c : Nat) (x : Core) : (s.setCore c x).advSent = s.advSent := rfl
@[simp] theorem State.setCore_advPassed (s : State) (c : Nat) (x : Core) : (s.setCore c x).advPassed = s.advPassed := rfl
@[simp] theorem State.setCore_phaseLost (s : State) (c : Nat) (x : Core) : (s.setCore c x).phaseLost = s.phaseLost := rfl
@[simp] theorem State.setCore_bound (s : State) (c : Nat) (x : Core) : (s.setCore c x).bound = s.bound := rfl
@[simp] theorem State.setCore_regions (s : State) (c : Nat) (x : Core) : (s.setCore c x).regions = s.regions := rfl
@[simp] theorem State.setCore_placed (s : State) (c : Nat) (x : Core) : (s.setCore c x).placed = s.placed := rfl
@[simp] theorem State.setCore_draws (s : State) (c : Nat) (x : Core) : (s.setCore c x).draws = s.draws := rfl
@[simp] theorem State.setCore_savedResv (s : State) (c : Nat) (x : Core) : (s.setCore c x).savedResv = s.savedResv := rfl
@[simp] theorem State.setCore_jobs (s : State) (c : Nat) (x : Core) : (s.setCore c x).jobs = s.jobs := rfl
@[simp] theorem State.setCore_account (s : State) (c : Nat) (x : Core) : (s.setCore c x).account = s.account := rfl
@[simp] theorem State.setCore_powerCap (s : State) (c : Nat) (x : Core) : (s.setCore c x).powerCap = s.powerCap := rfl
@[simp] theorem State.setCore_temp (s : State) (c : Nat) (x : Core) : (s.setCore c x).temp = s.temp := rfl
@[simp] theorem State.setCore_derate (s : State) (c : Nat) (x : Core) : (s.setCore c x).derate = s.derate := rfl
@[simp] theorem State.setCore_powerLimited (s : State) (c : Nat) (x : Core) :
    (s.setCore c x).powerLimited = s.powerLimited := rfl
@[simp] theorem State.setCore_devWindows (s : State) (c : Nat) (x : Core) : (s.setCore c x).devWindows = s.devWindows := rfl
@[simp] theorem State.setCore_hostWindows (s : State) (c : Nat) (x : Core) :
    (s.setCore c x).hostWindows = s.hostWindows := rfl
@[simp] theorem State.setCore_hostMaps (s : State) (c : Nat) (x : Core) : (s.setCore c x).hostMaps = s.hostMaps := rfl
@[simp] theorem State.setCore_fabricWindows (s : State) (c : Nat) (x : Core) :
    (s.setCore c x).fabricWindows = s.fabricWindows := rfl
@[simp] theorem State.setCore_channels (s : State) (c : Nat) (x : Core) : (s.setCore c x).channels = s.channels := rfl
@[simp] theorem State.setCore_hostDown (s : State) (c : Nat) (x : Core) : (s.setCore c x).hostDown = s.hostDown := rfl
@[simp] theorem State.setCore_herez (s : State) (c : Nat) (x : Core) : (s.setCore c x).herez = s.herez := rfl
@[simp] theorem State.setCore_keySlots (s : State) (c : Nat) (x : Core) : (s.setCore c x).keySlots = s.keySlots := rfl
@[simp] theorem State.setCore_linkKeys (s : State) (c : Nat) (x : Core) : (s.setCore c x).linkKeys = s.linkKeys := rfl
@[simp] theorem State.setCore_measurements (s : State) (c : Nat) (x : Core) :
    (s.setCore c x).measurements = s.measurements := rfl
@[simp] theorem State.setCore_securityVersion (s : State) (c : Nat) (x : Core) :
    (s.setCore c x).securityVersion = s.securityVersion := rfl
@[simp] theorem State.setCore_boot (s : State) (c : Nat) (x : Core) : (s.setCore c x).boot = s.boot := rfl
@[simp] theorem State.setCore_frozen (s : State) (c : Nat) (x : Core) : (s.setCore c x).frozen = s.frozen := rfl
@[simp] theorem State.setCore_checkpoint (s : State) (c : Nat) (x : Core) : (s.setCore c x).checkpoint = s.checkpoint := rfl
@[simp] theorem State.setCore_images (s : State) (c : Nat) (x : Core) : (s.setCore c x).images = s.images := rfl
@[simp] theorem State.setCore_errs (s : State) (c : Nat) (x : Core) : (s.setCore c x).errs = s.errs := rfl
@[simp] theorem State.setCore_backing (s : State) (c : Nat) (x : Core) : (s.setCore c x).backing = s.backing := rfl
@[simp] theorem State.setCore_out (s : State) (c : Nat) (x : Core) : (s.setCore c x).out = s.out := rfl

/-! ## onCore -/

@[simp] theorem State.onCore_turns (s : State) (c : Nat) (f : Core → Core) : (s.onCore c f).turns = s.turns := rfl
@[simp] theorem State.onCore_agent (s : State) (c : Nat) (f : Core → Core) : (s.onCore c f).agent = s.agent := rfl
@[simp] theorem State.onCore_tick (s : State) (c : Nat) (f : Core → Core) : (s.onCore c f).tick = s.tick := rfl
@[simp] theorem State.onCore_undos (s : State) (c : Nat) (f : Core → Core) : (s.onCore c f).undos = s.undos := rfl
@[simp] theorem State.onCore_stop (s : State) (c : Nat) (f : Core → Core) : (s.onCore c f).stop = s.stop := rfl
@[simp] theorem State.onCore_time (s : State) (c : Nat) (f : Core → Core) : (s.onCore c f).time = s.time := rfl
@[simp] theorem State.onCore_strands (s : State) (c : Nat) (f : Core → Core) : (s.onCore c f).strands = s.strands := rfl
@[simp] theorem State.onCore_cores (s : State) (c : Nat) (f : Core → Core) :
    (s.onCore c f).cores = s.cores.put c (f (s.core c)) := rfl
@[simp] theorem State.onCore_dies (s : State) (c : Nat) (f : Core → Core) : (s.onCore c f).dies = s.dies := rfl
@[simp] theorem State.onCore_fast (s : State) (c : Nat) (f : Core → Core) : (s.onCore c f).fast = s.fast := rfl
@[simp] theorem State.onCore_cap (s : State) (c : Nat) (f : Core → Core) : (s.onCore c f).cap = s.cap := rfl
@[simp] theorem State.onCore_poisonFast (s : State) (c : Nat) (f : Core → Core) :
    (s.onCore c f).poisonFast = s.poisonFast := rfl
@[simp] theorem State.onCore_poisonCap (s : State) (c : Nat) (f : Core → Core) :
    (s.onCore c f).poisonCap = s.poisonCap := rfl
@[simp] theorem State.onCore_interleave (s : State) (c : Nat) (f : Core → Core) :
    (s.onCore c f).interleave = s.interleave := rfl
@[simp] theorem State.onCore_lend (s : State) (c : Nat) (f : Core → Core) : (s.onCore c f).lend = s.lend := rfl
@[simp] theorem State.onCore_rowSlots (s : State) (c : Nat) (f : Core → Core) : (s.onCore c f).rowSlots = s.rowSlots := rfl
@[simp] theorem State.onCore_pins (s : State) (c : Nat) (f : Core → Core) : (s.onCore c f).pins = s.pins := rfl
@[simp] theorem State.onCore_denied (s : State) (c : Nat) (f : Core → Core) : (s.onCore c f).denied = s.denied := rfl
@[simp] theorem State.onCore_tags (s : State) (c : Nat) (f : Core → Core) : (s.onCore c f).tags = s.tags := rfl
@[simp] theorem State.onCore_phases (s : State) (c : Nat) (f : Core → Core) : (s.onCore c f).phases = s.phases := rfl
@[simp] theorem State.onCore_advSent (s : State) (c : Nat) (f : Core → Core) : (s.onCore c f).advSent = s.advSent := rfl
@[simp] theorem State.onCore_advPassed (s : State) (c : Nat) (f : Core → Core) :
    (s.onCore c f).advPassed = s.advPassed := rfl
@[simp] theorem State.onCore_phaseLost (s : State) (c : Nat) (f : Core → Core) :
    (s.onCore c f).phaseLost = s.phaseLost := rfl
@[simp] theorem State.onCore_bound (s : State) (c : Nat) (f : Core → Core) :
    (s.onCore c f).bound = s.bound := rfl
@[simp] theorem State.onCore_regions (s : State) (c : Nat) (f : Core → Core) : (s.onCore c f).regions = s.regions := rfl
@[simp] theorem State.onCore_placed (s : State) (c : Nat) (f : Core → Core) : (s.onCore c f).placed = s.placed := rfl
@[simp] theorem State.onCore_draws (s : State) (c : Nat) (f : Core → Core) : (s.onCore c f).draws = s.draws := rfl
@[simp] theorem State.onCore_savedResv (s : State) (c : Nat) (f : Core → Core) : (s.onCore c f).savedResv = s.savedResv := rfl
@[simp] theorem State.onCore_jobs (s : State) (c : Nat) (f : Core → Core) : (s.onCore c f).jobs = s.jobs := rfl
@[simp] theorem State.onCore_account (s : State) (c : Nat) (f : Core → Core) : (s.onCore c f).account = s.account := rfl
@[simp] theorem State.onCore_powerCap (s : State) (c : Nat) (f : Core → Core) : (s.onCore c f).powerCap = s.powerCap := rfl
@[simp] theorem State.onCore_temp (s : State) (c : Nat) (f : Core → Core) : (s.onCore c f).temp = s.temp := rfl
@[simp] theorem State.onCore_derate (s : State) (c : Nat) (f : Core → Core) : (s.onCore c f).derate = s.derate := rfl
@[simp] theorem State.onCore_powerLimited (s : State) (c : Nat) (f : Core → Core) :
    (s.onCore c f).powerLimited = s.powerLimited := rfl
@[simp] theorem State.onCore_devWindows (s : State) (c : Nat) (f : Core → Core) :
    (s.onCore c f).devWindows = s.devWindows := rfl
@[simp] theorem State.onCore_hostWindows (s : State) (c : Nat) (f : Core → Core) :
    (s.onCore c f).hostWindows = s.hostWindows := rfl
@[simp] theorem State.onCore_hostMaps (s : State) (c : Nat) (f : Core → Core) :
    (s.onCore c f).hostMaps = s.hostMaps := rfl
@[simp] theorem State.onCore_fabricWindows (s : State) (c : Nat) (f : Core → Core) :
    (s.onCore c f).fabricWindows = s.fabricWindows := rfl
@[simp] theorem State.onCore_channels (s : State) (c : Nat) (f : Core → Core) : (s.onCore c f).channels = s.channels := rfl
@[simp] theorem State.onCore_hostDown (s : State) (c : Nat) (f : Core → Core) : (s.onCore c f).hostDown = s.hostDown := rfl
@[simp] theorem State.onCore_herez (s : State) (c : Nat) (f : Core → Core) : (s.onCore c f).herez = s.herez := rfl
@[simp] theorem State.onCore_keySlots (s : State) (c : Nat) (f : Core → Core) : (s.onCore c f).keySlots = s.keySlots := rfl
@[simp] theorem State.onCore_linkKeys (s : State) (c : Nat) (f : Core → Core) : (s.onCore c f).linkKeys = s.linkKeys := rfl
@[simp] theorem State.onCore_measurements (s : State) (c : Nat) (f : Core → Core) :
    (s.onCore c f).measurements = s.measurements := rfl
@[simp] theorem State.onCore_securityVersion (s : State) (c : Nat) (f : Core → Core) :
    (s.onCore c f).securityVersion = s.securityVersion := rfl
@[simp] theorem State.onCore_boot (s : State) (c : Nat) (f : Core → Core) : (s.onCore c f).boot = s.boot := rfl
@[simp] theorem State.onCore_frozen (s : State) (c : Nat) (f : Core → Core) : (s.onCore c f).frozen = s.frozen := rfl
@[simp] theorem State.onCore_checkpoint (s : State) (c : Nat) (f : Core → Core) :
    (s.onCore c f).checkpoint = s.checkpoint := rfl
@[simp] theorem State.onCore_images (s : State) (c : Nat) (f : Core → Core) :
    (s.onCore c f).images = s.images := rfl
@[simp] theorem State.onCore_errs (s : State) (c : Nat) (f : Core → Core) : (s.onCore c f).errs = s.errs := rfl
@[simp] theorem State.onCore_backing (s : State) (c : Nat) (f : Core → Core) : (s.onCore c f).backing = s.backing := rfl
@[simp] theorem State.onCore_out (s : State) (c : Nat) (f : Core → Core) : (s.onCore c f).out = s.out := rfl

/-! ## setDie -/

@[simp] theorem State.setDie_turns (s : State) (d : Nat) (x : Die) : (s.setDie d x).turns = s.turns := rfl
@[simp] theorem State.setDie_agent (s : State) (d : Nat) (x : Die) : (s.setDie d x).agent = s.agent := rfl
@[simp] theorem State.setDie_tick (s : State) (d : Nat) (x : Die) : (s.setDie d x).tick = s.tick := rfl
@[simp] theorem State.setDie_undos (s : State) (d : Nat) (x : Die) : (s.setDie d x).undos = s.undos := rfl
@[simp] theorem State.setDie_stop (s : State) (d : Nat) (x : Die) : (s.setDie d x).stop = s.stop := rfl
@[simp] theorem State.setDie_time (s : State) (d : Nat) (x : Die) : (s.setDie d x).time = s.time := rfl
@[simp] theorem State.setDie_strands (s : State) (d : Nat) (x : Die) : (s.setDie d x).strands = s.strands := rfl
@[simp] theorem State.setDie_cores (s : State) (d : Nat) (x : Die) : (s.setDie d x).cores = s.cores := rfl
@[simp] theorem State.setDie_dies (s : State) (d : Nat) (x : Die) : (s.setDie d x).dies = s.dies.put d x := rfl
@[simp] theorem State.setDie_fast (s : State) (d : Nat) (x : Die) : (s.setDie d x).fast = s.fast := rfl
@[simp] theorem State.setDie_cap (s : State) (d : Nat) (x : Die) : (s.setDie d x).cap = s.cap := rfl
@[simp] theorem State.setDie_poisonFast (s : State) (d : Nat) (x : Die) : (s.setDie d x).poisonFast = s.poisonFast := rfl
@[simp] theorem State.setDie_poisonCap (s : State) (d : Nat) (x : Die) : (s.setDie d x).poisonCap = s.poisonCap := rfl
@[simp] theorem State.setDie_interleave (s : State) (d : Nat) (x : Die) : (s.setDie d x).interleave = s.interleave := rfl
@[simp] theorem State.setDie_lend (s : State) (d : Nat) (x : Die) : (s.setDie d x).lend = s.lend := rfl
@[simp] theorem State.setDie_rowSlots (s : State) (d : Nat) (x : Die) : (s.setDie d x).rowSlots = s.rowSlots := rfl
@[simp] theorem State.setDie_pins (s : State) (d : Nat) (x : Die) : (s.setDie d x).pins = s.pins := rfl
@[simp] theorem State.setDie_denied (s : State) (d : Nat) (x : Die) : (s.setDie d x).denied = s.denied := rfl
@[simp] theorem State.setDie_tags (s : State) (d : Nat) (x : Die) : (s.setDie d x).tags = s.tags := rfl
@[simp] theorem State.setDie_phases (s : State) (d : Nat) (x : Die) : (s.setDie d x).phases = s.phases := rfl
@[simp] theorem State.setDie_advSent (s : State) (d : Nat) (x : Die) : (s.setDie d x).advSent = s.advSent := rfl
@[simp] theorem State.setDie_advPassed (s : State) (d : Nat) (x : Die) : (s.setDie d x).advPassed = s.advPassed := rfl
@[simp] theorem State.setDie_phaseLost (s : State) (d : Nat) (x : Die) : (s.setDie d x).phaseLost = s.phaseLost := rfl
@[simp] theorem State.setDie_bound (s : State) (d : Nat) (x : Die) : (s.setDie d x).bound = s.bound := rfl
@[simp] theorem State.setDie_regions (s : State) (d : Nat) (x : Die) : (s.setDie d x).regions = s.regions := rfl
@[simp] theorem State.setDie_placed (s : State) (d : Nat) (x : Die) : (s.setDie d x).placed = s.placed := rfl
@[simp] theorem State.setDie_draws (s : State) (d : Nat) (x : Die) : (s.setDie d x).draws = s.draws := rfl
@[simp] theorem State.setDie_savedResv (s : State) (d : Nat) (x : Die) : (s.setDie d x).savedResv = s.savedResv := rfl
@[simp] theorem State.setDie_jobs (s : State) (d : Nat) (x : Die) : (s.setDie d x).jobs = s.jobs := rfl
@[simp] theorem State.setDie_account (s : State) (d : Nat) (x : Die) : (s.setDie d x).account = s.account := rfl
@[simp] theorem State.setDie_powerCap (s : State) (d : Nat) (x : Die) : (s.setDie d x).powerCap = s.powerCap := rfl
@[simp] theorem State.setDie_temp (s : State) (d : Nat) (x : Die) : (s.setDie d x).temp = s.temp := rfl
@[simp] theorem State.setDie_derate (s : State) (d : Nat) (x : Die) : (s.setDie d x).derate = s.derate := rfl
@[simp] theorem State.setDie_powerLimited (s : State) (d : Nat) (x : Die) :
    (s.setDie d x).powerLimited = s.powerLimited := rfl
@[simp] theorem State.setDie_devWindows (s : State) (d : Nat) (x : Die) : (s.setDie d x).devWindows = s.devWindows := rfl
@[simp] theorem State.setDie_hostWindows (s : State) (d : Nat) (x : Die) : (s.setDie d x).hostWindows = s.hostWindows := rfl
@[simp] theorem State.setDie_hostMaps (s : State) (d : Nat) (x : Die) : (s.setDie d x).hostMaps = s.hostMaps := rfl
@[simp] theorem State.setDie_fabricWindows (s : State) (d : Nat) (x : Die) :
    (s.setDie d x).fabricWindows = s.fabricWindows := rfl
@[simp] theorem State.setDie_channels (s : State) (d : Nat) (x : Die) : (s.setDie d x).channels = s.channels := rfl
@[simp] theorem State.setDie_hostDown (s : State) (d : Nat) (x : Die) : (s.setDie d x).hostDown = s.hostDown := rfl
@[simp] theorem State.setDie_herez (s : State) (d : Nat) (x : Die) : (s.setDie d x).herez = s.herez := rfl
@[simp] theorem State.setDie_keySlots (s : State) (d : Nat) (x : Die) : (s.setDie d x).keySlots = s.keySlots := rfl
@[simp] theorem State.setDie_linkKeys (s : State) (d : Nat) (x : Die) : (s.setDie d x).linkKeys = s.linkKeys := rfl
@[simp] theorem State.setDie_measurements (s : State) (d : Nat) (x : Die) :
    (s.setDie d x).measurements = s.measurements := rfl
@[simp] theorem State.setDie_securityVersion (s : State) (d : Nat) (x : Die) :
    (s.setDie d x).securityVersion = s.securityVersion := rfl
@[simp] theorem State.setDie_boot (s : State) (d : Nat) (x : Die) : (s.setDie d x).boot = s.boot := rfl
@[simp] theorem State.setDie_frozen (s : State) (d : Nat) (x : Die) : (s.setDie d x).frozen = s.frozen := rfl
@[simp] theorem State.setDie_checkpoint (s : State) (d : Nat) (x : Die) : (s.setDie d x).checkpoint = s.checkpoint := rfl
@[simp] theorem State.setDie_images (s : State) (d : Nat) (x : Die) : (s.setDie d x).images = s.images := rfl
@[simp] theorem State.setDie_errs (s : State) (d : Nat) (x : Die) : (s.setDie d x).errs = s.errs := rfl
@[simp] theorem State.setDie_backing (s : State) (d : Nat) (x : Die) : (s.setDie d x).backing = s.backing := rfl
@[simp] theorem State.setDie_out (s : State) (d : Nat) (x : Die) : (s.setDie d x).out = s.out := rfl

/-! ## setJob -/

@[simp] theorem State.setJob_turns (s : State) (j : Nat) (x : Job) : (s.setJob j x).turns = s.turns := rfl
@[simp] theorem State.setJob_agent (s : State) (j : Nat) (x : Job) : (s.setJob j x).agent = s.agent := rfl
@[simp] theorem State.setJob_tick (s : State) (j : Nat) (x : Job) : (s.setJob j x).tick = s.tick := rfl
@[simp] theorem State.setJob_undos (s : State) (j : Nat) (x : Job) : (s.setJob j x).undos = s.undos := rfl
@[simp] theorem State.setJob_stop (s : State) (j : Nat) (x : Job) : (s.setJob j x).stop = s.stop := rfl
@[simp] theorem State.setJob_time (s : State) (j : Nat) (x : Job) : (s.setJob j x).time = s.time := rfl
@[simp] theorem State.setJob_strands (s : State) (j : Nat) (x : Job) : (s.setJob j x).strands = s.strands := rfl
@[simp] theorem State.setJob_cores (s : State) (j : Nat) (x : Job) : (s.setJob j x).cores = s.cores := rfl
@[simp] theorem State.setJob_dies (s : State) (j : Nat) (x : Job) : (s.setJob j x).dies = s.dies := rfl
@[simp] theorem State.setJob_fast (s : State) (j : Nat) (x : Job) : (s.setJob j x).fast = s.fast := rfl
@[simp] theorem State.setJob_cap (s : State) (j : Nat) (x : Job) : (s.setJob j x).cap = s.cap := rfl
@[simp] theorem State.setJob_poisonFast (s : State) (j : Nat) (x : Job) : (s.setJob j x).poisonFast = s.poisonFast := rfl
@[simp] theorem State.setJob_poisonCap (s : State) (j : Nat) (x : Job) : (s.setJob j x).poisonCap = s.poisonCap := rfl
@[simp] theorem State.setJob_interleave (s : State) (j : Nat) (x : Job) : (s.setJob j x).interleave = s.interleave := rfl
@[simp] theorem State.setJob_lend (s : State) (j : Nat) (x : Job) : (s.setJob j x).lend = s.lend := rfl
@[simp] theorem State.setJob_rowSlots (s : State) (j : Nat) (x : Job) : (s.setJob j x).rowSlots = s.rowSlots := rfl
@[simp] theorem State.setJob_pins (s : State) (j : Nat) (x : Job) : (s.setJob j x).pins = s.pins := rfl
@[simp] theorem State.setJob_denied (s : State) (j : Nat) (x : Job) : (s.setJob j x).denied = s.denied := rfl
@[simp] theorem State.setJob_tags (s : State) (j : Nat) (x : Job) : (s.setJob j x).tags = s.tags := rfl
@[simp] theorem State.setJob_phases (s : State) (j : Nat) (x : Job) : (s.setJob j x).phases = s.phases := rfl
@[simp] theorem State.setJob_advSent (s : State) (j : Nat) (x : Job) : (s.setJob j x).advSent = s.advSent := rfl
@[simp] theorem State.setJob_advPassed (s : State) (j : Nat) (x : Job) : (s.setJob j x).advPassed = s.advPassed := rfl
@[simp] theorem State.setJob_phaseLost (s : State) (j : Nat) (x : Job) : (s.setJob j x).phaseLost = s.phaseLost := rfl
@[simp] theorem State.setJob_bound (s : State) (j : Nat) (x : Job) : (s.setJob j x).bound = s.bound := rfl
@[simp] theorem State.setJob_regions (s : State) (j : Nat) (x : Job) : (s.setJob j x).regions = s.regions := rfl
@[simp] theorem State.setJob_placed (s : State) (j : Nat) (x : Job) : (s.setJob j x).placed = s.placed := rfl
@[simp] theorem State.setJob_draws (s : State) (j : Nat) (x : Job) : (s.setJob j x).draws = s.draws := rfl
@[simp] theorem State.setJob_savedResv (s : State) (j : Nat) (x : Job) : (s.setJob j x).savedResv = s.savedResv := rfl
@[simp] theorem State.setJob_jobs (s : State) (j : Nat) (x : Job) : (s.setJob j x).jobs = s.jobs.put j (some x) := rfl
@[simp] theorem State.setJob_account (s : State) (j : Nat) (x : Job) : (s.setJob j x).account = s.account := rfl
@[simp] theorem State.setJob_powerCap (s : State) (j : Nat) (x : Job) : (s.setJob j x).powerCap = s.powerCap := rfl
@[simp] theorem State.setJob_temp (s : State) (j : Nat) (x : Job) : (s.setJob j x).temp = s.temp := rfl
@[simp] theorem State.setJob_derate (s : State) (j : Nat) (x : Job) : (s.setJob j x).derate = s.derate := rfl
@[simp] theorem State.setJob_powerLimited (s : State) (j : Nat) (x : Job) :
    (s.setJob j x).powerLimited = s.powerLimited := rfl
@[simp] theorem State.setJob_devWindows (s : State) (j : Nat) (x : Job) : (s.setJob j x).devWindows = s.devWindows := rfl
@[simp] theorem State.setJob_hostWindows (s : State) (j : Nat) (x : Job) : (s.setJob j x).hostWindows = s.hostWindows := rfl
@[simp] theorem State.setJob_hostMaps (s : State) (j : Nat) (x : Job) : (s.setJob j x).hostMaps = s.hostMaps := rfl
@[simp] theorem State.setJob_fabricWindows (s : State) (j : Nat) (x : Job) :
    (s.setJob j x).fabricWindows = s.fabricWindows := rfl
@[simp] theorem State.setJob_channels (s : State) (j : Nat) (x : Job) : (s.setJob j x).channels = s.channels := rfl
@[simp] theorem State.setJob_hostDown (s : State) (j : Nat) (x : Job) : (s.setJob j x).hostDown = s.hostDown := rfl
@[simp] theorem State.setJob_herez (s : State) (j : Nat) (x : Job) : (s.setJob j x).herez = s.herez := rfl
@[simp] theorem State.setJob_keySlots (s : State) (j : Nat) (x : Job) : (s.setJob j x).keySlots = s.keySlots := rfl
@[simp] theorem State.setJob_linkKeys (s : State) (j : Nat) (x : Job) : (s.setJob j x).linkKeys = s.linkKeys := rfl
@[simp] theorem State.setJob_measurements (s : State) (j : Nat) (x : Job) :
    (s.setJob j x).measurements = s.measurements := rfl
@[simp] theorem State.setJob_securityVersion (s : State) (j : Nat) (x : Job) :
    (s.setJob j x).securityVersion = s.securityVersion := rfl
@[simp] theorem State.setJob_boot (s : State) (j : Nat) (x : Job) : (s.setJob j x).boot = s.boot := rfl
@[simp] theorem State.setJob_frozen (s : State) (j : Nat) (x : Job) : (s.setJob j x).frozen = s.frozen := rfl
@[simp] theorem State.setJob_checkpoint (s : State) (j : Nat) (x : Job) : (s.setJob j x).checkpoint = s.checkpoint := rfl
@[simp] theorem State.setJob_images (s : State) (j : Nat) (x : Job) : (s.setJob j x).images = s.images := rfl
@[simp] theorem State.setJob_errs (s : State) (j : Nat) (x : Job) : (s.setJob j x).errs = s.errs := rfl
@[simp] theorem State.setJob_backing (s : State) (j : Nat) (x : Job) : (s.setJob j x).backing = s.backing := rfl
@[simp] theorem State.setJob_out (s : State) (j : Nat) (x : Job) : (s.setJob j x).out = s.out := rfl

/-! ## emit -/

@[simp] theorem State.emit_turns (s : State) (x : Output) : (s.emit x).turns = s.turns := rfl
@[simp] theorem State.emit_agent (s : State) (x : Output) : (s.emit x).agent = s.agent := rfl
@[simp] theorem State.emit_tick (s : State) (x : Output) : (s.emit x).tick = s.tick := rfl
@[simp] theorem State.emit_undos (s : State) (x : Output) : (s.emit x).undos = s.undos := rfl
@[simp] theorem State.emit_stop (s : State) (x : Output) : (s.emit x).stop = s.stop := rfl
@[simp] theorem State.emit_time (s : State) (x : Output) : (s.emit x).time = s.time := rfl
@[simp] theorem State.emit_strands (s : State) (x : Output) : (s.emit x).strands = s.strands := rfl
@[simp] theorem State.emit_cores (s : State) (x : Output) : (s.emit x).cores = s.cores := rfl
@[simp] theorem State.emit_dies (s : State) (x : Output) : (s.emit x).dies = s.dies := rfl
@[simp] theorem State.emit_fast (s : State) (x : Output) : (s.emit x).fast = s.fast := rfl
@[simp] theorem State.emit_cap (s : State) (x : Output) : (s.emit x).cap = s.cap := rfl
@[simp] theorem State.emit_poisonFast (s : State) (x : Output) : (s.emit x).poisonFast = s.poisonFast := rfl
@[simp] theorem State.emit_poisonCap (s : State) (x : Output) : (s.emit x).poisonCap = s.poisonCap := rfl
@[simp] theorem State.emit_interleave (s : State) (x : Output) : (s.emit x).interleave = s.interleave := rfl
@[simp] theorem State.emit_lend (s : State) (x : Output) : (s.emit x).lend = s.lend := rfl
@[simp] theorem State.emit_rowSlots (s : State) (x : Output) : (s.emit x).rowSlots = s.rowSlots := rfl
@[simp] theorem State.emit_pins (s : State) (x : Output) : (s.emit x).pins = s.pins := rfl
@[simp] theorem State.emit_denied (s : State) (x : Output) : (s.emit x).denied = s.denied := rfl
@[simp] theorem State.emit_tags (s : State) (x : Output) : (s.emit x).tags = s.tags := rfl
@[simp] theorem State.emit_phases (s : State) (x : Output) : (s.emit x).phases = s.phases := rfl
@[simp] theorem State.emit_advSent (s : State) (x : Output) : (s.emit x).advSent = s.advSent := rfl
@[simp] theorem State.emit_advPassed (s : State) (x : Output) : (s.emit x).advPassed = s.advPassed := rfl
@[simp] theorem State.emit_phaseLost (s : State) (x : Output) : (s.emit x).phaseLost = s.phaseLost := rfl
@[simp] theorem State.emit_bound (s : State) (x : Output) : (s.emit x).bound = s.bound := rfl
@[simp] theorem State.emit_regions (s : State) (x : Output) : (s.emit x).regions = s.regions := rfl
@[simp] theorem State.emit_placed (s : State) (x : Output) : (s.emit x).placed = s.placed := rfl
@[simp] theorem State.emit_draws (s : State) (x : Output) : (s.emit x).draws = s.draws := rfl
@[simp] theorem State.emit_savedResv (s : State) (x : Output) : (s.emit x).savedResv = s.savedResv := rfl
@[simp] theorem State.emit_jobs (s : State) (x : Output) : (s.emit x).jobs = s.jobs := rfl
@[simp] theorem State.emit_account (s : State) (x : Output) : (s.emit x).account = s.account := rfl
@[simp] theorem State.emit_powerCap (s : State) (x : Output) : (s.emit x).powerCap = s.powerCap := rfl
@[simp] theorem State.emit_temp (s : State) (x : Output) : (s.emit x).temp = s.temp := rfl
@[simp] theorem State.emit_derate (s : State) (x : Output) : (s.emit x).derate = s.derate := rfl
@[simp] theorem State.emit_powerLimited (s : State) (x : Output) : (s.emit x).powerLimited = s.powerLimited := rfl
@[simp] theorem State.emit_devWindows (s : State) (x : Output) : (s.emit x).devWindows = s.devWindows := rfl
@[simp] theorem State.emit_hostWindows (s : State) (x : Output) : (s.emit x).hostWindows = s.hostWindows := rfl
@[simp] theorem State.emit_hostMaps (s : State) (x : Output) : (s.emit x).hostMaps = s.hostMaps := rfl
@[simp] theorem State.emit_fabricWindows (s : State) (x : Output) : (s.emit x).fabricWindows = s.fabricWindows := rfl
@[simp] theorem State.emit_channels (s : State) (x : Output) : (s.emit x).channels = s.channels := rfl
@[simp] theorem State.emit_hostDown (s : State) (x : Output) : (s.emit x).hostDown = s.hostDown := rfl
@[simp] theorem State.emit_herez (s : State) (x : Output) : (s.emit x).herez = s.herez := rfl
@[simp] theorem State.emit_keySlots (s : State) (x : Output) : (s.emit x).keySlots = s.keySlots := rfl
@[simp] theorem State.emit_linkKeys (s : State) (x : Output) : (s.emit x).linkKeys = s.linkKeys := rfl
@[simp] theorem State.emit_measurements (s : State) (x : Output) : (s.emit x).measurements = s.measurements := rfl
@[simp] theorem State.emit_securityVersion (s : State) (x : Output) : (s.emit x).securityVersion = s.securityVersion := rfl
@[simp] theorem State.emit_boot (s : State) (x : Output) : (s.emit x).boot = s.boot := rfl
@[simp] theorem State.emit_frozen (s : State) (x : Output) : (s.emit x).frozen = s.frozen := rfl
@[simp] theorem State.emit_checkpoint (s : State) (x : Output) : (s.emit x).checkpoint = s.checkpoint := rfl
@[simp] theorem State.emit_images (s : State) (x : Output) : (s.emit x).images = s.images := rfl
@[simp] theorem State.emit_errs (s : State) (x : Output) : (s.emit x).errs = s.errs := rfl
@[simp] theorem State.emit_backing (s : State) (x : Output) : (s.emit x).backing = s.backing := rfl
@[simp] theorem State.emit_out (s : State) (x : Output) : (s.emit x).out = s.out ++ [x] := rfl

/-! ## countErr -/

@[simp] theorem State.countErr_turns (s : State) (kind unit : Nat) : (s.countErr kind unit).turns = s.turns := rfl
@[simp] theorem State.countErr_agent (s : State) (kind unit : Nat) : (s.countErr kind unit).agent = s.agent := rfl
@[simp] theorem State.countErr_tick (s : State) (kind unit : Nat) : (s.countErr kind unit).tick = s.tick := rfl
@[simp] theorem State.countErr_undos (s : State) (kind unit : Nat) : (s.countErr kind unit).undos = s.undos := rfl
@[simp] theorem State.countErr_stop (s : State) (kind unit : Nat) : (s.countErr kind unit).stop = s.stop := rfl
@[simp] theorem State.countErr_time (s : State) (kind unit : Nat) : (s.countErr kind unit).time = s.time := rfl
@[simp] theorem State.countErr_strands (s : State) (kind unit : Nat) : (s.countErr kind unit).strands = s.strands := rfl
@[simp] theorem State.countErr_cores (s : State) (kind unit : Nat) : (s.countErr kind unit).cores = s.cores := rfl
@[simp] theorem State.countErr_dies (s : State) (kind unit : Nat) : (s.countErr kind unit).dies = s.dies := rfl
@[simp] theorem State.countErr_fast (s : State) (kind unit : Nat) : (s.countErr kind unit).fast = s.fast := rfl
@[simp] theorem State.countErr_cap (s : State) (kind unit : Nat) : (s.countErr kind unit).cap = s.cap := rfl
@[simp] theorem State.countErr_poisonFast (s : State) (kind unit : Nat) :
    (s.countErr kind unit).poisonFast = s.poisonFast := rfl
@[simp] theorem State.countErr_poisonCap (s : State) (kind unit : Nat) :
    (s.countErr kind unit).poisonCap = s.poisonCap := rfl
@[simp] theorem State.countErr_interleave (s : State) (kind unit : Nat) :
    (s.countErr kind unit).interleave = s.interleave := rfl
@[simp] theorem State.countErr_lend (s : State) (kind unit : Nat) : (s.countErr kind unit).lend = s.lend := rfl
@[simp] theorem State.countErr_rowSlots (s : State) (kind unit : Nat) : (s.countErr kind unit).rowSlots = s.rowSlots := rfl
@[simp] theorem State.countErr_pins (s : State) (kind unit : Nat) : (s.countErr kind unit).pins = s.pins := rfl
@[simp] theorem State.countErr_denied (s : State) (kind unit : Nat) : (s.countErr kind unit).denied = s.denied := rfl
@[simp] theorem State.countErr_tags (s : State) (kind unit : Nat) : (s.countErr kind unit).tags = s.tags := rfl
@[simp] theorem State.countErr_phases (s : State) (kind unit : Nat) : (s.countErr kind unit).phases = s.phases := rfl
@[simp] theorem State.countErr_advSent (s : State) (kind unit : Nat) : (s.countErr kind unit).advSent = s.advSent := rfl
@[simp] theorem State.countErr_advPassed (s : State) (kind unit : Nat) :
    (s.countErr kind unit).advPassed = s.advPassed := rfl
@[simp] theorem State.countErr_phaseLost (s : State) (kind unit : Nat) :
    (s.countErr kind unit).phaseLost = s.phaseLost := rfl
@[simp] theorem State.countErr_bound (s : State) (kind unit : Nat) :
    (s.countErr kind unit).bound = s.bound := rfl
@[simp] theorem State.countErr_regions (s : State) (kind unit : Nat) : (s.countErr kind unit).regions = s.regions := rfl
@[simp] theorem State.countErr_placed (s : State) (kind unit : Nat) : (s.countErr kind unit).placed = s.placed := rfl
@[simp] theorem State.countErr_draws (s : State) (kind unit : Nat) : (s.countErr kind unit).draws = s.draws := rfl
@[simp] theorem State.countErr_savedResv (s : State) (kind unit : Nat) : (s.countErr kind unit).savedResv = s.savedResv := rfl
@[simp] theorem State.countErr_jobs (s : State) (kind unit : Nat) : (s.countErr kind unit).jobs = s.jobs := rfl
@[simp] theorem State.countErr_account (s : State) (kind unit : Nat) : (s.countErr kind unit).account = s.account := rfl
@[simp] theorem State.countErr_powerCap (s : State) (kind unit : Nat) : (s.countErr kind unit).powerCap = s.powerCap := rfl
@[simp] theorem State.countErr_temp (s : State) (kind unit : Nat) : (s.countErr kind unit).temp = s.temp := rfl
@[simp] theorem State.countErr_derate (s : State) (kind unit : Nat) : (s.countErr kind unit).derate = s.derate := rfl
@[simp] theorem State.countErr_powerLimited (s : State) (kind unit : Nat) :
    (s.countErr kind unit).powerLimited = s.powerLimited := rfl
@[simp] theorem State.countErr_devWindows (s : State) (kind unit : Nat) :
    (s.countErr kind unit).devWindows = s.devWindows := rfl
@[simp] theorem State.countErr_hostWindows (s : State) (kind unit : Nat) :
    (s.countErr kind unit).hostWindows = s.hostWindows := rfl
@[simp] theorem State.countErr_hostMaps (s : State) (kind unit : Nat) :
    (s.countErr kind unit).hostMaps = s.hostMaps := rfl
@[simp] theorem State.countErr_fabricWindows (s : State) (kind unit : Nat) :
    (s.countErr kind unit).fabricWindows = s.fabricWindows := rfl
@[simp] theorem State.countErr_channels (s : State) (kind unit : Nat) : (s.countErr kind unit).channels = s.channels := rfl
@[simp] theorem State.countErr_hostDown (s : State) (kind unit : Nat) : (s.countErr kind unit).hostDown = s.hostDown := rfl
@[simp] theorem State.countErr_herez (s : State) (kind unit : Nat) : (s.countErr kind unit).herez = s.herez := rfl
@[simp] theorem State.countErr_keySlots (s : State) (kind unit : Nat) : (s.countErr kind unit).keySlots = s.keySlots := rfl
@[simp] theorem State.countErr_linkKeys (s : State) (kind unit : Nat) : (s.countErr kind unit).linkKeys = s.linkKeys := rfl
@[simp] theorem State.countErr_measurements (s : State) (kind unit : Nat) :
    (s.countErr kind unit).measurements = s.measurements := rfl
@[simp] theorem State.countErr_securityVersion (s : State) (kind unit : Nat) :
    (s.countErr kind unit).securityVersion = s.securityVersion := rfl
@[simp] theorem State.countErr_boot (s : State) (kind unit : Nat) : (s.countErr kind unit).boot = s.boot := rfl
@[simp] theorem State.countErr_frozen (s : State) (kind unit : Nat) : (s.countErr kind unit).frozen = s.frozen := rfl
@[simp] theorem State.countErr_checkpoint (s : State) (kind unit : Nat) :
    (s.countErr kind unit).checkpoint = s.checkpoint := rfl
@[simp] theorem State.countErr_images (s : State) (kind unit : Nat) :
    (s.countErr kind unit).images = s.images := rfl
@[simp] theorem State.countErr_errs (s : State) (kind unit : Nat) :
    (s.countErr kind unit).errs = SMap.set 0 s.errs (errKey kind unit) (min 0xFFFFFFFF (SMap.get 0 s.errs (errKey kind unit) + 1)) := rfl
@[simp] theorem State.countErr_backing (s : State) (kind unit : Nat) : (s.countErr kind unit).backing = s.backing := rfl
@[simp] theorem State.countErr_out (s : State) (kind unit : Nat) : (s.countErr kind unit).out = s.out := rfl

/-! ## setTierByte -/

@[simp] theorem State.setTierByte_turns (s : State) (t : Tier) (a : Nat) (b : Byte) :
    (s.setTierByte t a b).turns = s.turns := by cases t <;> rfl
@[simp] theorem State.setTierByte_agent (s : State) (t : Tier) (a : Nat) (b : Byte) :
    (s.setTierByte t a b).agent = s.agent := by cases t <;> rfl
@[simp] theorem State.setTierByte_tick (s : State) (t : Tier) (a : Nat) (b : Byte) :
    (s.setTierByte t a b).tick = s.tick := by cases t <;> rfl
@[simp] theorem State.setTierByte_undos (s : State) (t : Tier) (a : Nat) (b : Byte) :
    (s.setTierByte t a b).undos = s.undos := by cases t <;> rfl
@[simp] theorem State.setTierByte_stop (s : State) (t : Tier) (a : Nat) (b : Byte) :
    (s.setTierByte t a b).stop = s.stop := by cases t <;> rfl
@[simp] theorem State.setTierByte_time (s : State) (t : Tier) (a : Nat) (b : Byte) :
    (s.setTierByte t a b).time = s.time := by cases t <;> rfl
@[simp] theorem State.setTierByte_strands (s : State) (t : Tier) (a : Nat) (b : Byte) :
    (s.setTierByte t a b).strands = s.strands := by cases t <;> rfl
@[simp] theorem State.setTierByte_cores (s : State) (t : Tier) (a : Nat) (b : Byte) :
    (s.setTierByte t a b).cores = s.cores := by cases t <;> rfl
@[simp] theorem State.setTierByte_dies (s : State) (t : Tier) (a : Nat) (b : Byte) :
    (s.setTierByte t a b).dies = s.dies := by cases t <;> rfl
@[simp] theorem State.setTierByte_poisonFast (s : State) (t : Tier) (a : Nat) (b : Byte) :
    (s.setTierByte t a b).poisonFast = s.poisonFast := by cases t <;> rfl
@[simp] theorem State.setTierByte_poisonCap (s : State) (t : Tier) (a : Nat) (b : Byte) :
    (s.setTierByte t a b).poisonCap = s.poisonCap := by cases t <;> rfl
@[simp] theorem State.setTierByte_interleave (s : State) (t : Tier) (a : Nat) (b : Byte) :
    (s.setTierByte t a b).interleave = s.interleave := by cases t <;> rfl
@[simp] theorem State.setTierByte_lend (s : State) (t : Tier) (a : Nat) (b : Byte) :
    (s.setTierByte t a b).lend = s.lend := by cases t <;> rfl
@[simp] theorem State.setTierByte_rowSlots (s : State) (t : Tier) (a : Nat) (b : Byte) :
    (s.setTierByte t a b).rowSlots = s.rowSlots := by cases t <;> rfl
@[simp] theorem State.setTierByte_pins (s : State) (t : Tier) (a : Nat) (b : Byte) :
    (s.setTierByte t a b).pins = s.pins := by cases t <;> rfl
@[simp] theorem State.setTierByte_denied (s : State) (t : Tier) (a : Nat) (b : Byte) :
    (s.setTierByte t a b).denied = s.denied := by cases t <;> rfl
@[simp] theorem State.setTierByte_tags (s : State) (t : Tier) (a : Nat) (b : Byte) :
    (s.setTierByte t a b).tags = s.tags := by cases t <;> rfl
@[simp] theorem State.setTierByte_phases (s : State) (t : Tier) (a : Nat) (b : Byte) :
    (s.setTierByte t a b).phases = s.phases := by cases t <;> rfl
@[simp] theorem State.setTierByte_advSent (s : State) (t : Tier) (a : Nat) (b : Byte) :
    (s.setTierByte t a b).advSent = s.advSent := by cases t <;> rfl
@[simp] theorem State.setTierByte_advPassed (s : State) (t : Tier) (a : Nat) (b : Byte) :
    (s.setTierByte t a b).advPassed = s.advPassed := by cases t <;> rfl
@[simp] theorem State.setTierByte_phaseLost (s : State) (t : Tier) (a : Nat) (b : Byte) :
    (s.setTierByte t a b).phaseLost = s.phaseLost := by cases t <;> rfl
@[simp] theorem State.setTierByte_bound (s : State) (t : Tier) (a : Nat) (b : Byte) :
    (s.setTierByte t a b).bound = s.bound := by cases t <;> rfl
@[simp] theorem State.setTierByte_regions (s : State) (t : Tier) (a : Nat) (b : Byte) :
    (s.setTierByte t a b).regions = s.regions := by cases t <;> rfl
@[simp] theorem State.setTierByte_placed (s : State) (t : Tier) (a : Nat) (b : Byte) :
    (s.setTierByte t a b).placed = s.placed := by cases t <;> rfl
@[simp] theorem State.setTierByte_draws (s : State) (t : Tier) (a : Nat) (b : Byte) :
    (s.setTierByte t a b).draws = s.draws := by cases t <;> rfl
@[simp] theorem State.setTierByte_savedResv (s : State) (t : Tier) (a : Nat) (b : Byte) :
    (s.setTierByte t a b).savedResv = s.savedResv := by cases t <;> rfl
@[simp] theorem State.setTierByte_jobs (s : State) (t : Tier) (a : Nat) (b : Byte) :
    (s.setTierByte t a b).jobs = s.jobs := by cases t <;> rfl
@[simp] theorem State.setTierByte_account (s : State) (t : Tier) (a : Nat) (b : Byte) :
    (s.setTierByte t a b).account = s.account := by cases t <;> rfl
@[simp] theorem State.setTierByte_powerCap (s : State) (t : Tier) (a : Nat) (b : Byte) :
    (s.setTierByte t a b).powerCap = s.powerCap := by cases t <;> rfl
@[simp] theorem State.setTierByte_temp (s : State) (t : Tier) (a : Nat) (b : Byte) :
    (s.setTierByte t a b).temp = s.temp := by cases t <;> rfl
@[simp] theorem State.setTierByte_derate (s : State) (t : Tier) (a : Nat) (b : Byte) :
    (s.setTierByte t a b).derate = s.derate := by cases t <;> rfl
@[simp] theorem State.setTierByte_powerLimited (s : State) (t : Tier) (a : Nat) (b : Byte) :
    (s.setTierByte t a b).powerLimited = s.powerLimited := by cases t <;> rfl
@[simp] theorem State.setTierByte_devWindows (s : State) (t : Tier) (a : Nat) (b : Byte) :
    (s.setTierByte t a b).devWindows = s.devWindows := by cases t <;> rfl
@[simp] theorem State.setTierByte_hostWindows (s : State) (t : Tier) (a : Nat) (b : Byte) :
    (s.setTierByte t a b).hostWindows = s.hostWindows := by cases t <;> rfl
@[simp] theorem State.setTierByte_hostMaps (s : State) (t : Tier) (a : Nat) (b : Byte) :
    (s.setTierByte t a b).hostMaps = s.hostMaps := by cases t <;> rfl
@[simp] theorem State.setTierByte_fabricWindows (s : State) (t : Tier) (a : Nat) (b : Byte) :
    (s.setTierByte t a b).fabricWindows = s.fabricWindows := by cases t <;> rfl
@[simp] theorem State.setTierByte_channels (s : State) (t : Tier) (a : Nat) (b : Byte) :
    (s.setTierByte t a b).channels = s.channels := by cases t <;> rfl
@[simp] theorem State.setTierByte_hostDown (s : State) (t : Tier) (a : Nat) (b : Byte) :
    (s.setTierByte t a b).hostDown = s.hostDown := by cases t <;> rfl
@[simp] theorem State.setTierByte_herez (s : State) (t : Tier) (a : Nat) (b : Byte) :
    (s.setTierByte t a b).herez = s.herez := by cases t <;> rfl
@[simp] theorem State.setTierByte_keySlots (s : State) (t : Tier) (a : Nat) (b : Byte) :
    (s.setTierByte t a b).keySlots = s.keySlots := by cases t <;> rfl
@[simp] theorem State.setTierByte_linkKeys (s : State) (t : Tier) (a : Nat) (b : Byte) :
    (s.setTierByte t a b).linkKeys = s.linkKeys := by cases t <;> rfl
@[simp] theorem State.setTierByte_measurements (s : State) (t : Tier) (a : Nat) (b : Byte) :
    (s.setTierByte t a b).measurements = s.measurements := by cases t <;> rfl
@[simp] theorem State.setTierByte_securityVersion (s : State) (t : Tier) (a : Nat) (b : Byte) :
    (s.setTierByte t a b).securityVersion = s.securityVersion := by cases t <;> rfl
@[simp] theorem State.setTierByte_boot (s : State) (t : Tier) (a : Nat) (b : Byte) :
    (s.setTierByte t a b).boot = s.boot := by cases t <;> rfl
@[simp] theorem State.setTierByte_frozen (s : State) (t : Tier) (a : Nat) (b : Byte) :
    (s.setTierByte t a b).frozen = s.frozen := by cases t <;> rfl
@[simp] theorem State.setTierByte_checkpoint (s : State) (t : Tier) (a : Nat) (b : Byte) :
    (s.setTierByte t a b).checkpoint = s.checkpoint := by cases t <;> rfl
@[simp] theorem State.setTierByte_images (s : State) (t : Tier) (a : Nat) (b : Byte) :
    (s.setTierByte t a b).images = s.images := by cases t <;> rfl
@[simp] theorem State.setTierByte_errs (s : State) (t : Tier) (a : Nat) (b : Byte) :
    (s.setTierByte t a b).errs = s.errs := by cases t <;> rfl
@[simp] theorem State.setTierByte_backing (s : State) (t : Tier) (a : Nat) (b : Byte) :
    (s.setTierByte t a b).backing = s.backing := by cases t <;> rfl
@[simp] theorem State.setTierByte_out (s : State) (t : Tier) (a : Nat) (b : Byte) :
    (s.setTierByte t a b).out = s.out := by cases t <;> rfl

/-! ## setTierPoison -/

@[simp] theorem State.setTierPoison_turns (s : State) (t : Tier) (a : Nat) (b : Bool) :
    (s.setTierPoison t a b).turns = s.turns := by cases t <;> rfl
@[simp] theorem State.setTierPoison_agent (s : State) (t : Tier) (a : Nat) (b : Bool) :
    (s.setTierPoison t a b).agent = s.agent := by cases t <;> rfl
@[simp] theorem State.setTierPoison_tick (s : State) (t : Tier) (a : Nat) (b : Bool) :
    (s.setTierPoison t a b).tick = s.tick := by cases t <;> rfl
@[simp] theorem State.setTierPoison_undos (s : State) (t : Tier) (a : Nat) (b : Bool) :
    (s.setTierPoison t a b).undos = s.undos := by cases t <;> rfl
@[simp] theorem State.setTierPoison_stop (s : State) (t : Tier) (a : Nat) (b : Bool) :
    (s.setTierPoison t a b).stop = s.stop := by cases t <;> rfl
@[simp] theorem State.setTierPoison_time (s : State) (t : Tier) (a : Nat) (b : Bool) :
    (s.setTierPoison t a b).time = s.time := by cases t <;> rfl
@[simp] theorem State.setTierPoison_strands (s : State) (t : Tier) (a : Nat) (b : Bool) :
    (s.setTierPoison t a b).strands = s.strands := by cases t <;> rfl
@[simp] theorem State.setTierPoison_cores (s : State) (t : Tier) (a : Nat) (b : Bool) :
    (s.setTierPoison t a b).cores = s.cores := by cases t <;> rfl
@[simp] theorem State.setTierPoison_dies (s : State) (t : Tier) (a : Nat) (b : Bool) :
    (s.setTierPoison t a b).dies = s.dies := by cases t <;> rfl
@[simp] theorem State.setTierPoison_fast (s : State) (t : Tier) (a : Nat) (b : Bool) :
    (s.setTierPoison t a b).fast = s.fast := by cases t <;> rfl
@[simp] theorem State.setTierPoison_cap (s : State) (t : Tier) (a : Nat) (b : Bool) :
    (s.setTierPoison t a b).cap = s.cap := by cases t <;> rfl
@[simp] theorem State.setTierPoison_interleave (s : State) (t : Tier) (a : Nat) (b : Bool) :
    (s.setTierPoison t a b).interleave = s.interleave := by cases t <;> rfl
@[simp] theorem State.setTierPoison_lend (s : State) (t : Tier) (a : Nat) (b : Bool) :
    (s.setTierPoison t a b).lend = s.lend := by cases t <;> rfl
@[simp] theorem State.setTierPoison_rowSlots (s : State) (t : Tier) (a : Nat) (b : Bool) :
    (s.setTierPoison t a b).rowSlots = s.rowSlots := by cases t <;> rfl
@[simp] theorem State.setTierPoison_pins (s : State) (t : Tier) (a : Nat) (b : Bool) :
    (s.setTierPoison t a b).pins = s.pins := by cases t <;> rfl
@[simp] theorem State.setTierPoison_denied (s : State) (t : Tier) (a : Nat) (b : Bool) :
    (s.setTierPoison t a b).denied = s.denied := by cases t <;> rfl
@[simp] theorem State.setTierPoison_tags (s : State) (t : Tier) (a : Nat) (b : Bool) :
    (s.setTierPoison t a b).tags = s.tags := by cases t <;> rfl
@[simp] theorem State.setTierPoison_phases (s : State) (t : Tier) (a : Nat) (b : Bool) :
    (s.setTierPoison t a b).phases = s.phases := by cases t <;> rfl
@[simp] theorem State.setTierPoison_advSent (s : State) (t : Tier) (a : Nat) (b : Bool) :
    (s.setTierPoison t a b).advSent = s.advSent := by cases t <;> rfl
@[simp] theorem State.setTierPoison_advPassed (s : State) (t : Tier) (a : Nat) (b : Bool) :
    (s.setTierPoison t a b).advPassed = s.advPassed := by cases t <;> rfl
@[simp] theorem State.setTierPoison_phaseLost (s : State) (t : Tier) (a : Nat) (b : Bool) :
    (s.setTierPoison t a b).phaseLost = s.phaseLost := by cases t <;> rfl
@[simp] theorem State.setTierPoison_bound (s : State) (t : Tier) (a : Nat) (b : Bool) :
    (s.setTierPoison t a b).bound = s.bound := by cases t <;> rfl
@[simp] theorem State.setTierPoison_regions (s : State) (t : Tier) (a : Nat) (b : Bool) :
    (s.setTierPoison t a b).regions = s.regions := by cases t <;> rfl
@[simp] theorem State.setTierPoison_placed (s : State) (t : Tier) (a : Nat) (b : Bool) :
    (s.setTierPoison t a b).placed = s.placed := by cases t <;> rfl
@[simp] theorem State.setTierPoison_draws (s : State) (t : Tier) (a : Nat) (b : Bool) :
    (s.setTierPoison t a b).draws = s.draws := by cases t <;> rfl
@[simp] theorem State.setTierPoison_savedResv (s : State) (t : Tier) (a : Nat) (b : Bool) :
    (s.setTierPoison t a b).savedResv = s.savedResv := by cases t <;> rfl
@[simp] theorem State.setTierPoison_jobs (s : State) (t : Tier) (a : Nat) (b : Bool) :
    (s.setTierPoison t a b).jobs = s.jobs := by cases t <;> rfl
@[simp] theorem State.setTierPoison_account (s : State) (t : Tier) (a : Nat) (b : Bool) :
    (s.setTierPoison t a b).account = s.account := by cases t <;> rfl
@[simp] theorem State.setTierPoison_powerCap (s : State) (t : Tier) (a : Nat) (b : Bool) :
    (s.setTierPoison t a b).powerCap = s.powerCap := by cases t <;> rfl
@[simp] theorem State.setTierPoison_temp (s : State) (t : Tier) (a : Nat) (b : Bool) :
    (s.setTierPoison t a b).temp = s.temp := by cases t <;> rfl
@[simp] theorem State.setTierPoison_derate (s : State) (t : Tier) (a : Nat) (b : Bool) :
    (s.setTierPoison t a b).derate = s.derate := by cases t <;> rfl
@[simp] theorem State.setTierPoison_powerLimited (s : State) (t : Tier) (a : Nat) (b : Bool) :
    (s.setTierPoison t a b).powerLimited = s.powerLimited := by cases t <;> rfl
@[simp] theorem State.setTierPoison_devWindows (s : State) (t : Tier) (a : Nat) (b : Bool) :
    (s.setTierPoison t a b).devWindows = s.devWindows := by cases t <;> rfl
@[simp] theorem State.setTierPoison_hostWindows (s : State) (t : Tier) (a : Nat) (b : Bool) :
    (s.setTierPoison t a b).hostWindows = s.hostWindows := by cases t <;> rfl
@[simp] theorem State.setTierPoison_hostMaps (s : State) (t : Tier) (a : Nat) (b : Bool) :
    (s.setTierPoison t a b).hostMaps = s.hostMaps := by cases t <;> rfl
@[simp] theorem State.setTierPoison_fabricWindows (s : State) (t : Tier) (a : Nat) (b : Bool) :
    (s.setTierPoison t a b).fabricWindows = s.fabricWindows := by cases t <;> rfl
@[simp] theorem State.setTierPoison_channels (s : State) (t : Tier) (a : Nat) (b : Bool) :
    (s.setTierPoison t a b).channels = s.channels := by cases t <;> rfl
@[simp] theorem State.setTierPoison_hostDown (s : State) (t : Tier) (a : Nat) (b : Bool) :
    (s.setTierPoison t a b).hostDown = s.hostDown := by cases t <;> rfl
@[simp] theorem State.setTierPoison_herez (s : State) (t : Tier) (a : Nat) (b : Bool) :
    (s.setTierPoison t a b).herez = s.herez := by cases t <;> rfl
@[simp] theorem State.setTierPoison_keySlots (s : State) (t : Tier) (a : Nat) (b : Bool) :
    (s.setTierPoison t a b).keySlots = s.keySlots := by cases t <;> rfl
@[simp] theorem State.setTierPoison_linkKeys (s : State) (t : Tier) (a : Nat) (b : Bool) :
    (s.setTierPoison t a b).linkKeys = s.linkKeys := by cases t <;> rfl
@[simp] theorem State.setTierPoison_measurements (s : State) (t : Tier) (a : Nat) (b : Bool) :
    (s.setTierPoison t a b).measurements = s.measurements := by cases t <;> rfl
@[simp] theorem State.setTierPoison_securityVersion (s : State) (t : Tier) (a : Nat) (b : Bool) :
    (s.setTierPoison t a b).securityVersion = s.securityVersion := by cases t <;> rfl
@[simp] theorem State.setTierPoison_boot (s : State) (t : Tier) (a : Nat) (b : Bool) :
    (s.setTierPoison t a b).boot = s.boot := by cases t <;> rfl
@[simp] theorem State.setTierPoison_frozen (s : State) (t : Tier) (a : Nat) (b : Bool) :
    (s.setTierPoison t a b).frozen = s.frozen := by cases t <;> rfl
@[simp] theorem State.setTierPoison_checkpoint (s : State) (t : Tier) (a : Nat) (b : Bool) :
    (s.setTierPoison t a b).checkpoint = s.checkpoint := by cases t <;> rfl
@[simp] theorem State.setTierPoison_images (s : State) (t : Tier) (a : Nat) (b : Bool) :
    (s.setTierPoison t a b).images = s.images := by cases t <;> rfl
@[simp] theorem State.setTierPoison_errs (s : State) (t : Tier) (a : Nat) (b : Bool) :
    (s.setTierPoison t a b).errs = s.errs := by cases t <;> rfl
@[simp] theorem State.setTierPoison_backing (s : State) (t : Tier) (a : Nat) (b : Bool) :
    (s.setTierPoison t a b).backing = s.backing := by cases t <;> rfl
@[simp] theorem State.setTierPoison_out (s : State) (t : Tier) (a : Nat) (b : Bool) :
    (s.setTierPoison t a b).out = s.out := by cases t <;> rfl

/-! ## Strands and cores -/

theorem State.strand_setStrand (s : State) (c k c' k' : Nat) (t : Strand) :
    (s.setStrand c k t).strand c' k' = if 4 * c + k = 4 * c' + k' then t else s.strand c' k' :=
  SMap.get_put _ _ _ _ _

@[simp] theorem State.strand_setStrand_same (s : State) (c k : Nat) (t : Strand) : (s.setStrand c k t).strand c k = t := by
  simp [State.strand_setStrand]

theorem State.strand_onStrand (s : State) (c k c' k' : Nat) (f : Strand → Strand) :
    (s.onStrand c k f).strand c' k' = if 4 * c + k = 4 * c' + k' then f (s.strand c k) else s.strand c' k' :=
  SMap.get_put _ _ _ _ _

@[simp] theorem State.strand_onStrand_same (s : State) (c k : Nat) (f : Strand → Strand) :
    (s.onStrand c k f).strand c k = f (s.strand c k) := by
  simp [State.strand_onStrand]

@[simp] theorem State.who_onStrand (s : State) (c k : Nat) (f : Strand → Strand) : (s.onStrand c k f).who = s.who := rfl

@[simp] theorem State.who_onCur (s : State) (f : Strand → Strand) : (s.onCur f).who = s.who := rfl

@[simp] theorem State.cur_onCur (s : State) (f : Strand → Strand) : (s.onCur f).cur = f s.cur :=
  State.strand_onStrand_same s s.who.1 s.who.2 f

theorem State.onCur_onCur (s : State) (f g : Strand → Strand) : ((s.onCur f).onCur g).cur = g (f s.cur) := by simp

theorem State.core_setCore (s : State) (c c' : Nat) (x : Core) :
    (s.setCore c x).core c' = if c = c' then x else s.core c' :=
  SMap.get_put _ _ _ _ _

@[simp] theorem State.core_setCore_same (s : State) (c : Nat) (x : Core) : (s.setCore c x).core c = x := by
  simp [State.core_setCore]

theorem State.core_onCore (s : State) (c c' : Nat) (f : Core → Core) :
    (s.onCore c f).core c' = if c = c' then f (s.core c) else s.core c' :=
  SMap.get_put _ _ _ _ _

@[simp] theorem State.core_onCore_same (s : State) (c : Nat) (f : Core → Core) : (s.onCore c f).core c = f (s.core c) := by
  simp [State.core_onCore]

@[simp] theorem State.core_onStrand (s : State) (c k c' : Nat) (f : Strand → Strand) :
    (s.onStrand c k f).core c' = s.core c' := rfl

@[simp] theorem State.core_onCur (s : State) (c' : Nat) (f : Strand → Strand) : (s.onCur f).core c' = s.core c' := rfl

@[simp] theorem State.strand_onCore (s : State) (c c' k : Nat) (f : Core → Core) :
    (s.onCore c f).strand c' k = s.strand c' k := rfl

/-! ## Registers of a strand -/

theorem Strand.readX_writeX (t : Strand) (rd r : BitVec 5) (v : Word) :
    (t.writeX rd v).readX r = if r = rd ∧ rd ≠ 0 then v else t.readX r := by
  unfold Strand.writeX Strand.readX
  by_cases h0 : rd = 0
  · simp [h0]
  · by_cases hr : r = 0
    · have : ¬ r = rd := by rintro rfl; exact h0 hr
      simp [hr, h0, this]
      intro h
      exact absurd h.symm h0
    · simp only [h0, hr, if_false, SMap.get_set, not_false_eq_true, and_true]
      have e : (rd.toNat = r.toNat) = (r = rd) := by
        rw [BitVec.toNat_inj]
        exact propext eq_comm
      have h0' : ¬ rd = 0#5 := h0
      by_cases hx : r = rd <;> simp [e, hx, h0']

@[simp] theorem Strand.readX_zero (t : Strand) : t.readX 0 = 0 := rfl

@[simp] theorem Strand.writeX_pc (t : Strand) (rd : BitVec 5) (v : Word) :
    (t.writeX rd v).pc = t.pc := by unfold Strand.writeX; split <;> rfl
@[simp] theorem Strand.writeX_priv (t : Strand) (rd : BitVec 5) (v : Word) :
    (t.writeX rd v).priv = t.priv := by unfold Strand.writeX; split <;> rfl
@[simp] theorem Strand.writeX_status (t : Strand) (rd : BitVec 5) (v : Word) :
    (t.writeX rd v).status = t.status := by unfold Strand.writeX; split <;> rfl
@[simp] theorem Strand.writeX_wait (t : Strand) (rd : BitVec 5) (v : Word) :
    (t.writeX rd v).wait = t.wait := by unfold Strand.writeX; split <;> rfl
@[simp] theorem Strand.writeX_sstatus (t : Strand) (rd : BitVec 5) (v : Word) :
    (t.writeX rd v).sstatus = t.sstatus := by unfold Strand.writeX; split <;> rfl
@[simp] theorem Strand.writeX_sie (t : Strand) (rd : BitVec 5) (v : Word) :
    (t.writeX rd v).sie = t.sie := by unfold Strand.writeX; split <;> rfl
@[simp] theorem Strand.writeX_stvec (t : Strand) (rd : BitVec 5) (v : Word) :
    (t.writeX rd v).stvec = t.stvec := by unfold Strand.writeX; split <;> rfl
@[simp] theorem Strand.writeX_scounteren (t : Strand) (rd : BitVec 5) (v : Word) :
    (t.writeX rd v).scounteren = t.scounteren := by unfold Strand.writeX; split <;> rfl
@[simp] theorem Strand.writeX_sscratch (t : Strand) (rd : BitVec 5) (v : Word) :
    (t.writeX rd v).sscratch = t.sscratch := by unfold Strand.writeX; split <;> rfl
@[simp] theorem Strand.writeX_sepc (t : Strand) (rd : BitVec 5) (v : Word) :
    (t.writeX rd v).sepc = t.sepc := by unfold Strand.writeX; split <;> rfl
@[simp] theorem Strand.writeX_scause (t : Strand) (rd : BitVec 5) (v : Word) :
    (t.writeX rd v).scause = t.scause := by unfold Strand.writeX; split <;> rfl
@[simp] theorem Strand.writeX_stval (t : Strand) (rd : BitVec 5) (v : Word) :
    (t.writeX rd v).stval = t.stval := by unfold Strand.writeX; split <;> rfl
@[simp] theorem Strand.writeX_ssip (t : Strand) (rd : BitVec 5) (v : Word) :
    (t.writeX rd v).ssip = t.ssip := by unfold Strand.writeX; split <;> rfl
@[simp] theorem Strand.writeX_stimecmp (t : Strand) (rd : BitVec 5) (v : Word) :
    (t.writeX rd v).stimecmp = t.stimecmp := by unfold Strand.writeX; split <;> rfl
@[simp] theorem Strand.writeX_satp (t : Strand) (rd : BitVec 5) (v : Word) :
    (t.writeX rd v).satp = t.satp := by unfold Strand.writeX; split <;> rfl
@[simp] theorem Strand.writeX_instret (t : Strand) (rd : BitVec 5) (v : Word) :
    (t.writeX rd v).instret = t.instret := by unfold Strand.writeX; split <;> rfl
@[simp] theorem Strand.writeX_vflags (t : Strand) (rd : BitVec 5) (v : Word) :
    (t.writeX rd v).vflags = t.vflags := by unfold Strand.writeX; split <;> rfl
@[simp] theorem Strand.writeX_voorva (t : Strand) (rd : BitVec 5) (v : Word) :
    (t.writeX rd v).voorva = t.voorva := by unfold Strand.writeX; split <;> rfl
@[simp] theorem Strand.writeX_vslip (t : Strand) (rd : BitVec 5) (v : Word) :
    (t.writeX rd v).vslip = t.vslip := by unfold Strand.writeX; split <;> rfl
@[simp] theorem Strand.writeX_vcause (t : Strand) (rd : BitVec 5) (v : Word) :
    (t.writeX rd v).vcause = t.vcause := by unfold Strand.writeX; split <;> rfl
@[simp] theorem Strand.writeX_vfrec (t : Strand) (rd : BitVec 5) (v : Word) :
    (t.writeX rd v).vfrec = t.vfrec := by unfold Strand.writeX; split <;> rfl
@[simp] theorem Strand.writeX_vshcause (t : Strand) (rd : BitVec 5) (v : Word) :
    (t.writeX rd v).vshcause = t.vshcause := by unfold Strand.writeX; split <;> rfl
@[simp] theorem Strand.writeX_vshaddr (t : Strand) (rd : BitVec 5) (v : Word) :
    (t.writeX rd v).vshaddr = t.vshaddr := by unfold Strand.writeX; split <;> rfl
@[simp] theorem Strand.writeX_vtsafe (t : Strand) (rd : BitVec 5) (v : Word) :
    (t.writeX rd v).vtsafe = t.vtsafe := by unfold Strand.writeX; split <;> rfl
@[simp] theorem Strand.writeX_vtsafePages (t : Strand) (rd : BitVec 5) (v : Word) :
    (t.writeX rd v).vtsafePages = t.vtsafePages := by unfold Strand.writeX; split <;> rfl
@[simp] theorem Strand.writeX_tw (t : Strand) (rd : BitVec 5) (v : Word) :
    (t.writeX rd v).tw = t.tw := by unfold Strand.writeX; split <;> rfl
@[simp] theorem Strand.writeX_v (t : Strand) (rd : BitVec 5) (v : Word) :
    (t.writeX rd v).v = t.v := by unfold Strand.writeX; split <;> rfl
@[simp] theorem Strand.writeX_hwm (t : Strand) (rd : BitVec 5) (v : Word) :
    (t.writeX rd v).hwm = t.hwm := by unfold Strand.writeX; split <;> rfl
@[simp] theorem Strand.writeX_feClear (t : Strand) (rd : BitVec 5) (v : Word) :
    (t.writeX rd v).feClear = t.feClear := by unfold Strand.writeX; split <;> rfl
@[simp] theorem Strand.writeX_m (t : Strand) (rd : BitVec 5) (v : Word) :
    (t.writeX rd v).m = t.m := by unfold Strand.writeX; split <;> rfl
@[simp] theorem Strand.writeX_vl (t : Strand) (rd : BitVec 5) (v : Word) :
    (t.writeX rd v).vl = t.vl := by unfold Strand.writeX; split <;> rfl
@[simp] theorem Strand.writeX_vstart (t : Strand) (rd : BitVec 5) (v : Word) :
    (t.writeX rd v).vstart = t.vstart := by unfold Strand.writeX; split <;> rfl
@[simp] theorem Strand.writeX_modes (t : Strand) (rd : BitVec 5) (v : Word) :
    (t.writeX rd v).modes = t.modes := by unfold Strand.writeX; split <;> rfl
@[simp] theorem Strand.writeX_probes (t : Strand) (rd : BitVec 5) (v : Word) :
    (t.writeX rd v).probes = t.probes := by unfold Strand.writeX; split <;> rfl
@[simp] theorem Strand.writeX_lq (t : Strand) (rd : BitVec 5) (v : Word) :
    (t.writeX rd v).lq = t.lq := by unfold Strand.writeX; split <;> rfl
@[simp] theorem Strand.writeX_aq (t : Strand) (rd : BitVec 5) (v : Word) :
    (t.writeX rd v).aq = t.aq := by unfold Strand.writeX; split <;> rfl
@[simp] theorem Strand.writeX_sq (t : Strand) (rd : BitVec 5) (v : Word) :
    (t.writeX rd v).sq = t.sq := by unfold Strand.writeX; split <;> rfl
@[simp] theorem Strand.writeX_vpos (t : Strand) (rd : BitVec 5) (v : Word) :
    (t.writeX rd v).vpos = t.vpos := by unfold Strand.writeX; split <;> rfl
@[simp] theorem Strand.writeX_walks (t : Strand) (rd : BitVec 5) (v : Word) :
    (t.writeX rd v).walks = t.walks := by unfold Strand.writeX; split <;> rfl
@[simp] theorem Strand.writeX_rows (t : Strand) (rd : BitVec 5) (v : Word) :
    (t.writeX rd v).rows = t.rows := by unfold Strand.writeX; split <;> rfl
@[simp] theorem Strand.writeX_resv (t : Strand) (rd : BitVec 5) (v : Word) :
    (t.writeX rd v).resv = t.resv := by unfold Strand.writeX; split <;> rfl
@[simp] theorem Strand.writeX_watches (t : Strand) (rd : BitVec 5) (v : Word) :
    (t.writeX rd v).watches = t.watches := by unfold Strand.writeX; split <;> rfl
@[simp] theorem Strand.writeX_notices (t : Strand) (rd : BitVec 5) (v : Word) :
    (t.writeX rd v).notices = t.notices := by unfold Strand.writeX; split <;> rfl
@[simp] theorem Strand.writeX_tlb (t : Strand) (rd : BitVec 5) (v : Word) :
    (t.writeX rd v).tlb = t.tlb := by unfold Strand.writeX; split <;> rfl
@[simp] theorem Strand.writeX_events (t : Strand) (rd : BitVec 5) (v : Word) :
    (t.writeX rd v).events = t.events := by unfold Strand.writeX; split <;> rfl
@[simp] theorem Strand.writeX_wdRun (t : Strand) (rd : BitVec 5) (v : Word) :
    (t.writeX rd v).wdRun = t.wdRun := by unfold Strand.writeX; split <;> rfl
@[simp] theorem Strand.writeX_wdEvents (t : Strand) (rd : BitVec 5) (v : Word) :
    (t.writeX rd v).wdEvents = t.wdEvents := by unfold Strand.writeX; split <;> rfl
@[simp] theorem Strand.writeX_lastTime (t : Strand) (rd : BitVec 5) (v : Word) :
    (t.writeX rd v).lastTime = t.lastTime := by unfold Strand.writeX; split <;> rfl
@[simp] theorem Strand.writeX_fault (t : Strand) (rd : BitVec 5) (v : Word) :
    (t.writeX rd v).fault = t.fault := by unfold Strand.writeX; split <;> rfl
@[simp] theorem Strand.writeX_written (t : Strand) (rd : BitVec 5) (v : Word) :
    (t.writeX rd v).written = t.written := by unfold Strand.writeX; split <;> rfl
@[simp] theorem Strand.writeX_request (t : Strand) (rd : BitVec 5) (v : Word) :
    (t.writeX rd v).request = t.request := by unfold Strand.writeX; split <;> rfl
@[simp] theorem Strand.writeX_stores (t : Strand) (rd : BitVec 5) (v : Word) :
    (t.writeX rd v).stores = t.stores := by unfold Strand.writeX; split <;> rfl
@[simp] theorem Strand.writeX_fences (t : Strand) (rd : BitVec 5) (v : Word) :
    (t.writeX rd v).fences = t.fences := by unfold Strand.writeX; split <;> rfl
@[simp] theorem Strand.writeX_kept (t : Strand) (rd : BitVec 5) (v : Word) :
    (t.writeX rd v).kept = t.kept := by unfold Strand.writeX; split <;> rfl
@[simp] theorem Strand.writeX_inStep (t : Strand) (rd : BitVec 5) (v : Word) :
    (t.writeX rd v).inStep = t.inStep := by unfold Strand.writeX; split <;> rfl
@[simp] theorem Strand.writeX_fenceE (t : Strand) (rd : BitVec 5) (v : Word) :
    (t.writeX rd v).fenceE = t.fenceE := by unfold Strand.writeX; split <;> rfl
@[simp] theorem Strand.writeX_ctxSaved (t : Strand) (rd : BitVec 5) (v : Word) :
    (t.writeX rd v).ctxSaved = t.ctxSaved := by unfold Strand.writeX; split <;> rfl
@[simp] theorem Strand.writeX_heldBy (t : Strand) (rd : BitVec 5) (v : Word) :
    (t.writeX rd v).heldBy = t.heldBy := by unfold Strand.writeX; split <;> rfl
@[simp] theorem Strand.writeX_giveUp (t : Strand) (rd : BitVec 5) (v : Word) :
    (t.writeX rd v).giveUp = t.giveUp := by unfold Strand.writeX; split <;> rfl

@[simp] theorem Strand.count_x (t : Strand) (e n : Nat) : (t.count e n).x = t.x := rfl
@[simp] theorem Strand.count_pc (t : Strand) (e n : Nat) : (t.count e n).pc = t.pc := rfl
@[simp] theorem Strand.count_priv (t : Strand) (e n : Nat) : (t.count e n).priv = t.priv := rfl
@[simp] theorem Strand.count_status (t : Strand) (e n : Nat) : (t.count e n).status = t.status := rfl
@[simp] theorem Strand.count_wait (t : Strand) (e n : Nat) : (t.count e n).wait = t.wait := rfl
@[simp] theorem Strand.count_sstatus (t : Strand) (e n : Nat) : (t.count e n).sstatus = t.sstatus := rfl
@[simp] theorem Strand.count_sie (t : Strand) (e n : Nat) : (t.count e n).sie = t.sie := rfl
@[simp] theorem Strand.count_stvec (t : Strand) (e n : Nat) : (t.count e n).stvec = t.stvec := rfl
@[simp] theorem Strand.count_scounteren (t : Strand) (e n : Nat) : (t.count e n).scounteren = t.scounteren := rfl
@[simp] theorem Strand.count_sscratch (t : Strand) (e n : Nat) : (t.count e n).sscratch = t.sscratch := rfl
@[simp] theorem Strand.count_sepc (t : Strand) (e n : Nat) : (t.count e n).sepc = t.sepc := rfl
@[simp] theorem Strand.count_scause (t : Strand) (e n : Nat) : (t.count e n).scause = t.scause := rfl
@[simp] theorem Strand.count_stval (t : Strand) (e n : Nat) : (t.count e n).stval = t.stval := rfl
@[simp] theorem Strand.count_ssip (t : Strand) (e n : Nat) : (t.count e n).ssip = t.ssip := rfl
@[simp] theorem Strand.count_stimecmp (t : Strand) (e n : Nat) : (t.count e n).stimecmp = t.stimecmp := rfl
@[simp] theorem Strand.count_satp (t : Strand) (e n : Nat) : (t.count e n).satp = t.satp := rfl
@[simp] theorem Strand.count_instret (t : Strand) (e n : Nat) : (t.count e n).instret = t.instret := rfl
@[simp] theorem Strand.count_vflags (t : Strand) (e n : Nat) : (t.count e n).vflags = t.vflags := rfl
@[simp] theorem Strand.count_voorva (t : Strand) (e n : Nat) : (t.count e n).voorva = t.voorva := rfl
@[simp] theorem Strand.count_vslip (t : Strand) (e n : Nat) : (t.count e n).vslip = t.vslip := rfl
@[simp] theorem Strand.count_vcause (t : Strand) (e n : Nat) : (t.count e n).vcause = t.vcause := rfl
@[simp] theorem Strand.count_vfrec (t : Strand) (e n : Nat) : (t.count e n).vfrec = t.vfrec := rfl
@[simp] theorem Strand.count_vshcause (t : Strand) (e n : Nat) : (t.count e n).vshcause = t.vshcause := rfl
@[simp] theorem Strand.count_vshaddr (t : Strand) (e n : Nat) : (t.count e n).vshaddr = t.vshaddr := rfl
@[simp] theorem Strand.count_vtsafe (t : Strand) (e n : Nat) : (t.count e n).vtsafe = t.vtsafe := rfl
@[simp] theorem Strand.count_vtsafePages (t : Strand) (e n : Nat) : (t.count e n).vtsafePages = t.vtsafePages := rfl
@[simp] theorem Strand.count_tw (t : Strand) (e n : Nat) : (t.count e n).tw = t.tw := rfl
@[simp] theorem Strand.count_v (t : Strand) (e n : Nat) : (t.count e n).v = t.v := rfl
@[simp] theorem Strand.count_hwm (t : Strand) (e n : Nat) : (t.count e n).hwm = t.hwm := rfl
@[simp] theorem Strand.count_feClear (t : Strand) (e n : Nat) : (t.count e n).feClear = t.feClear := rfl
@[simp] theorem Strand.count_m (t : Strand) (e n : Nat) : (t.count e n).m = t.m := rfl
@[simp] theorem Strand.count_vl (t : Strand) (e n : Nat) : (t.count e n).vl = t.vl := rfl
@[simp] theorem Strand.count_vstart (t : Strand) (e n : Nat) : (t.count e n).vstart = t.vstart := rfl
@[simp] theorem Strand.count_modes (t : Strand) (e n : Nat) : (t.count e n).modes = t.modes := rfl
@[simp] theorem Strand.count_probes (t : Strand) (e n : Nat) : (t.count e n).probes = t.probes := rfl
@[simp] theorem Strand.count_lq (t : Strand) (e n : Nat) : (t.count e n).lq = t.lq := rfl
@[simp] theorem Strand.count_aq (t : Strand) (e n : Nat) : (t.count e n).aq = t.aq := rfl
@[simp] theorem Strand.count_sq (t : Strand) (e n : Nat) : (t.count e n).sq = t.sq := rfl
@[simp] theorem Strand.count_vpos (t : Strand) (e n : Nat) : (t.count e n).vpos = t.vpos := rfl
@[simp] theorem Strand.count_walks (t : Strand) (e n : Nat) : (t.count e n).walks = t.walks := rfl
@[simp] theorem Strand.count_rows (t : Strand) (e n : Nat) : (t.count e n).rows = t.rows := rfl
@[simp] theorem Strand.count_resv (t : Strand) (e n : Nat) : (t.count e n).resv = t.resv := rfl
@[simp] theorem Strand.count_watches (t : Strand) (e n : Nat) : (t.count e n).watches = t.watches := rfl
@[simp] theorem Strand.count_notices (t : Strand) (e n : Nat) : (t.count e n).notices = t.notices := rfl
@[simp] theorem Strand.count_tlb (t : Strand) (e n : Nat) : (t.count e n).tlb = t.tlb := rfl
@[simp] theorem Strand.count_events (t : Strand) (e n : Nat) :
    (t.count e n).events = SMap.set 0 t.events e (SMap.get 0 t.events e + BitVec.ofNat 64 n) := rfl
@[simp] theorem Strand.count_wdRun (t : Strand) (e n : Nat) : (t.count e n).wdRun = t.wdRun := rfl
@[simp] theorem Strand.count_wdEvents (t : Strand) (e n : Nat) : (t.count e n).wdEvents = t.wdEvents := rfl
@[simp] theorem Strand.count_lastTime (t : Strand) (e n : Nat) : (t.count e n).lastTime = t.lastTime := rfl
@[simp] theorem Strand.count_fault (t : Strand) (e n : Nat) : (t.count e n).fault = t.fault := rfl
@[simp] theorem Strand.count_written (t : Strand) (e n : Nat) : (t.count e n).written = t.written := rfl
@[simp] theorem Strand.count_request (t : Strand) (e n : Nat) : (t.count e n).request = t.request := rfl
@[simp] theorem Strand.count_stores (t : Strand) (e n : Nat) : (t.count e n).stores = t.stores := rfl
@[simp] theorem Strand.count_fences (t : Strand) (e n : Nat) : (t.count e n).fences = t.fences := rfl
@[simp] theorem Strand.count_kept (t : Strand) (e n : Nat) : (t.count e n).kept = t.kept := rfl
@[simp] theorem Strand.count_inStep (t : Strand) (e n : Nat) : (t.count e n).inStep = t.inStep := rfl
@[simp] theorem Strand.count_fenceE (t : Strand) (e n : Nat) : (t.count e n).fenceE = t.fenceE := rfl
@[simp] theorem Strand.count_ctxSaved (t : Strand) (e n : Nat) : (t.count e n).ctxSaved = t.ctxSaved := rfl
@[simp] theorem Strand.count_heldBy (t : Strand) (e n : Nat) : (t.count e n).heldBy = t.heldBy := rfl
@[simp] theorem Strand.count_giveUp (t : Strand) (e n : Nat) : (t.count e n).giveUp = t.giveUp := rfl

@[simp] theorem Strand.retire_x (t : Strand) : t.retire.x = t.x := rfl
@[simp] theorem Strand.retire_pc (t : Strand) : t.retire.pc = t.pc + 4 := rfl
@[simp] theorem Strand.retire_priv (t : Strand) : t.retire.priv = t.priv := rfl
@[simp] theorem Strand.retire_status (t : Strand) : t.retire.status = t.status := rfl
@[simp] theorem Strand.retire_wait (t : Strand) : t.retire.wait = t.wait := rfl
@[simp] theorem Strand.retire_sstatus (t : Strand) : t.retire.sstatus = t.sstatus := rfl
@[simp] theorem Strand.retire_sie (t : Strand) : t.retire.sie = t.sie := rfl
@[simp] theorem Strand.retire_stvec (t : Strand) : t.retire.stvec = t.stvec := rfl
@[simp] theorem Strand.retire_scounteren (t : Strand) : t.retire.scounteren = t.scounteren := rfl
@[simp] theorem Strand.retire_sscratch (t : Strand) : t.retire.sscratch = t.sscratch := rfl
@[simp] theorem Strand.retire_sepc (t : Strand) : t.retire.sepc = t.sepc := rfl
@[simp] theorem Strand.retire_scause (t : Strand) : t.retire.scause = t.scause := rfl
@[simp] theorem Strand.retire_stval (t : Strand) : t.retire.stval = t.stval := rfl
@[simp] theorem Strand.retire_ssip (t : Strand) : t.retire.ssip = t.ssip := rfl
@[simp] theorem Strand.retire_stimecmp (t : Strand) : t.retire.stimecmp = t.stimecmp := rfl
@[simp] theorem Strand.retire_satp (t : Strand) : t.retire.satp = t.satp := rfl
@[simp] theorem Strand.retire_instret (t : Strand) : t.retire.instret = t.instret + 1 := rfl
@[simp] theorem Strand.retire_vflags (t : Strand) : t.retire.vflags = t.vflags := rfl
@[simp] theorem Strand.retire_voorva (t : Strand) : t.retire.voorva = t.voorva := rfl
@[simp] theorem Strand.retire_vslip (t : Strand) : t.retire.vslip = t.vslip := rfl
@[simp] theorem Strand.retire_vcause (t : Strand) : t.retire.vcause = t.vcause := rfl
@[simp] theorem Strand.retire_vfrec (t : Strand) : t.retire.vfrec = t.vfrec := rfl
@[simp] theorem Strand.retire_vshcause (t : Strand) : t.retire.vshcause = t.vshcause := rfl
@[simp] theorem Strand.retire_vshaddr (t : Strand) : t.retire.vshaddr = t.vshaddr := rfl
@[simp] theorem Strand.retire_vtsafe (t : Strand) : t.retire.vtsafe = t.vtsafe := rfl
@[simp] theorem Strand.retire_vtsafePages (t : Strand) : t.retire.vtsafePages = t.vtsafePages := rfl
@[simp] theorem Strand.retire_tw (t : Strand) : t.retire.tw = t.tw := rfl
@[simp] theorem Strand.retire_v (t : Strand) : t.retire.v = t.v := rfl
@[simp] theorem Strand.retire_hwm (t : Strand) : t.retire.hwm = t.hwm := rfl
@[simp] theorem Strand.retire_feClear (t : Strand) : t.retire.feClear = t.feClear := rfl
@[simp] theorem Strand.retire_m (t : Strand) : t.retire.m = t.m := rfl
@[simp] theorem Strand.retire_vl (t : Strand) : t.retire.vl = t.vl := rfl
@[simp] theorem Strand.retire_vstart (t : Strand) : t.retire.vstart = t.vstart := rfl
@[simp] theorem Strand.retire_modes (t : Strand) : t.retire.modes = t.modes := rfl
@[simp] theorem Strand.retire_probes (t : Strand) : t.retire.probes = t.probes := rfl
@[simp] theorem Strand.retire_lq (t : Strand) : t.retire.lq = t.lq := rfl
@[simp] theorem Strand.retire_aq (t : Strand) : t.retire.aq = t.aq := rfl
@[simp] theorem Strand.retire_sq (t : Strand) : t.retire.sq = t.sq := rfl
@[simp] theorem Strand.retire_vpos (t : Strand) : t.retire.vpos = t.vpos := rfl
@[simp] theorem Strand.retire_walks (t : Strand) : t.retire.walks = t.walks := rfl
@[simp] theorem Strand.retire_rows (t : Strand) : t.retire.rows = t.rows := rfl
@[simp] theorem Strand.retire_resv (t : Strand) : t.retire.resv = t.resv := rfl
@[simp] theorem Strand.retire_watches (t : Strand) : t.retire.watches = t.watches := rfl
@[simp] theorem Strand.retire_notices (t : Strand) : t.retire.notices = t.notices := rfl
@[simp] theorem Strand.retire_tlb (t : Strand) : t.retire.tlb = t.tlb := rfl
@[simp] theorem Strand.retire_events (t : Strand) :
    t.retire.events = SMap.set 0 t.events 1 (SMap.get 0 t.events 1 + 1) := rfl
@[simp] theorem Strand.retire_wdRun (t : Strand) : t.retire.wdRun = t.wdRun := rfl
@[simp] theorem Strand.retire_wdEvents (t : Strand) : t.retire.wdEvents = t.wdEvents := rfl
@[simp] theorem Strand.retire_lastTime (t : Strand) : t.retire.lastTime = t.lastTime := rfl
@[simp] theorem Strand.retire_fault (t : Strand) : t.retire.fault = t.fault := rfl
@[simp] theorem Strand.retire_inStep (t : Strand) : t.retire.inStep = t.inStep := rfl
@[simp] theorem Strand.retire_fenceE (t : Strand) : t.retire.fenceE = t.fenceE := rfl
@[simp] theorem Strand.retire_ctxSaved (t : Strand) : t.retire.ctxSaved = t.ctxSaved := rfl
@[simp] theorem Strand.retire_heldBy (t : Strand) : t.retire.heldBy = t.heldBy := rfl
@[simp] theorem Strand.retire_giveUp (t : Strand) : t.retire.giveUp = t.giveUp := rfl

@[simp] theorem Strand.retireTo_x (t : Strand) (pc : Word) : (t.retireTo pc).x = t.x := rfl
@[simp] theorem Strand.retireTo_pc (t : Strand) (pc : Word) : (t.retireTo pc).pc = pc := rfl
@[simp] theorem Strand.retireTo_priv (t : Strand) (pc : Word) : (t.retireTo pc).priv = t.priv := rfl
@[simp] theorem Strand.retireTo_status (t : Strand) (pc : Word) : (t.retireTo pc).status = t.status := rfl
@[simp] theorem Strand.retireTo_wait (t : Strand) (pc : Word) : (t.retireTo pc).wait = t.wait := rfl
@[simp] theorem Strand.retireTo_sstatus (t : Strand) (pc : Word) : (t.retireTo pc).sstatus = t.sstatus := rfl
@[simp] theorem Strand.retireTo_sie (t : Strand) (pc : Word) : (t.retireTo pc).sie = t.sie := rfl
@[simp] theorem Strand.retireTo_stvec (t : Strand) (pc : Word) : (t.retireTo pc).stvec = t.stvec := rfl
@[simp] theorem Strand.retireTo_scounteren (t : Strand) (pc : Word) : (t.retireTo pc).scounteren = t.scounteren := rfl
@[simp] theorem Strand.retireTo_sscratch (t : Strand) (pc : Word) : (t.retireTo pc).sscratch = t.sscratch := rfl
@[simp] theorem Strand.retireTo_sepc (t : Strand) (pc : Word) : (t.retireTo pc).sepc = t.sepc := rfl
@[simp] theorem Strand.retireTo_scause (t : Strand) (pc : Word) : (t.retireTo pc).scause = t.scause := rfl
@[simp] theorem Strand.retireTo_stval (t : Strand) (pc : Word) : (t.retireTo pc).stval = t.stval := rfl
@[simp] theorem Strand.retireTo_ssip (t : Strand) (pc : Word) : (t.retireTo pc).ssip = t.ssip := rfl
@[simp] theorem Strand.retireTo_stimecmp (t : Strand) (pc : Word) : (t.retireTo pc).stimecmp = t.stimecmp := rfl
@[simp] theorem Strand.retireTo_satp (t : Strand) (pc : Word) : (t.retireTo pc).satp = t.satp := rfl
@[simp] theorem Strand.retireTo_instret (t : Strand) (pc : Word) : (t.retireTo pc).instret = t.instret + 1 := rfl
@[simp] theorem Strand.retireTo_vflags (t : Strand) (pc : Word) : (t.retireTo pc).vflags = t.vflags := rfl
@[simp] theorem Strand.retireTo_voorva (t : Strand) (pc : Word) : (t.retireTo pc).voorva = t.voorva := rfl
@[simp] theorem Strand.retireTo_vslip (t : Strand) (pc : Word) : (t.retireTo pc).vslip = t.vslip := rfl
@[simp] theorem Strand.retireTo_vcause (t : Strand) (pc : Word) : (t.retireTo pc).vcause = t.vcause := rfl
@[simp] theorem Strand.retireTo_vfrec (t : Strand) (pc : Word) : (t.retireTo pc).vfrec = t.vfrec := rfl
@[simp] theorem Strand.retireTo_vshcause (t : Strand) (pc : Word) : (t.retireTo pc).vshcause = t.vshcause := rfl
@[simp] theorem Strand.retireTo_vshaddr (t : Strand) (pc : Word) : (t.retireTo pc).vshaddr = t.vshaddr := rfl
@[simp] theorem Strand.retireTo_vtsafe (t : Strand) (pc : Word) : (t.retireTo pc).vtsafe = t.vtsafe := rfl
@[simp] theorem Strand.retireTo_vtsafePages (t : Strand) (pc : Word) : (t.retireTo pc).vtsafePages = t.vtsafePages := rfl
@[simp] theorem Strand.retireTo_tw (t : Strand) (pc : Word) : (t.retireTo pc).tw = t.tw := rfl
@[simp] theorem Strand.retireTo_v (t : Strand) (pc : Word) : (t.retireTo pc).v = t.v := rfl
@[simp] theorem Strand.retireTo_hwm (t : Strand) (pc : Word) : (t.retireTo pc).hwm = t.hwm := rfl
@[simp] theorem Strand.retireTo_feClear (t : Strand) (pc : Word) : (t.retireTo pc).feClear = t.feClear := rfl
@[simp] theorem Strand.retireTo_m (t : Strand) (pc : Word) : (t.retireTo pc).m = t.m := rfl
@[simp] theorem Strand.retireTo_vl (t : Strand) (pc : Word) : (t.retireTo pc).vl = t.vl := rfl
@[simp] theorem Strand.retireTo_vstart (t : Strand) (pc : Word) : (t.retireTo pc).vstart = t.vstart := rfl
@[simp] theorem Strand.retireTo_modes (t : Strand) (pc : Word) : (t.retireTo pc).modes = t.modes := rfl
@[simp] theorem Strand.retireTo_probes (t : Strand) (pc : Word) : (t.retireTo pc).probes = t.probes := rfl
@[simp] theorem Strand.retireTo_lq (t : Strand) (pc : Word) : (t.retireTo pc).lq = t.lq := rfl
@[simp] theorem Strand.retireTo_aq (t : Strand) (pc : Word) : (t.retireTo pc).aq = t.aq := rfl
@[simp] theorem Strand.retireTo_sq (t : Strand) (pc : Word) : (t.retireTo pc).sq = t.sq := rfl
@[simp] theorem Strand.retireTo_vpos (t : Strand) (pc : Word) : (t.retireTo pc).vpos = t.vpos := rfl
@[simp] theorem Strand.retireTo_walks (t : Strand) (pc : Word) : (t.retireTo pc).walks = t.walks := rfl
@[simp] theorem Strand.retireTo_rows (t : Strand) (pc : Word) : (t.retireTo pc).rows = t.rows := rfl
@[simp] theorem Strand.retireTo_resv (t : Strand) (pc : Word) : (t.retireTo pc).resv = t.resv := rfl
@[simp] theorem Strand.retireTo_watches (t : Strand) (pc : Word) : (t.retireTo pc).watches = t.watches := rfl
@[simp] theorem Strand.retireTo_notices (t : Strand) (pc : Word) : (t.retireTo pc).notices = t.notices := rfl
@[simp] theorem Strand.retireTo_tlb (t : Strand) (pc : Word) : (t.retireTo pc).tlb = t.tlb := rfl
@[simp] theorem Strand.retireTo_events (t : Strand) (pc : Word) :
    (t.retireTo pc).events = SMap.set 0 t.events 1 (SMap.get 0 t.events 1 + 1) := rfl
@[simp] theorem Strand.retireTo_wdRun (t : Strand) (pc : Word) : (t.retireTo pc).wdRun = t.wdRun := rfl
@[simp] theorem Strand.retireTo_wdEvents (t : Strand) (pc : Word) : (t.retireTo pc).wdEvents = t.wdEvents := rfl
@[simp] theorem Strand.retireTo_lastTime (t : Strand) (pc : Word) : (t.retireTo pc).lastTime = t.lastTime := rfl
@[simp] theorem Strand.retireTo_fault (t : Strand) (pc : Word) : (t.retireTo pc).fault = t.fault := rfl
@[simp] theorem Strand.retireTo_written (t : Strand) (pc : Word) : (t.retireTo pc).written = t.written := rfl
@[simp] theorem Strand.retireTo_request (t : Strand) (pc : Word) : (t.retireTo pc).request = t.request := rfl
@[simp] theorem Strand.retireTo_stores (t : Strand) (pc : Word) : (t.retireTo pc).stores = t.stores := rfl
@[simp] theorem Strand.retireTo_fences (t : Strand) (pc : Word) : (t.retireTo pc).fences = t.fences := rfl
@[simp] theorem Strand.retireTo_kept (t : Strand) (pc : Word) : (t.retireTo pc).kept = t.kept := rfl
@[simp] theorem Strand.retireTo_inStep (t : Strand) (pc : Word) : (t.retireTo pc).inStep = t.inStep := rfl
@[simp] theorem Strand.retireTo_fenceE (t : Strand) (pc : Word) : (t.retireTo pc).fenceE = t.fenceE := rfl
@[simp] theorem Strand.retireTo_ctxSaved (t : Strand) (pc : Word) : (t.retireTo pc).ctxSaved = t.ctxSaved := rfl
@[simp] theorem Strand.retireTo_heldBy (t : Strand) (pc : Word) : (t.retireTo pc).heldBy = t.heldBy := rfl
@[simp] theorem Strand.retireTo_giveUp (t : Strand) (pc : Word) : (t.retireTo pc).giveUp = t.giveUp := rfl

@[simp] theorem Strand.flag_x (t : Strand) (f : FlagSet) : (t.flag f).x = t.x := rfl
@[simp] theorem Strand.flag_pc (t : Strand) (f : FlagSet) : (t.flag f).pc = t.pc := rfl
@[simp] theorem Strand.flag_priv (t : Strand) (f : FlagSet) : (t.flag f).priv = t.priv := rfl
@[simp] theorem Strand.flag_status (t : Strand) (f : FlagSet) : (t.flag f).status = t.status := rfl
@[simp] theorem Strand.flag_wait (t : Strand) (f : FlagSet) : (t.flag f).wait = t.wait := rfl
@[simp] theorem Strand.flag_sstatus (t : Strand) (f : FlagSet) : (t.flag f).sstatus = t.sstatus := rfl
@[simp] theorem Strand.flag_sie (t : Strand) (f : FlagSet) : (t.flag f).sie = t.sie := rfl
@[simp] theorem Strand.flag_stvec (t : Strand) (f : FlagSet) : (t.flag f).stvec = t.stvec := rfl
@[simp] theorem Strand.flag_scounteren (t : Strand) (f : FlagSet) : (t.flag f).scounteren = t.scounteren := rfl
@[simp] theorem Strand.flag_sscratch (t : Strand) (f : FlagSet) : (t.flag f).sscratch = t.sscratch := rfl
@[simp] theorem Strand.flag_sepc (t : Strand) (f : FlagSet) : (t.flag f).sepc = t.sepc := rfl
@[simp] theorem Strand.flag_scause (t : Strand) (f : FlagSet) : (t.flag f).scause = t.scause := rfl
@[simp] theorem Strand.flag_stval (t : Strand) (f : FlagSet) : (t.flag f).stval = t.stval := rfl
@[simp] theorem Strand.flag_ssip (t : Strand) (f : FlagSet) : (t.flag f).ssip = t.ssip := rfl
@[simp] theorem Strand.flag_stimecmp (t : Strand) (f : FlagSet) : (t.flag f).stimecmp = t.stimecmp := rfl
@[simp] theorem Strand.flag_satp (t : Strand) (f : FlagSet) : (t.flag f).satp = t.satp := rfl
@[simp] theorem Strand.flag_instret (t : Strand) (f : FlagSet) : (t.flag f).instret = t.instret := rfl
@[simp] theorem Strand.flag_vflags (t : Strand) (f : FlagSet) : (t.flag f).vflags = t.vflags ||| f := rfl
@[simp] theorem Strand.flag_voorva (t : Strand) (f : FlagSet) : (t.flag f).voorva = t.voorva := rfl
@[simp] theorem Strand.flag_vslip (t : Strand) (f : FlagSet) : (t.flag f).vslip = t.vslip := rfl
@[simp] theorem Strand.flag_vcause (t : Strand) (f : FlagSet) : (t.flag f).vcause = t.vcause := rfl
@[simp] theorem Strand.flag_vfrec (t : Strand) (f : FlagSet) : (t.flag f).vfrec = t.vfrec := rfl
@[simp] theorem Strand.flag_vshcause (t : Strand) (f : FlagSet) : (t.flag f).vshcause = t.vshcause := rfl
@[simp] theorem Strand.flag_vshaddr (t : Strand) (f : FlagSet) : (t.flag f).vshaddr = t.vshaddr := rfl
@[simp] theorem Strand.flag_vtsafe (t : Strand) (f : FlagSet) : (t.flag f).vtsafe = t.vtsafe := rfl
@[simp] theorem Strand.flag_vtsafePages (t : Strand) (f : FlagSet) : (t.flag f).vtsafePages = t.vtsafePages := rfl
@[simp] theorem Strand.flag_tw (t : Strand) (f : FlagSet) : (t.flag f).tw = t.tw := rfl
@[simp] theorem Strand.flag_v (t : Strand) (f : FlagSet) : (t.flag f).v = t.v := rfl
@[simp] theorem Strand.flag_hwm (t : Strand) (f : FlagSet) : (t.flag f).hwm = t.hwm := rfl
@[simp] theorem Strand.flag_feClear (t : Strand) (f : FlagSet) : (t.flag f).feClear = t.feClear := rfl
@[simp] theorem Strand.flag_m (t : Strand) (f : FlagSet) : (t.flag f).m = t.m := rfl
@[simp] theorem Strand.flag_vl (t : Strand) (f : FlagSet) : (t.flag f).vl = t.vl := rfl
@[simp] theorem Strand.flag_vstart (t : Strand) (f : FlagSet) : (t.flag f).vstart = t.vstart := rfl
@[simp] theorem Strand.flag_modes (t : Strand) (f : FlagSet) : (t.flag f).modes = t.modes := rfl
@[simp] theorem Strand.flag_probes (t : Strand) (f : FlagSet) : (t.flag f).probes = t.probes := rfl
@[simp] theorem Strand.flag_lq (t : Strand) (f : FlagSet) : (t.flag f).lq = t.lq := rfl
@[simp] theorem Strand.flag_aq (t : Strand) (f : FlagSet) : (t.flag f).aq = t.aq := rfl
@[simp] theorem Strand.flag_sq (t : Strand) (f : FlagSet) : (t.flag f).sq = t.sq := rfl
@[simp] theorem Strand.flag_vpos (t : Strand) (f : FlagSet) : (t.flag f).vpos = t.vpos := rfl
@[simp] theorem Strand.flag_walks (t : Strand) (f : FlagSet) : (t.flag f).walks = t.walks := rfl
@[simp] theorem Strand.flag_rows (t : Strand) (f : FlagSet) : (t.flag f).rows = t.rows := rfl
@[simp] theorem Strand.flag_resv (t : Strand) (f : FlagSet) : (t.flag f).resv = t.resv := rfl
@[simp] theorem Strand.flag_watches (t : Strand) (f : FlagSet) : (t.flag f).watches = t.watches := rfl
@[simp] theorem Strand.flag_notices (t : Strand) (f : FlagSet) : (t.flag f).notices = t.notices := rfl
@[simp] theorem Strand.flag_tlb (t : Strand) (f : FlagSet) : (t.flag f).tlb = t.tlb := rfl
@[simp] theorem Strand.flag_events (t : Strand) (f : FlagSet) : (t.flag f).events = t.events := rfl
@[simp] theorem Strand.flag_wdRun (t : Strand) (f : FlagSet) : (t.flag f).wdRun = t.wdRun := rfl
@[simp] theorem Strand.flag_wdEvents (t : Strand) (f : FlagSet) : (t.flag f).wdEvents = t.wdEvents := rfl
@[simp] theorem Strand.flag_lastTime (t : Strand) (f : FlagSet) : (t.flag f).lastTime = t.lastTime := rfl
@[simp] theorem Strand.flag_fault (t : Strand) (f : FlagSet) : (t.flag f).fault = t.fault := rfl
@[simp] theorem Strand.flag_written (t : Strand) (f : FlagSet) : (t.flag f).written = t.written := rfl
@[simp] theorem Strand.flag_request (t : Strand) (f : FlagSet) : (t.flag f).request = t.request := rfl
@[simp] theorem Strand.flag_stores (t : Strand) (f : FlagSet) : (t.flag f).stores = t.stores := rfl
@[simp] theorem Strand.flag_fences (t : Strand) (f : FlagSet) : (t.flag f).fences = t.fences := rfl
@[simp] theorem Strand.flag_kept (t : Strand) (f : FlagSet) : (t.flag f).kept = t.kept := rfl
@[simp] theorem Strand.flag_inStep (t : Strand) (f : FlagSet) : (t.flag f).inStep = t.inStep := rfl
@[simp] theorem Strand.flag_fenceE (t : Strand) (f : FlagSet) : (t.flag f).fenceE = t.fenceE := rfl
@[simp] theorem Strand.flag_ctxSaved (t : Strand) (f : FlagSet) : (t.flag f).ctxSaved = t.ctxSaved := rfl
@[simp] theorem Strand.flag_heldBy (t : Strand) (f : FlagSet) : (t.flag f).heldBy = t.heldBy := rfl
@[simp] theorem Strand.flag_giveUp (t : Strand) (f : FlagSet) : (t.flag f).giveUp = t.giveUp := rfl

end Sys2Proof.Machine
end

