-- ==== Sys2Proof/Laws/Ops.lean ====
section
/-!
SUPPORT. What the shared operations can do, said once for each: what taking a trap leaves alone, what a scalar result changes, and the
two outcomes of `finish`.
-/
namespace Sys2Proof.Machine

/-! ## Outcomes -/

theorem finish_eq (s : State) (h : s.stop = none) : finish s = .next s := by
  simp [finish, h]

theorem finish_next {s t : State} (h : finish s = .next t) : t = s ∧ s.stop = none := by
  unfold finish at h
  split at h
  · cases h
  · cases h
    exact ⟨rfl, by assumption⟩

/-! ## Records -/

theorem State.writeFast_stop (s : State) (o : Nat) (l : List Byte) : (s.writeFast o l).stop = s.stop := by
  induction l generalizing s o with
  | nil => rfl
  | cons b bs ih => rw [State.writeFast, ih]; rfl

theorem State.writeFast_frame (s : State) (o : Nat) (l : List Byte) :
    s.writeFast o l = { s with fast := (s.writeFast o l).fast } := by
  induction l generalizing s o with
  | nil => rfl
  | cons b bs ih =>
    rw [State.writeFast, ih]
    rfl

/-- A channel that takes its lanes back changes the lending table alone (R153, R154). -/
theorem State.reclaim_frame (s : State) (ch : Nat) : s.reclaim ch = { s with lend := (s.reclaim ch).lend } := by
  unfold State.reclaim
  split <;> rfl

theorem State.reclaimAt_frame (s : State) (a : Nat) : s.reclaimAt a = { s with lend := (s.reclaimAt a).lend } := by
  unfold State.reclaimAt
  split
  · exact s.reclaim_frame _
  · rfl

theorem reclaimFold_frame (l : List Nat) (s : State) : l.foldl State.reclaimAt s = { s with lend := (l.foldl State.reclaimAt s).lend } := by
  induction l generalizing s with
  | nil => rfl
  | cons a l ih =>
    rw [List.foldl_cons, ih, State.reclaimAt_frame]

/-- The requests of a walk change the lending table alone, and nothing while no channel lends its lanes (R153). -/
theorem State.walkTouch_frame (s : State) (root va : Word) : s.walkTouch root va = { s with lend := (s.walkTouch root va).lend } := by
  unfold State.walkTouch
  split
  · rfl
  · exact reclaimFold_frame _ s

theorem State.walkTouch_same (s : State) (root va : Word) (h : s.lend = []) : s.walkTouch root va = s := by
  unfold State.walkTouch
  exact if_pos h

/-- A record ends the reservations of the lines that it is written to, and no other part of the machine (R197). -/
theorem State.loseAt_frame (s : State) (o n : Nat) :
    s.loseAt o n = { s with strands := (s.loseAt o n).strands, savedResv := (s.loseAt o n).savedResv } := by
  unfold State.loseAt
  split <;> rfl

/-- A line that the device itself writes changes the fast tier with its poison, the lending table, and the reservations of the line. -/
def LineFrame (s t : State) : Prop :=
  t = { s with lend := t.lend, strands := t.strands, savedResv := t.savedResv, fast := t.fast, poisonFast := t.poisonFast }

theorem LineFrame.refl (s : State) : LineFrame s s := rfl

theorem LineFrame.trans {s t u : State} (h : LineFrame s t) (g : LineFrame t u) : LineFrame s u := by
  unfold LineFrame at *
  rw [g, h]

theorem State.writeLine_frame (s : State) (o : Nat) (bs : List Byte) : LineFrame s (s.writeLine o bs) := by
  unfold LineFrame State.writeLine
  rw [State.writeFast_frame, State.loseAt_frame, State.reclaim_frame]
  rfl

theorem lineFold_frame {α : Type} (o : α → Nat) (bs : α → List Byte) (l : List α) (s : State) :
    LineFrame s (l.foldl (fun (u : State) i => u.writeLine (o i) (bs i)) s) := by
  induction l generalizing s with
  | nil => exact .refl s
  | cons a l ih => exact (s.writeLine_frame _ _).trans (ih _)

/-- The lines of a record, without what they count. -/
theorem State.recordLines_frame (s : State) (c : Nat) (r : Record) (d w : Nat) :
    LineFrame s ((List.range (continuations r.pages.length)).foldl (fun t i => t.writeLine (ringSlot d (w + 1 + i)) (recordMore s c r (i + 1)))
      (s.writeLine (ringSlot d w) (recordHead s c r))) :=
  (s.writeLine_frame _ _).trans (lineFold_frame (fun i => ringSlot d (w + 1 + i)) (fun i => recordMore s c r (i + 1)) _ _)

/-- A record changes the lines that it is written to, its die's write index and its core's sequence number, and does nothing else. -/
theorem State.writeRecord_frame (s : State) (c : Nat) (r : Record) :
    (s.writeRecord c r).2 = { s with
      lend := (s.writeRecord c r).2.lend
      fast := (s.writeRecord c r).2.fast
      poisonFast := (s.writeRecord c r).2.poisonFast
      strands := (s.writeRecord c r).2.strands
      savedResv := (s.writeRecord c r).2.savedResv
      dies := s.dies.put (dieOf c) { s.die (dieOf c) with ringW := (s.die (dieOf c)).ringW + 1 + continuations r.pages.length }
      cores := s.cores.put c { s.core c with seq := (s.core c).seq + 1 } } := by
  have h := s.recordLines_frame c r (dieOf c) (s.die (dieOf c)).ringW
  unfold State.writeRecord
  simp only
  generalize List.foldl _ _ _ = u at *
  unfold LineFrame at h
  rw [h]
  rfl

theorem State.writeRecord_stop (s : State) (c : Nat) (r : Record) : (s.writeRecord c r).2.stop = s.stop := by
  rw [State.writeRecord_frame]

/-! ## Traps -/

theorem State.afterRing_stop (s : State) (c k : Nat) : (s.afterRing c k).stop = s.stop := by
  unfold State.afterRing
  split <;> rfl

theorem State.doubleFault_stop (s : State) (c k : Nat) (f : HeldFault) : (s.doubleFault c k f).stop = s.stop :=
  (State.onCore_stop _ _ _).trans ((State.onStrand_stop _ _ _ _).trans (State.writeRecord_stop _ _ _))

/-- In the trap window an exception is the double fault of R100, or waits for room in the record ring. -/
theorem State.takeFault_window (s : State) (c k : Nat) (f : HeldFault) (h : (s.strand c k).tw = true) :
    s.takeFault c k f =
      if s.ringRoom (dieOf c) 1 = true then (s.afterRing c k).doubleFault c k f else s.waitRing c k f := by
  unfold State.takeFault
  exact if_pos h

/-- Outside the trap window an exception that needs a record writes it before trap entry, or waits for room in the ring (R242, R243). -/
theorem State.takeFault_record (s : State) (c k : Nat) (f : HeldFault) (h : (s.strand c k).tw = false) (hr : hasRecord f.exc = true) :
    s.takeFault c k f =
      if s.ringRoom (dieOf c) (1 + continuations (recordOf k f.pc f.exc f.time).pages.length) = true then
        ((s.afterRing c k).writeRecord c (recordOf k f.pc f.exc f.time)).2.onStrand c k fun t =>
          { t.enter f.pc f.exc with vfrec := ((s.afterRing c k).writeRecord c (recordOf k f.pc f.exc f.time)).1 }
      else s.waitRing c k f := by
  unfold State.takeFault
  refine (if_neg (by simp [h])).trans ?_
  exact if_pos hr

/-- An exception that needs no record, outside the trap window, is trap entry (R87). -/
theorem State.takeFault_plain (s : State) (c k : Nat) (f : HeldFault) (h : (s.strand c k).tw = false) (hr : hasRecord f.exc = false) :
    s.takeFault c k f = s.onStrand c k fun t => t.enter f.pc f.exc := by
  unfold State.takeFault
  refine (if_neg (by simp [h])).trans ?_
  exact if_neg (by simp [hr])

/-- Taking a fault never meets an address that does not exist. -/
theorem State.takeFault_stop (s : State) (c k : Nat) (f : HeldFault) : (s.takeFault c k f).stop = s.stop := by
  cases h : (s.strand c k).tw
  · cases hr : hasRecord f.exc
    · rw [State.takeFault_plain s c k f h hr, State.onStrand_stop]
    · rw [State.takeFault_record s c k f h hr]
      split
      · rw [State.onStrand_stop, State.writeRecord_stop, State.afterRing_stop]
      · rw [State.waitRing, State.onStrand_stop]
  · rw [State.takeFault_window s c k f h]
    split
    · rw [State.doubleFault_stop, State.afterRing_stop]
    · rw [State.waitRing, State.onStrand_stop]

/-- An exception is taken as a fault raised now; where it writes a record, its time counts as one that the strand has read (R274). -/
theorem State.takeTrap_eq (s : State) (c k : Nat) (pc : Word) (e : Exc) :
    s.takeTrap c k pc e = (if (s.strand c k).tw || hasRecord e then s.noteTime c k else s).takeFault c k
      { pc := pc, exc := e, time := s.timeFor c k, since := s.time } := rfl

theorem State.takeTrap_stop (s : State) (c k : Nat) (pc : Word) (e : Exc) : (s.takeTrap c k pc e).stop = s.stop := by
  rw [State.takeTrap_eq, State.takeFault_stop]
  split
  · exact State.onStrand_stop ..
  · rfl

theorem finish_raise (s : State) (e : Exc) (h : s.stop = none) : finish (s.raise e) = .next (s.raise e) :=
  finish_eq _ (by rw [State.raise, State.takeTrap_stop, h])

/-! ## Translation -/

/-- What a translation of one scalar access changes: at most the leaves that the strand holds (R163), and the lanes of the channels that
a walk reads over (R153). -/
def TranslationFrame (s t : State) (c k : Nat) : Prop :=
  ∃ m, t = { s with lend := m } ∨ ∃ l, t = ({ s with lend := m } : State).onStrand c k fun t => { t with tlb := l }

theorem State.leafFor_frame (s : State) (c k : Nat) (va : Word) : TranslationFrame s (s.leafFor c k va).2 c k := by
  have h := s.walkTouch_frame (s.strand c k).satp va
  unfold State.leafFor
  simp only
  split
  · split
    · exact ⟨_, Or.inl rfl⟩
    · split
      · split <;> (rw [h]; exact ⟨_, Or.inr ⟨_, rfl⟩⟩)
      · exact ⟨_, Or.inl rfl⟩
  · split
    · rw [h]
      exact ⟨_, Or.inr ⟨_, rfl⟩⟩
    · rw [h]
      exact ⟨_, Or.inl rfl⟩

theorem State.translate_state (s : State) (c k : Nat) (va : Word) (a : Access) :
    (s.translate c k va a).2 = s ∨ (s.translate c k va a).2 = (s.leafFor c k va).2 := by
  right
  unfold State.translate
  split
  · rename_i h; rw [h]
  · rename_i h
    rw [h]
    split
    · rfl
    · split
      · rfl
      · dsimp only
        split <;> rfl

theorem State.translate_frame (s : State) (c k : Nat) (va : Word) (a : Access) : TranslationFrame s (s.translate c k va a).2 c k := by
  rcases State.translate_state s c k va a with h | h
  · exact ⟨s.lend, Or.inl h⟩
  · rw [h]
    exact State.leafFor_frame s c k va

end Sys2Proof.Machine
end

