-- ==== Sys2Proof/Laws/Memory.lean ====
section
/-!
SUPPORT. Memory: reads depend on nothing but the tiers, their poison, the interleave entries and the host windows; a write of a byte
changes that byte alone; and every operation that writes memory keeps its canonical form.
-/
namespace Sys2Proof.Machine

/-! ## What reads depend on -/

/-- Two states hold the same memory. -/
structure SameMemory (s t : State) : Prop where
  fast : t.fast = s.fast
  cap : t.cap = s.cap
  poisonFast : t.poisonFast = s.poisonFast
  poisonCap : t.poisonCap = s.poisonCap
  interleave : t.interleave = s.interleave
  tick : t.tick = s.tick
  hostWindows : t.hostWindows = s.hostWindows
  hostDown : t.hostDown = s.hostDown

theorem SameMemory.refl (s : State) : SameMemory s s := ⟨rfl, rfl, rfl, rfl, rfl, rfl, rfl, rfl⟩

theorem SameMemory.onStrand (s : State) (c k : Nat) (f : Strand → Strand) : SameMemory s (s.onStrand c k f) :=
  ⟨rfl, rfl, rfl, rfl, rfl, rfl, rfl, rfl⟩

theorem SameMemory.onCur (s : State) (f : Strand → Strand) : SameMemory s (s.onCur f) :=
  ⟨rfl, rfl, rfl, rfl, rfl, rfl, rfl, rfl⟩

theorem SameMemory.onCore (s : State) (c : Nat) (f : Core → Core) : SameMemory s (s.onCore c f) :=
  ⟨rfl, rfl, rfl, rfl, rfl, rfl, rfl, rfl⟩

theorem SameMemory.trans {s t u : State} (h : SameMemory s t) (g : SameMemory t u) : SameMemory s u :=
  ⟨g.fast.trans h.fast, g.cap.trans h.cap, g.poisonFast.trans h.poisonFast, g.poisonCap.trans h.poisonCap,
    g.interleave.trans h.interleave, g.tick.trans h.tick, g.hostWindows.trans h.hostWindows, g.hostDown.trans h.hostDown⟩

theorem SameMemory.place {s t : State} (h : SameMemory s t) (a : Nat) : t.place a = s.place a := by
  rw [State.place, h.interleave, State.place]

theorem SameMemory.tierByte {s t : State} (h : SameMemory s t) (T : Tier) (o : Nat) : t.tierByte T o = s.tierByte T o := by
  cases T
  · rw [State.tierByte, h.fast, State.tierByte]
  · rw [State.tierByte, h.cap, State.tierByte]

theorem SameMemory.tierPoison {s t : State} (h : SameMemory s t) (T : Tier) (o : Nat) : t.tierPoison T o = s.tierPoison T o := by
  cases T
  · rw [State.tierPoison, h.poisonFast, State.tierPoison]
  · rw [State.tierPoison, h.poisonCap, State.tierPoison]

theorem SameMemory.hostDead {s t : State} (h : SameMemory s t) (w p : Nat) : t.hostDead w p = s.hostDead w p := by
  rw [State.hostDead, h.hostWindows, h.hostDown, h.tick, State.hostDead]

theorem SameMemory.byteAt {s t : State} (h : SameMemory s t) (p : Phys) : t.byteAt p = s.byteAt p := by
  cases p with
  | dev a =>
    rw [State.byteAt, h.place, State.byteAt]
    split
    · rw [h.tierByte]
    · rfl
  | host w g o => rw [State.byteAt, h.tick, State.byteAt]

theorem SameMemory.poisonAt {s t : State} (h : SameMemory s t) (p : Phys) : t.poisonAt p = s.poisonAt p := by
  cases p with
  | dev a =>
    rw [State.poisonAt, h.place, State.poisonAt]
    split
    · rw [h.tierPoison]
    · rfl
  | host w g o => rw [State.poisonAt, h.hostDead, State.poisonAt]

theorem SameMemory.bytesAt {s t : State} (h : SameMemory s t) (n : Nat) : ∀ p, t.bytesAt p n = s.bytesAt p n := by
  induction n with
  | zero => intro p; rfl
  | succ n ih => intro p; rw [State.bytesAt, h.poisonAt, h.byteAt, ih, State.bytesAt]

theorem SameMemory.numAt {s t : State} (h : SameMemory s t) (p : Phys) (n : Nat) : t.numAt p n = s.numAt p n := by
  rw [State.numAt, h.bytesAt, State.numAt]

theorem SameMemory.lineNow {s t : State} (h : SameMemory s t) (a : Nat) : t.lineNow a = s.lineNow a := by
  rw [State.lineNow, h.numAt, State.lineNow]

theorem SameMemory.translated (s : State) (c k : Nat) (va : Word) (a : Access) : SameMemory s (s.translate c k va a).2 := by
  obtain ⟨m, h | ⟨l, h⟩⟩ := State.translate_frame s c k va a <;> rw [h] <;> exact ⟨rfl, rfl, rfl, rfl, rfl, rfl, rfl, rfl⟩

/-! ## Bytes of the tiers -/

theorem State.tierByte_setTierByte (s : State) (T T' : Tier) (o o' : Nat) (b : Byte) :
    (s.setTierByte T o b).tierByte T' o' = if T = T' ∧ o = o' then b else s.tierByte T' o' := by
  cases T <;> cases T' <;> simp [State.setTierByte, State.tierByte, SMap.get_set]

theorem State.tierPoison_setTierByte (s : State) (T T' : Tier) (o o' : Nat) (b : Byte) :
    (s.setTierByte T o b).tierPoison T' o' = s.tierPoison T' o' := by
  cases T <;> cases T' <;> rfl

/-- The placement of an address carries over to the rest of its page (R152). -/
theorem placeIn_page (e : Word × Word) (a b : Nat) (hb : b / 4096 = a / 4096) {T : Tier} {o : Nat} (h : placeIn e a = some (T, o)) :
    a % 4096 ≤ o ∧ placeIn e b = some (T, o - a % 4096 + b % 4096) := by
  unfold placeIn at h ⊢
  simp only at h ⊢
  split at h
  · rename_i hc
    have hp : (b - bits e.1 10 0 * 2 ^ 30) / 4096 = (a - bits e.1 10 0 * 2 ^ 30) / 4096 := by
      simp only [Bool.and_eq_true, decide_eq_true_eq] at hc
      omega
    have hc' : (bit e.1 63 && decide (bits e.1 10 0 * 2 ^ 30 ≤ b) &&
        decide (b < bits e.1 10 0 * 2 ^ 30 + bits e.1 21 11 * 2 ^ 30)) = true := by
      simp only [Bool.and_eq_true, decide_eq_true_eq] at hc ⊢
      refine ⟨⟨hc.1.1, by omega⟩, by omega⟩
    rw [if_pos hc', hp]
    split at h <;> rename_i h0
    · rw [if_pos h0]
      cases h
      exact ⟨by omega, by congr 2; omega⟩
    · rw [if_neg h0]
      cases h
      refine ⟨Nat.le_add_left _ _, ?_⟩
      rw [Nat.add_sub_cancel]
  · cases h

theorem placeIn_none_page (e : Word × Word) (a b : Nat) (hb : b / 4096 = a / 4096) (h : placeIn e a = none) : placeIn e b = none := by
  cases hb' : placeIn e b with
  | none => rfl
  | some r =>
    obtain ⟨T, o⟩ := r
    rw [(placeIn_page e b a hb.symm hb').2] at h
    cases h

theorem placeAmong_page (a b : Nat) (hb : b / 4096 = a / 4096) (es : List (Nat × (Word × Word))) {T : Tier} {o : Nat}
    (h : placeAmong a es = some (T, o)) : a % 4096 ≤ o ∧ placeAmong b es = some (T, o - a % 4096 + b % 4096) := by
  induction es with
  | nil => cases h
  | cons e es ih =>
    obtain ⟨n, e⟩ := e
    unfold placeAmong at h ⊢
    cases he : placeIn e a with
    | none =>
      rw [he] at h
      rw [placeIn_none_page e a b hb he]
      exact ih h
    | some r =>
      rw [he] at h
      cases h
      have := placeIn_page e a b hb he
      rw [this.2]
      exact ⟨this.1, rfl⟩

theorem State.place_page (s : State) {a b : Nat} (hb : b / 4096 = a / 4096) {T : Tier} {o : Nat} (h : s.place a = some (T, o)) :
    s.place b = some (T, o - a % 4096 + b % 4096) := (placeAmong_page a b hb s.interleave h).2

theorem State.place_add (s : State) (a j : Nat) (hj : a % 4096 + j < 4096) {T : Tier} {o : Nat} (h : s.place a = some (T, o)) :
    s.place (a + j) = some (T, o + j) := by
  have h1 := placeAmong_page a (a + j) (by omega) s.interleave h
  rw [State.place, h1.2]
  congr 2
  have := h1.1
  omega

/-- A placement keeps the byte's place in its page. -/
theorem placeAmong_mod (a : Nat) (es : List (Nat × (Word × Word))) {T : Tier} {o : Nat} (h : placeAmong a es = some (T, o)) :
    o % 4096 = a % 4096 := by
  induction es with
  | nil => cases h
  | cons e es ih =>
    obtain ⟨n, e⟩ := e
    unfold placeAmong at h
    cases he : placeIn e a with
    | none => rw [he] at h; exact ih h
    | some r =>
      rw [he] at h
      cases h
      unfold placeIn at he
      simp only at he
      split at he
      · split at he <;> (cases he; omega)
      · cases he

theorem State.place_mod (s : State) (a : Nat) {T : Tier} {o : Nat} (h : s.place a = some (T, o)) : o % 4096 = a % 4096 :=
  placeAmong_mod a s.interleave h

/-! ## One transaction inside a line -/

theorem eraseDups_const {α : Type} [BEq α] [LawfulBEq α] (a : α) : ∀ l : List α, l ≠ [] → (∀ x ∈ l, x = a) → l.eraseDups = [a] := by
  intro l hl h
  cases l with
  | nil => exact absurd rfl hl
  | cons x l =>
    have hx : x = a := h x (List.mem_cons_self ..)
    subst hx
    rw [List.eraseDups_cons]
    have : l.filter (fun b => !b == x) = [] := by
      rw [List.filter_eq_nil_iff]
      intro b hb
      rw [h b (List.mem_cons_of_mem _ hb)]
      simp
    rw [this]
    rfl

/-- Bytes written one after another at tier address `o`. -/
def State.putBytes (s : State) (T : Tier) (o : Nat) : List Byte → State
  | [] => s
  | b :: bs => (s.setTierByte T o b).putBytes T (o + 1) bs

theorem State.putBytes_frame (s : State) (T : Tier) (o : Nat) (bs : List Byte) :
    s.putBytes T o bs = { s with fast := (s.putBytes T o bs).fast, cap := (s.putBytes T o bs).cap } := by
  induction bs generalizing s o with
  | nil => rfl
  | cons b bs ih =>
    rw [State.putBytes, ih]
    cases T <;> rfl

theorem State.tierByte_putBytes (s : State) (T T' : Tier) (o o' : Nat) (bs : List Byte) :
    (s.putBytes T o bs).tierByte T' o' =
      if T' = T ∧ o ≤ o' ∧ o' < o + bs.length then bs.getD (o' - o) 0 else s.tierByte T' o' := by
  induction bs generalizing s o with
  | nil =>
    have : ¬ (T' = T ∧ o ≤ o' ∧ o' < o + ([] : List Byte).length) := by
      simp only [List.length_nil]
      omega
    rw [if_neg this]
    rfl
  | cons b bs ih =>
    rw [State.putBytes, ih, State.tierByte_setTierByte]
    by_cases hT : T' = T
    · subst hT
      by_cases h1 : o' = o
      · subst h1
        have : ¬ (o' + 1 ≤ o') := by omega
        simp [this]
      · by_cases h2 : o + 1 ≤ o' ∧ o' < o + 1 + bs.length
        · have h3 : o ≤ o' ∧ o' < o + (b :: bs).length := by simp; omega
          have h4 : o' - o = (o' - (o + 1)) + 1 := by omega
          rw [if_pos ⟨rfl, h2⟩, if_pos ⟨rfl, h3⟩, h4]
          rfl
        · have h3 : ¬ (o ≤ o' ∧ o' < o + (b :: bs).length) := by simp; omega
          have h4 : ¬ o = o' := fun h => h1 h.symm
          simp only [true_and, h2, h3, h4, if_false]
    · have : ¬ T = T' := fun h => hT h.symm
      simp [hT, this]

theorem State.tierPoison_putBytes (s : State) (T T' : Tier) (o o' : Nat) (bs : List Byte) :
    (s.putBytes T o bs).tierPoison T' o' = s.tierPoison T' o' := by
  rw [State.putBytes_frame]
  cases T' <;> rfl

theorem fold_writePiece (ps : Pieces) (s : State) (T : Tier) (o a : Nat) (bs : List Byte) (hl : a % 64 + bs.length ≤ 64)
    (hp : s.place a = some (T, o)) (hq : s.tierPoison T o = false) :
    (piecesOf (.dev a) bs).foldl (State.writePiece ps) s = s.putBytes T o bs := by
  induction bs generalizing s a o with
  | nil => rfl
  | cons b bs ih =>
    have hw : State.writePiece ps s (.dev a, b) = s.setTierByte T o b := by
      simp [State.writePiece, hp, hq]
    rw [piecesOf, List.foldl_cons, hw, State.putBytes]
    cases bs with
    | nil => rfl
    | cons b' bs =>
      simp only [List.length_cons] at hl
      have hm := State.place_mod s a hp
      refine ih (s.setTierByte T o b) (o + 1) (a + 1) (by simp only [List.length_cons]; omega) ?_ ?_
      · have := State.place_add s a 1 (by omega) hp
        rw [← this]
        cases T <;> rfl
      · rw [State.tierPoison_setTierByte, ← hq]
        have : (o + 1) / 64 = o / 64 := by omega
        cases T <;> simp [State.tierPoison, this]

theorem mem_piecesOf {e : Phys × Byte} {a : Nat} {bs : List Byte} (h : e ∈ piecesOf (.dev a) bs) :
    ∃ j, j < bs.length ∧ e.1 = .dev (a + j) := by
  induction bs generalizing a with
  | nil => cases h
  | cons b bs ih =>
    rw [piecesOf, List.mem_cons] at h
    rcases h with h | h
    · exact ⟨0, by simp, by rw [h]; rfl⟩
    · obtain ⟨j, hj, he⟩ := ih h
      refine ⟨j + 1, by simp; omega, ?_⟩
      rw [he]
      congr 1
      omega

theorem linesOf_piecesOf (a : Nat) (bs : List Byte) (hne : bs ≠ []) (hl : a % 64 + bs.length ≤ 64) :
    linesOf (piecesOf (.dev a) bs) = [.dev (a / 64 * 64)] := by
  unfold linesOf
  refine eraseDups_const _ _ ?_ ?_
  · cases bs with
    | nil => exact absurd rfl hne
    | cons b bs => simp [piecesOf]
  · intro x hx
    rw [List.mem_map] at hx
    obtain ⟨e, he, rfl⟩ := hx
    obtain ⟨j, hj, hj'⟩ := mem_piecesOf he
    rw [hj', Phys.line]
    congr 1
    omega

/-- What one write of a strand inside a line that is not poisoned does (R185, R197): the bytes stand at their tier addresses, the other
strands and stopped jobs lose a reservation of the line, the core's scalar data cache takes the bytes, and the strand's engine operations
see the write in either order (R184). -/
theorem State.store_line (s : State) (c k a : Nat) (bs : List Byte) (T : Tier) (o : Nat) (hne : bs ≠ [])
    (hl : a % 64 + bs.length ≤ 64) (hp : s.place a = some (T, o)) (hq : s.tierPoison T o = false) :
    s.store (.strand c k) (piecesOf (.dev a) bs) =
      (((s.putBytes T o bs).loseLines (.strand c k) [.dev (a / 64 * 64)]).onCore c fun r =>
        { r with dcache := (piecesOf (.dev a) bs).foldl updateCache r.dcache }).onStrand c k fun t =>
          { t with stores := s.unordered (fun _ _ => 0xFF) (piecesOf (.dev a) bs) ++ t.stores } := by
  have hm := State.place_mod s a hp
  have h1 := fold_writePiece (piecesOf (.dev a) bs) s T o a bs hl hp hq
  have h2 := linesOf_piecesOf a bs hne hl
  have hline : (s.putBytes T o bs).place (a / 64 * 64) = some (T, o / 64 * 64) := by
    have e : (s.putBytes T o bs).place (a / 64 * 64) = s.place (a / 64 * 64) := by rw [State.putBytes_frame]; rfl
    have hle := (placeAmong_page a a rfl s.interleave hp).1
    rw [e, State.place_page s (by omega : a / 64 * 64 / 4096 = a / 4096) hp]
    congr 2
    omega
  have h3 : State.settleLine (Writer.die (.strand c k)) (piecesOf (.dev a) bs) (s.putBytes T o bs) (.dev (a / 64 * 64)) =
      s.putBytes T o bs := by
    unfold State.settleLine
    have : (s.putBytes T o bs).poisonAt (.dev (a / 64 * 64)) = false := by
      simp only [State.poisonAt, hline]
      rw [State.tierPoison_putBytes, ← hq]
      have : o / 64 * 64 / 64 = o / 64 := by omega
      cases T <;> simp only [State.tierPoison, this]
    rw [if_neg (by simp [this])]
  unfold State.store State.storeWith
  simp only [List.append_nil, h1, h2, List.foldl_cons, List.foldl_nil, h3]
  rfl

end Sys2Proof.Machine
end

