-- ==== Sys2Proof/Laws/Canonical.lean ====
section
/-!
SUPPORT. The canonical form of memory: the state after reset has it, and every operation that writes a byte of either tier keeps it. All
other operations leave both tiers as they are.
-/
namespace Sys2Proof.Machine

/-- Memory in canonical form in `s` is so in `t`. -/
def KeepsForm (s t : State) : Prop := Memory.wf s = true → Memory.wf t = true

theorem KeepsForm.refl (s : State) : KeepsForm s s := id

theorem KeepsForm.trans {s t u : State} (h : KeepsForm s t) (g : KeepsForm t u) : KeepsForm s u := fun w => g (h w)

/-- What leaves both tiers as they are keeps the form. -/
theorem KeepsForm.of_same {s t : State} (hf : t.fast = s.fast) (hc : t.cap = s.cap) : KeepsForm s t := by
  intro h
  unfold Memory.wf at *
  rwa [hf, hc]

theorem KeepsForm.foldl {α : Type} {f : State → α → State} (hf : ∀ s a, KeepsForm s (f s a)) (l : List α) (s : State) :
    KeepsForm s (l.foldl f s) := by
  induction l generalizing s with
  | nil => exact .refl s
  | cons a l ih => exact (hf s a).trans (ih _)

theorem Memory.wf_reset : Memory.wf State.reset = true := rfl

theorem State.setTierByte_form (s : State) (T : Tier) (o : Nat) (b : Byte) : KeepsForm s (s.setTierByte T o b) := by
  intro h
  unfold Memory.wf at *
  simp only [Bool.and_eq_true] at *
  cases T
  · exact ⟨SMap.wf_set _ h.1 o b, h.2⟩
  · exact ⟨h.1, SMap.wf_set _ h.2 o b⟩

theorem State.setTierPoison_form (s : State) (T : Tier) (o : Nat) (p : Bool) : KeepsForm s (s.setTierPoison T o p) := by
  cases T <;> exact .of_same rfl rfl

theorem State.touch_form (s : State) (p : Phys) : KeepsForm s (s.touch p) := by
  unfold State.touch State.reclaim
  repeat' split
  all_goals exact .of_same rfl rfl

theorem State.writePiece_form (ps : Pieces) (s : State) (e : Phys × Byte) : KeepsForm s (s.writePiece ps e) := by
  unfold State.writePiece
  split
  · split
    · exact s.touch_form _
    · split
      · exact .refl s
      · exact s.setTierByte_form _ _ _
  · split
    · exact .refl s
    · exact .of_same rfl rfl

theorem State.settleLine_form (d : Nat) (ps : Pieces) (s : State) (l : Phys) : KeepsForm s (s.settleLine d ps l) := by
  unfold State.settleLine
  repeat' split
  all_goals first
    | exact .refl s
    | exact s.setTierPoison_form _ _ _
    | exact .of_same rfl rfl

/-- A write transaction keeps the form. -/
theorem State.storeWith_form (s : State) (wr : Writer) (ps half : Pieces) : KeepsForm s (s.storeWith wr ps half) := by
  have h1 := KeepsForm.foldl (State.writePiece_form ps) (ps ++ half) s
  have h2 := KeepsForm.foldl (State.settleLine_form wr.die ps) (linesOf (ps ++ half)) ((ps ++ half).foldl (State.writePiece ps) s)
  have h3 := h1.trans h2
  unfold State.storeWith
  cases wr <;> exact h3.trans (.of_same rfl rfl)

theorem State.store_form (s : State) (wr : Writer) (ps : Pieces) : KeepsForm s (s.store wr ps) := s.storeWith_form wr ps []

theorem State.writeFast_form (s : State) (o : Nat) (l : List Byte) : KeepsForm s (s.writeFast o l) := by
  induction l generalizing s o with
  | nil => exact .refl s
  | cons b bs ih => exact (s.setTierByte_form _ _ _).trans (ih _ _)

theorem State.writeLine_form (s : State) (o : Nat) (bs : List Byte) : KeepsForm s (s.writeLine o bs) := by
  have h : KeepsForm s ((s.reclaim (chanOf (o / 1024))).loseAt o 64) :=
    .of_same (by rw [State.loseAt_frame, State.reclaim_frame]) (by rw [State.loseAt_frame, State.reclaim_frame])
  exact (h.trans (State.writeFast_form _ _ _)).trans (State.setTierPoison_form _ _ _ _)

/-- A fault record keeps the form. -/
theorem State.writeRecord_form (s : State) (c : Nat) (r : Record) : KeepsForm s (s.writeRecord c r).2 := by
  unfold State.writeRecord
  exact ((s.writeLine_form _ _).trans (KeepsForm.foldl (fun t i => t.writeLine_form _ _) _ _)).trans (.of_same rfl rfl)

theorem State.afterRing_form (s : State) (c k : Nat) : KeepsForm s (s.afterRing c k) := by
  unfold State.afterRing
  split <;> exact .of_same rfl rfl

theorem State.doubleFault_form (s : State) (c k : Nat) (f : HeldFault) : KeepsForm s (s.doubleFault c k f) :=
  KeepsForm.trans (State.writeRecord_form s c _)
    (.of_same ((State.onCore_fast _ _ _).trans (State.onStrand_fast _ _ _ _)) ((State.onCore_cap _ _ _).trans (State.onStrand_cap _ _ _ _)))

/-- Taking a fault keeps the form. -/
theorem State.takeFault_form (s : State) (c k : Nat) (f : HeldFault) : KeepsForm s (s.takeFault c k f) := by
  cases h : (s.strand c k).tw
  · cases hr : hasRecord f.exc
    · rw [State.takeFault_plain s c k f h hr]
      exact .of_same rfl rfl
    · rw [State.takeFault_record s c k f h hr]
      split
      · exact ((s.afterRing_form c k).trans (State.writeRecord_form _ _ _)).trans (.of_same rfl rfl)
      · exact .of_same rfl rfl
  · rw [State.takeFault_window s c k f h]
    split
    · exact (s.afterRing_form c k).trans (State.doubleFault_form _ _ _ _)
    · exact .of_same rfl rfl

/-- Taking an exception keeps the form. -/
theorem State.takeTrap_form (s : State) (c k : Nat) (pc : Word) (e : Exc) : KeepsForm s (s.takeTrap c k pc e) := by
  rw [State.takeTrap_eq]
  refine KeepsForm.trans ?_ (State.takeFault_form _ c k _)
  split
  · exact .of_same rfl rfl
  · exact .refl s

theorem SMap.wf_foldl_set (l : List (Nat × Byte)) (m : SMap Byte) (h : SMap.wf memoryDefault m = true) :
    SMap.wf memoryDefault (l.foldl (fun m e => SMap.set memoryDefault m e.1 e.2) m) = true := by
  induction l generalizing m with
  | nil => exact h
  | cons e l ih => exact ih _ (SMap.wf_set _ h _ _)

/-- A checkpoint restore, which writes both tiers anew, leaves them in canonical form. -/
theorem execCheckpointRestore_form (fast cap : List (Nat × Byte)) (poisonFast poisonCap : List (Nat × Bool)) (keys : List Byte) (s t : State)
    (h : execCheckpointRestore fast cap poisonFast poisonCap keys s = .next t) : KeepsForm s t := by
  unfold execCheckpointRestore at h
  cases h
  split
  · exact .refl s
  · split
    · exact .refl s
    · split
      · exact .refl s
      · intro _
        unfold Memory.wf
        simp only [Bool.and_eq_true]
        exact ⟨SMap.wf_foldl_set _ _ rfl, SMap.wf_foldl_set _ _ rfl⟩

end Sys2Proof.Machine
end

