-- ==== Sys2Proof/Laws/Encoding.lean ====
section
/-!
SUPPORT. What the decoder reads from a word that an encoder built: each field stands where its format puts it, so that the
decoder of the whole word is the decoder of the format applied to the fields.
-/
namespace Sys2Proof.Laws

/-- Concatenation as arithmetic. -/
theorem append_toNat {n m : Nat} (x : BitVec n) (y : BitVec m) : (x ++ y).toNat = x.toNat * 2 ^ m + y.toNat := by
  rw [BitVec.toNat_append, ← Nat.shiftLeft_add_eq_or_of_lt y.isLt, Nat.shiftLeft_eq]

/-- A field as arithmetic. -/
theorem field_toNat {n : Nat} (x : BitVec n) (lo len : Nat) :
    (x.extractLsb' lo len).toNat = x.toNat / 2 ^ lo % 2 ^ len := by
  rw [BitVec.extractLsb'_toNat, Nat.shiftRight_eq_div_pow]

theorem encodeVV_d (opn : BitVec 8) (d a b : BitVec 6) :
    (encodeVV opn d a b).extractLsb' 7 6 = d := by
  apply BitVec.eq_of_toNat_eq
  unfold encodeVV
  rw [field_toNat]
  split <;> simp only [append_toNat, field_toNat, BitVec.toNat_ofNat, Nat.reducePow, Nat.div_one] <;> omega

theorem encodeVV_a (opn : BitVec 8) (d a b : BitVec 6) :
    (encodeVV opn d a b).extractLsb' 13 6 = a := by
  apply BitVec.eq_of_toNat_eq
  unfold encodeVV
  rw [field_toNat]
  split <;> simp only [append_toNat, field_toNat, BitVec.toNat_ofNat, Nat.reducePow, Nat.div_one] <;> omega

theorem encodeVV_b (opn : BitVec 8) (d a b : BitVec 6) :
    (encodeVV opn d a b).extractLsb' 19 6 = b := by
  apply BitVec.eq_of_toNat_eq
  unfold encodeVV
  rw [field_toNat]
  split <;> simp only [append_toNat, field_toNat, BitVec.toNat_ofNat, Nat.reducePow, Nat.div_one] <;> omega

/-- The decoder of a word of format VV is the table of OPN (R302). -/
theorem decode_encodeVV (opn : BitVec 8) (d a b : BitVec 6) :
    decode? (encodeVV opn d a b) = decodeVV opn.toNat d a b := by
  have hop : ((encodeVV opn d a b).extractLsb' 0 7).toNat = if opn.getLsbD 7 then 0x2B else 0x0B := by
    unfold encodeVV
    rw [field_toNat]
    split <;> simp only [append_toNat, field_toNat, BitVec.toNat_ofNat, Nat.reducePow, Nat.div_one] <;> omega
  have hf : ((encodeVV opn d a b).extractLsb' 25 7).toNat = opn.toNat % 128 := by
    unfold encodeVV
    rw [field_toNat]
    split <;> simp only [append_toNat, field_toNat, BitVec.toNat_ofNat, Nat.reducePow, Nat.div_one] <;> omega
  have hb : opn.getLsbD 7 = decide (128 ≤ opn.toNat) := by
    have := opn.isLt
    rw [BitVec.getLsbD, Nat.testBit, Nat.shiftRight_eq_div_pow]
    by_cases h : 128 ≤ opn.toNat
    · have e : opn.toNat / 2 ^ 7 = 1 := by omega
      rw [e]
      simp [h]
    · have e : opn.toNat / 2 ^ 7 = 0 := by omega
      rw [e]
      simp [h]
  have hl := opn.isLt
  unfold decode?
  rw [hop, hb, hf, encodeVV_d, encodeVV_a, encodeVV_b]
  by_cases h : 128 ≤ opn.toNat
  · have e : opn.toNat % 128 + 128 = opn.toNat := by omega
    simp [h, e]
  · have e : opn.toNat % 128 = opn.toNat := by omega
    simp [h, e]

theorem encodeXR_op (f7 : BitVec 7) (rd rs1 rs2 : BitVec 5) :
    (encodeXR f7 rd rs1 rs2).extractLsb' 0 7 = 0x7B#7 := by
  apply BitVec.eq_of_toNat_eq
  unfold encodeXR
  rw [field_toNat]
  simp only [append_toNat, field_toNat, BitVec.toNat_ofNat, Nat.reducePow, Nat.div_one]
  omega

theorem encodeXR_rd (f7 : BitVec 7) (rd rs1 rs2 : BitVec 5) :
    (encodeXR f7 rd rs1 rs2).extractLsb' 7 5 = rd := by
  apply BitVec.eq_of_toNat_eq
  unfold encodeXR
  rw [field_toNat]
  simp only [append_toNat, field_toNat, BitVec.toNat_ofNat, Nat.reducePow, Nat.div_one]
  omega

theorem encodeXR_f3 (f7 : BitVec 7) (rd rs1 rs2 : BitVec 5) :
    (encodeXR f7 rd rs1 rs2).extractLsb' 12 3 = 0#3 := by
  apply BitVec.eq_of_toNat_eq
  unfold encodeXR
  rw [field_toNat]
  simp only [append_toNat, field_toNat, BitVec.toNat_ofNat, Nat.reducePow, Nat.div_one]
  omega

theorem encodeXR_rs1 (f7 : BitVec 7) (rd rs1 rs2 : BitVec 5) :
    (encodeXR f7 rd rs1 rs2).extractLsb' 15 5 = rs1 := by
  apply BitVec.eq_of_toNat_eq
  unfold encodeXR
  rw [field_toNat]
  simp only [append_toNat, field_toNat, BitVec.toNat_ofNat, Nat.reducePow, Nat.div_one]
  omega

theorem encodeXR_rs2 (f7 : BitVec 7) (rd rs1 rs2 : BitVec 5) :
    (encodeXR f7 rd rs1 rs2).extractLsb' 20 5 = rs2 := by
  apply BitVec.eq_of_toNat_eq
  unfold encodeXR
  rw [field_toNat]
  simp only [append_toNat, field_toNat, BitVec.toNat_ofNat, Nat.reducePow, Nat.div_one]
  omega

theorem encodeXR_f7 (f7 : BitVec 7) (rd rs1 rs2 : BitVec 5) :
    (encodeXR f7 rd rs1 rs2).extractLsb' 25 7 = f7 := by
  apply BitVec.eq_of_toNat_eq
  unfold encodeXR
  rw [field_toNat]
  simp only [append_toNat, field_toNat, BitVec.toNat_ofNat, Nat.reducePow, Nat.div_one]
  omega

/-- The decoder of a word of format XR is the table of f7 (R303). -/
theorem decode_encodeXR (f7 : BitVec 7) (rd rs1 rs2 : BitVec 5) :
    decode? (encodeXR f7 rd rs1 rs2) = decodeXR f7.toNat rd rs1 rs2 := by
  unfold decode?
  rw [encodeXR_op, encodeXR_rd, encodeXR_f3, encodeXR_rs1, encodeXR_rs2, encodeXR_f7]
  simp

theorem encodeR_op (op f7 : BitVec 7) (f3 : BitVec 3) (rd rs1 rs2 : BitVec 5) :
    (encodeR op f7 f3 rd rs1 rs2).extractLsb' 0 7 = op := by
  apply BitVec.eq_of_toNat_eq
  unfold encodeR
  rw [field_toNat]
  simp only [append_toNat, field_toNat, BitVec.toNat_ofNat, Nat.reducePow, Nat.div_one]
  omega

theorem encodeR_rd (op f7 : BitVec 7) (f3 : BitVec 3) (rd rs1 rs2 : BitVec 5) :
    (encodeR op f7 f3 rd rs1 rs2).extractLsb' 7 5 = rd := by
  apply BitVec.eq_of_toNat_eq
  unfold encodeR
  rw [field_toNat]
  simp only [append_toNat, field_toNat, BitVec.toNat_ofNat, Nat.reducePow, Nat.div_one]
  omega

theorem encodeR_f3 (op f7 : BitVec 7) (f3 : BitVec 3) (rd rs1 rs2 : BitVec 5) :
    (encodeR op f7 f3 rd rs1 rs2).extractLsb' 12 3 = f3 := by
  apply BitVec.eq_of_toNat_eq
  unfold encodeR
  rw [field_toNat]
  simp only [append_toNat, field_toNat, BitVec.toNat_ofNat, Nat.reducePow, Nat.div_one]
  omega

theorem encodeR_rs1 (op f7 : BitVec 7) (f3 : BitVec 3) (rd rs1 rs2 : BitVec 5) :
    (encodeR op f7 f3 rd rs1 rs2).extractLsb' 15 5 = rs1 := by
  apply BitVec.eq_of_toNat_eq
  unfold encodeR
  rw [field_toNat]
  simp only [append_toNat, field_toNat, BitVec.toNat_ofNat, Nat.reducePow, Nat.div_one]
  omega

theorem encodeR_rs2 (op f7 : BitVec 7) (f3 : BitVec 3) (rd rs1 rs2 : BitVec 5) :
    (encodeR op f7 f3 rd rs1 rs2).extractLsb' 20 5 = rs2 := by
  apply BitVec.eq_of_toNat_eq
  unfold encodeR
  rw [field_toNat]
  simp only [append_toNat, field_toNat, BitVec.toNat_ofNat, Nat.reducePow, Nat.div_one]
  omega

theorem encodeR_f7 (op f7 : BitVec 7) (f3 : BitVec 3) (rd rs1 rs2 : BitVec 5) :
    (encodeR op f7 f3 rd rs1 rs2).extractLsb' 25 7 = f7 := by
  apply BitVec.eq_of_toNat_eq
  unfold encodeR
  rw [field_toNat]
  simp only [append_toNat, field_toNat, BitVec.toNat_ofNat, Nat.reducePow, Nat.div_one]
  omega

theorem encodeR_f5 (op f7 : BitVec 7) (f3 : BitVec 3) (rd rs1 rs2 : BitVec 5) :
    (encodeR op f7 f3 rd rs1 rs2).extractLsb' 27 5 = f7.extractLsb' 2 5 := by
  apply BitVec.eq_of_toNat_eq
  unfold encodeR
  rw [field_toNat]
  simp only [append_toNat, field_toNat, BitVec.toNat_ofNat, Nat.reducePow, Nat.div_one]
  omega

theorem encodeR_aq (op f7 : BitVec 7) (f3 : BitVec 3) (rd rs1 rs2 : BitVec 5) :
    (encodeR op f7 f3 rd rs1 rs2).extractLsb' 26 1 = f7.extractLsb' 1 1 := by
  apply BitVec.eq_of_toNat_eq
  unfold encodeR
  rw [field_toNat]
  simp only [append_toNat, field_toNat, BitVec.toNat_ofNat, Nat.reducePow, Nat.div_one]
  omega

theorem encodeR_rl (op f7 : BitVec 7) (f3 : BitVec 3) (rd rs1 rs2 : BitVec 5) :
    (encodeR op f7 f3 rd rs1 rs2).extractLsb' 25 1 = f7.extractLsb' 0 1 := by
  apply BitVec.eq_of_toNat_eq
  unfold encodeR
  rw [field_toNat]
  simp only [append_toNat, field_toNat, BitVec.toNat_ofNat, Nat.reducePow, Nat.div_one]
  omega

theorem encodeR_imm (op f7 : BitVec 7) (f3 : BitVec 3) (rd rs1 rs2 : BitVec 5) :
    (encodeR op f7 f3 rd rs1 rs2).extractLsb' 20 12 = f7 ++ rs2 := by
  apply BitVec.eq_of_toNat_eq
  unfold encodeR
  rw [field_toNat]
  simp only [append_toNat, field_toNat, BitVec.toNat_ofNat, Nat.reducePow, Nat.div_one]
  omega

theorem encodeI_op (op : BitVec 7) (f3 : BitVec 3) (rd rs1 : BitVec 5) (imm : BitVec 12) :
    (encodeI op f3 rd rs1 imm).extractLsb' 0 7 = op := by
  apply BitVec.eq_of_toNat_eq
  unfold encodeI
  rw [field_toNat]
  simp only [append_toNat, field_toNat, BitVec.toNat_ofNat, Nat.reducePow, Nat.div_one]
  omega

theorem encodeI_rd (op : BitVec 7) (f3 : BitVec 3) (rd rs1 : BitVec 5) (imm : BitVec 12) :
    (encodeI op f3 rd rs1 imm).extractLsb' 7 5 = rd := by
  apply BitVec.eq_of_toNat_eq
  unfold encodeI
  rw [field_toNat]
  simp only [append_toNat, field_toNat, BitVec.toNat_ofNat, Nat.reducePow, Nat.div_one]
  omega

theorem encodeI_f3 (op : BitVec 7) (f3 : BitVec 3) (rd rs1 : BitVec 5) (imm : BitVec 12) :
    (encodeI op f3 rd rs1 imm).extractLsb' 12 3 = f3 := by
  apply BitVec.eq_of_toNat_eq
  unfold encodeI
  rw [field_toNat]
  simp only [append_toNat, field_toNat, BitVec.toNat_ofNat, Nat.reducePow, Nat.div_one]
  omega

theorem encodeI_rs1 (op : BitVec 7) (f3 : BitVec 3) (rd rs1 : BitVec 5) (imm : BitVec 12) :
    (encodeI op f3 rd rs1 imm).extractLsb' 15 5 = rs1 := by
  apply BitVec.eq_of_toNat_eq
  unfold encodeI
  rw [field_toNat]
  simp only [append_toNat, field_toNat, BitVec.toNat_ofNat, Nat.reducePow, Nat.div_one]
  omega

theorem encodeI_imm (op : BitVec 7) (f3 : BitVec 3) (rd rs1 : BitVec 5) (imm : BitVec 12) :
    (encodeI op f3 rd rs1 imm).extractLsb' 20 12 = imm := by
  apply BitVec.eq_of_toNat_eq
  unfold encodeI
  rw [field_toNat]
  simp only [append_toNat, field_toNat, BitVec.toNat_ofNat, Nat.reducePow, Nat.div_one]
  omega

theorem encodeI_f7 (op : BitVec 7) (f3 : BitVec 3) (rd rs1 : BitVec 5) (imm : BitVec 12) :
    (encodeI op f3 rd rs1 imm).extractLsb' 25 7 = imm.extractLsb' 5 7 := by
  apply BitVec.eq_of_toNat_eq
  unfold encodeI
  rw [field_toNat]
  simp only [append_toNat, field_toNat, BitVec.toNat_ofNat, Nat.reducePow, Nat.div_one]
  omega

theorem encodeI_rs2 (op : BitVec 7) (f3 : BitVec 3) (rd rs1 : BitVec 5) (imm : BitVec 12) :
    (encodeI op f3 rd rs1 imm).extractLsb' 20 5 = imm.extractLsb' 0 5 := by
  apply BitVec.eq_of_toNat_eq
  unfold encodeI
  rw [field_toNat]
  simp only [append_toNat, field_toNat, BitVec.toNat_ofNat, Nat.reducePow, Nat.div_one]
  omega

theorem encodeS_op (op : BitVec 7) (f3 : BitVec 3) (rs1 rs2 : BitVec 5) (imm : BitVec 12) :
    (encodeS op f3 rs1 rs2 imm).extractLsb' 0 7 = op := by
  unfold encodeS
  generalize imm.extractLsb' 5 7 = hi
  generalize imm.extractLsb' 0 5 = lo
  apply BitVec.eq_of_toNat_eq
  rw [field_toNat]
  simp only [append_toNat, field_toNat, BitVec.toNat_ofNat, Nat.reducePow, Nat.div_one]
  omega

theorem encodeS_lo (op : BitVec 7) (f3 : BitVec 3) (rs1 rs2 : BitVec 5) (imm : BitVec 12) :
    (encodeS op f3 rs1 rs2 imm).extractLsb' 7 5 = imm.extractLsb' 0 5 := by
  unfold encodeS
  generalize imm.extractLsb' 5 7 = hi
  generalize imm.extractLsb' 0 5 = lo
  apply BitVec.eq_of_toNat_eq
  rw [field_toNat]
  simp only [append_toNat, field_toNat, BitVec.toNat_ofNat, Nat.reducePow, Nat.div_one]
  omega

theorem encodeS_f3 (op : BitVec 7) (f3 : BitVec 3) (rs1 rs2 : BitVec 5) (imm : BitVec 12) :
    (encodeS op f3 rs1 rs2 imm).extractLsb' 12 3 = f3 := by
  unfold encodeS
  generalize imm.extractLsb' 5 7 = hi
  generalize imm.extractLsb' 0 5 = lo
  apply BitVec.eq_of_toNat_eq
  rw [field_toNat]
  simp only [append_toNat, field_toNat, BitVec.toNat_ofNat, Nat.reducePow, Nat.div_one]
  omega

theorem encodeS_rs1 (op : BitVec 7) (f3 : BitVec 3) (rs1 rs2 : BitVec 5) (imm : BitVec 12) :
    (encodeS op f3 rs1 rs2 imm).extractLsb' 15 5 = rs1 := by
  unfold encodeS
  generalize imm.extractLsb' 5 7 = hi
  generalize imm.extractLsb' 0 5 = lo
  apply BitVec.eq_of_toNat_eq
  rw [field_toNat]
  simp only [append_toNat, field_toNat, BitVec.toNat_ofNat, Nat.reducePow, Nat.div_one]
  omega

theorem encodeS_rs2 (op : BitVec 7) (f3 : BitVec 3) (rs1 rs2 : BitVec 5) (imm : BitVec 12) :
    (encodeS op f3 rs1 rs2 imm).extractLsb' 20 5 = rs2 := by
  unfold encodeS
  generalize imm.extractLsb' 5 7 = hi
  generalize imm.extractLsb' 0 5 = lo
  apply BitVec.eq_of_toNat_eq
  rw [field_toNat]
  simp only [append_toNat, field_toNat, BitVec.toNat_ofNat, Nat.reducePow, Nat.div_one]
  omega

theorem encodeS_hi (op : BitVec 7) (f3 : BitVec 3) (rs1 rs2 : BitVec 5) (imm : BitVec 12) :
    (encodeS op f3 rs1 rs2 imm).extractLsb' 25 7 = imm.extractLsb' 5 7 := by
  unfold encodeS
  generalize imm.extractLsb' 5 7 = hi
  generalize imm.extractLsb' 0 5 = lo
  apply BitVec.eq_of_toNat_eq
  rw [field_toNat]
  simp only [append_toNat, field_toNat, BitVec.toNat_ofNat, Nat.reducePow, Nat.div_one]
  omega

theorem encodeB_op (op : BitVec 7) (f3 : BitVec 3) (rs1 rs2 : BitVec 5) (imm : BitVec 12) :
    (encodeB op f3 rs1 rs2 imm).extractLsb' 0 7 = op := by
  unfold encodeB
  generalize imm.extractLsb' 11 1 = b
  generalize imm.extractLsb' 10 1 = c
  generalize imm.extractLsb' 4 6 = e
  generalize imm.extractLsb' 0 4 = f
  apply BitVec.eq_of_toNat_eq
  rw [field_toNat]
  simp only [append_toNat, field_toNat, BitVec.toNat_ofNat, Nat.reducePow, Nat.div_one]
  omega

theorem encodeB_b31 (op : BitVec 7) (f3 : BitVec 3) (rs1 rs2 : BitVec 5) (imm : BitVec 12) :
    (encodeB op f3 rs1 rs2 imm).extractLsb' 31 1 = imm.extractLsb' 11 1 := by
  unfold encodeB
  generalize imm.extractLsb' 11 1 = b
  generalize imm.extractLsb' 10 1 = c
  generalize imm.extractLsb' 4 6 = e
  generalize imm.extractLsb' 0 4 = f
  apply BitVec.eq_of_toNat_eq
  rw [field_toNat]
  simp only [append_toNat, field_toNat, BitVec.toNat_ofNat, Nat.reducePow, Nat.div_one]
  omega

theorem encodeB_b7 (op : BitVec 7) (f3 : BitVec 3) (rs1 rs2 : BitVec 5) (imm : BitVec 12) :
    (encodeB op f3 rs1 rs2 imm).extractLsb' 7 1 = imm.extractLsb' 10 1 := by
  unfold encodeB
  generalize imm.extractLsb' 11 1 = b
  generalize imm.extractLsb' 10 1 = c
  generalize imm.extractLsb' 4 6 = e
  generalize imm.extractLsb' 0 4 = f
  apply BitVec.eq_of_toNat_eq
  rw [field_toNat]
  simp only [append_toNat, field_toNat, BitVec.toNat_ofNat, Nat.reducePow, Nat.div_one]
  omega

theorem encodeB_b25 (op : BitVec 7) (f3 : BitVec 3) (rs1 rs2 : BitVec 5) (imm : BitVec 12) :
    (encodeB op f3 rs1 rs2 imm).extractLsb' 25 6 = imm.extractLsb' 4 6 := by
  unfold encodeB
  generalize imm.extractLsb' 11 1 = b
  generalize imm.extractLsb' 10 1 = c
  generalize imm.extractLsb' 4 6 = e
  generalize imm.extractLsb' 0 4 = f
  apply BitVec.eq_of_toNat_eq
  rw [field_toNat]
  simp only [append_toNat, field_toNat, BitVec.toNat_ofNat, Nat.reducePow, Nat.div_one]
  omega

theorem encodeB_b8 (op : BitVec 7) (f3 : BitVec 3) (rs1 rs2 : BitVec 5) (imm : BitVec 12) :
    (encodeB op f3 rs1 rs2 imm).extractLsb' 8 4 = imm.extractLsb' 0 4 := by
  unfold encodeB
  generalize imm.extractLsb' 11 1 = b
  generalize imm.extractLsb' 10 1 = c
  generalize imm.extractLsb' 4 6 = e
  generalize imm.extractLsb' 0 4 = f
  apply BitVec.eq_of_toNat_eq
  rw [field_toNat]
  simp only [append_toNat, field_toNat, BitVec.toNat_ofNat, Nat.reducePow, Nat.div_one]
  omega

theorem encodeB_f3 (op : BitVec 7) (f3 : BitVec 3) (rs1 rs2 : BitVec 5) (imm : BitVec 12) :
    (encodeB op f3 rs1 rs2 imm).extractLsb' 12 3 = f3 := by
  unfold encodeB
  generalize imm.extractLsb' 11 1 = b
  generalize imm.extractLsb' 10 1 = c
  generalize imm.extractLsb' 4 6 = e
  generalize imm.extractLsb' 0 4 = f
  apply BitVec.eq_of_toNat_eq
  rw [field_toNat]
  simp only [append_toNat, field_toNat, BitVec.toNat_ofNat, Nat.reducePow, Nat.div_one]
  omega

theorem encodeB_rs1 (op : BitVec 7) (f3 : BitVec 3) (rs1 rs2 : BitVec 5) (imm : BitVec 12) :
    (encodeB op f3 rs1 rs2 imm).extractLsb' 15 5 = rs1 := by
  unfold encodeB
  generalize imm.extractLsb' 11 1 = b
  generalize imm.extractLsb' 10 1 = c
  generalize imm.extractLsb' 4 6 = e
  generalize imm.extractLsb' 0 4 = f
  apply BitVec.eq_of_toNat_eq
  rw [field_toNat]
  simp only [append_toNat, field_toNat, BitVec.toNat_ofNat, Nat.reducePow, Nat.div_one]
  omega

theorem encodeB_rs2 (op : BitVec 7) (f3 : BitVec 3) (rs1 rs2 : BitVec 5) (imm : BitVec 12) :
    (encodeB op f3 rs1 rs2 imm).extractLsb' 20 5 = rs2 := by
  unfold encodeB
  generalize imm.extractLsb' 11 1 = b
  generalize imm.extractLsb' 10 1 = c
  generalize imm.extractLsb' 4 6 = e
  generalize imm.extractLsb' 0 4 = f
  apply BitVec.eq_of_toNat_eq
  rw [field_toNat]
  simp only [append_toNat, field_toNat, BitVec.toNat_ofNat, Nat.reducePow, Nat.div_one]
  omega

theorem encodeU_op (op : BitVec 7) (rd : BitVec 5) (imm : BitVec 20) :
    (encodeU op rd imm).extractLsb' 0 7 = op := by
  apply BitVec.eq_of_toNat_eq
  unfold encodeU
  rw [field_toNat]
  simp only [append_toNat, field_toNat, BitVec.toNat_ofNat, Nat.reducePow, Nat.div_one]
  omega

theorem encodeU_rd (op : BitVec 7) (rd : BitVec 5) (imm : BitVec 20) :
    (encodeU op rd imm).extractLsb' 7 5 = rd := by
  apply BitVec.eq_of_toNat_eq
  unfold encodeU
  rw [field_toNat]
  simp only [append_toNat, field_toNat, BitVec.toNat_ofNat, Nat.reducePow, Nat.div_one]
  omega

theorem encodeU_imm (op : BitVec 7) (rd : BitVec 5) (imm : BitVec 20) :
    (encodeU op rd imm).extractLsb' 12 20 = imm := by
  apply BitVec.eq_of_toNat_eq
  unfold encodeU
  rw [field_toNat]
  simp only [append_toNat, field_toNat, BitVec.toNat_ofNat, Nat.reducePow, Nat.div_one]
  omega

theorem encodeJ_op (op : BitVec 7) (rd : BitVec 5) (imm : BitVec 20) :
    (encodeJ op rd imm).extractLsb' 0 7 = op := by
  unfold encodeJ
  generalize imm.extractLsb' 19 1 = b
  generalize imm.extractLsb' 11 8 = c
  generalize imm.extractLsb' 10 1 = e
  generalize imm.extractLsb' 0 10 = f
  apply BitVec.eq_of_toNat_eq
  rw [field_toNat]
  simp only [append_toNat, field_toNat, BitVec.toNat_ofNat, Nat.reducePow, Nat.div_one]
  omega

theorem encodeJ_rd (op : BitVec 7) (rd : BitVec 5) (imm : BitVec 20) :
    (encodeJ op rd imm).extractLsb' 7 5 = rd := by
  unfold encodeJ
  generalize imm.extractLsb' 19 1 = b
  generalize imm.extractLsb' 11 8 = c
  generalize imm.extractLsb' 10 1 = e
  generalize imm.extractLsb' 0 10 = f
  apply BitVec.eq_of_toNat_eq
  rw [field_toNat]
  simp only [append_toNat, field_toNat, BitVec.toNat_ofNat, Nat.reducePow, Nat.div_one]
  omega

theorem encodeJ_b31 (op : BitVec 7) (rd : BitVec 5) (imm : BitVec 20) :
    (encodeJ op rd imm).extractLsb' 31 1 = imm.extractLsb' 19 1 := by
  unfold encodeJ
  generalize imm.extractLsb' 19 1 = b
  generalize imm.extractLsb' 11 8 = c
  generalize imm.extractLsb' 10 1 = e
  generalize imm.extractLsb' 0 10 = f
  apply BitVec.eq_of_toNat_eq
  rw [field_toNat]
  simp only [append_toNat, field_toNat, BitVec.toNat_ofNat, Nat.reducePow, Nat.div_one]
  omega

theorem encodeJ_b12 (op : BitVec 7) (rd : BitVec 5) (imm : BitVec 20) :
    (encodeJ op rd imm).extractLsb' 12 8 = imm.extractLsb' 11 8 := by
  unfold encodeJ
  generalize imm.extractLsb' 19 1 = b
  generalize imm.extractLsb' 11 8 = c
  generalize imm.extractLsb' 10 1 = e
  generalize imm.extractLsb' 0 10 = f
  apply BitVec.eq_of_toNat_eq
  rw [field_toNat]
  simp only [append_toNat, field_toNat, BitVec.toNat_ofNat, Nat.reducePow, Nat.div_one]
  omega

theorem encodeJ_b20 (op : BitVec 7) (rd : BitVec 5) (imm : BitVec 20) :
    (encodeJ op rd imm).extractLsb' 20 1 = imm.extractLsb' 10 1 := by
  unfold encodeJ
  generalize imm.extractLsb' 19 1 = b
  generalize imm.extractLsb' 11 8 = c
  generalize imm.extractLsb' 10 1 = e
  generalize imm.extractLsb' 0 10 = f
  apply BitVec.eq_of_toNat_eq
  rw [field_toNat]
  simp only [append_toNat, field_toNat, BitVec.toNat_ofNat, Nat.reducePow, Nat.div_one]
  omega

theorem encodeJ_b21 (op : BitVec 7) (rd : BitVec 5) (imm : BitVec 20) :
    (encodeJ op rd imm).extractLsb' 21 10 = imm.extractLsb' 0 10 := by
  unfold encodeJ
  generalize imm.extractLsb' 19 1 = b
  generalize imm.extractLsb' 11 8 = c
  generalize imm.extractLsb' 10 1 = e
  generalize imm.extractLsb' 0 10 = f
  apply BitVec.eq_of_toNat_eq
  rw [field_toNat]
  simp only [append_toNat, field_toNat, BitVec.toNat_ofNat, Nat.reducePow, Nat.div_one]
  omega

/-- The two halves of a 12-bit immediate of format S. -/
theorem split_S (imm : BitVec 12) : imm.extractLsb' 5 7 ++ imm.extractLsb' 0 5 = imm := by
  apply BitVec.eq_of_toNat_eq
  have := imm.isLt
  simp only [append_toNat, field_toNat]
  omega

/-- The parts of an immediate of format B. -/
theorem split_B (imm : BitVec 12) :
    imm.extractLsb' 11 1 ++ imm.extractLsb' 10 1 ++ imm.extractLsb' 4 6 ++ imm.extractLsb' 0 4 = imm := by
  apply BitVec.eq_of_toNat_eq
  have := imm.isLt
  simp only [append_toNat, field_toNat]
  omega

/-- The parts of an immediate of format J. -/
theorem split_J (imm : BitVec 20) :
    imm.extractLsb' 19 1 ++ imm.extractLsb' 11 8 ++ imm.extractLsb' 10 1 ++ imm.extractLsb' 0 10 = imm := by
  apply BitVec.eq_of_toNat_eq
  have := imm.isLt
  simp only [append_toNat, field_toNat]
  omega

/-- A shift amount below its function field. -/
theorem shift6_hi (c sh : BitVec 6) : (c ++ sh).extractLsb' 6 6 = c := by
  apply BitVec.eq_of_toNat_eq
  rw [field_toNat, append_toNat]
  omega

theorem shift6_lo (c sh : BitVec 6) : (c ++ sh).extractLsb' 0 6 = sh := by
  apply BitVec.eq_of_toNat_eq
  rw [field_toNat, append_toNat]
  omega

theorem shift5_hi (c : BitVec 7) (sh : BitVec 5) : (c ++ sh).extractLsb' 5 7 = c := by
  apply BitVec.eq_of_toNat_eq
  rw [field_toNat, append_toNat]
  omega

theorem shift5_lo (c : BitVec 7) (sh : BitVec 5) : (c ++ sh).extractLsb' 0 5 = sh := by
  apply BitVec.eq_of_toNat_eq
  rw [field_toNat, append_toNat]
  omega

/-- The bits aq and rl below the function field of an AMO word. -/
theorem amo_f5 (c : BitVec 5) (aq rl : BitVec 1) : (c ++ aq ++ rl).extractLsb' 2 5 = c := by
  apply BitVec.eq_of_toNat_eq
  rw [field_toNat, append_toNat, append_toNat]
  omega

theorem amo_aq (c : BitVec 5) (aq rl : BitVec 1) : (c ++ aq ++ rl).extractLsb' 1 1 = aq := by
  apply BitVec.eq_of_toNat_eq
  rw [field_toNat, append_toNat, append_toNat]
  omega

theorem amo_rl (c : BitVec 5) (aq rl : BitVec 1) : (c ++ aq ++ rl).extractLsb' 0 1 = rl := by
  apply BitVec.eq_of_toNat_eq
  rw [field_toNat, append_toNat, append_toNat]
  omega

/-- The upper six bits above a five-bit shift amount are those of its function field. -/
theorem shift5_hi6 (c : BitVec 7) (sh : BitVec 5) : (c ++ sh).extractLsb' 6 6 = c.extractLsb' 1 6 := by
  apply BitVec.eq_of_toNat_eq
  rw [field_toNat, field_toNat, append_toNat]
  omega

/-- A word of a standard major opcode goes to the standard decoder (R301). -/
theorem decode_standard (w : BitVec 32) (h0 : (w.extractLsb' 0 7).toNat ≠ 0x0B) (h1 : (w.extractLsb' 0 7).toNat ≠ 0x2B)
    (h2 : (w.extractLsb' 0 7).toNat ≠ 0x7B) : decode? w = decodeStandard w := by
  unfold decode?
  split <;> simp_all

/-- A word of ADDI's opcode goes to its table (R315). -/
theorem decode_opImm (f3 : BitVec 3) (rd rs1 : BitVec 5) (imm : BitVec 12) :
    decode? (encodeI 0x13 f3 rd rs1 imm) = decodeOpImm f3.toNat rd rs1 imm := by
  unfold decode? decodeStandard
  simp only [encodeI_op, encodeI_rd, encodeI_f3, encodeI_rs1, encodeI_imm]
  rfl

/-- A word of ADDIW's opcode goes to its table (R315). -/
theorem decode_opImm32 (f3 : BitVec 3) (rd rs1 : BitVec 5) (imm : BitVec 12) :
    decode? (encodeI 0x1B f3 rd rs1 imm) = decodeOpImm32 f3.toNat rd rs1 imm := by
  unfold decode? decodeStandard
  simp only [encodeI_op, encodeI_rd, encodeI_f3, encodeI_rs1, encodeI_imm]
  rfl

/-- A word of the SYSTEM opcode goes to its table (R315). -/
theorem decode_system (f7 : BitVec 7) (f3 : BitVec 3) (rd rs1 rs2 : BitVec 5) :
    decode? (encodeR 0x73 f7 f3 rd rs1 rs2) =
      decodeSystem (encodeR 0x73 f7 f3 rd rs1 rs2) f3.toNat rd rs1 (f7 ++ rs2) := by
  unfold decode? decodeStandard
  simp only [encodeR_op, encodeR_rd, encodeR_f3, encodeR_rs1, encodeR_imm]
  rfl

end Sys2Proof.Laws
end

