-- ==== Sys2Proof/Laws/PerInstr.lean ====
section
/-!
SUPPORT. The statements that are made of every instruction, one lemma for each constructor.
-/
namespace Sys2Proof.Laws

/-- What the encoder gives for an instruction, the decoder reads back as that instruction; the row of the encodings that no
instruction has carries the word that it stands for (R301 to R303, R306, R307, R315). -/
def Encoding.Statement (i : Instr) : Prop :=
  ∀ w, encode? i = some w → decode? w = some i ∨ i = .reservedEncoding w

/-- From a word of the encoder that decodes to the instruction. -/
theorem Encoding.of_decode {i : Instr} {w : BitVec 32} (he : encode? i = some w) (hd : decode? w = some i) :
    Encoding.Statement i := by
  intro v hv
  rw [he] at hv
  cases hv
  exact Or.inl hd

/-- An event has no word. -/
theorem Encoding.of_event {i : Instr} (he : encode? i = none) : Encoding.Statement i := by
  intro v hv
  rw [he] at hv
  cases hv


theorem Encoding.vadd (d : BitVec 6) (a : BitVec 6) (b : BitVec 6) : Encoding.Statement (.vadd d a b) :=
  Encoding.of_decode rfl (decode_encodeVV 0x00 d a b)

theorem Encoding.vaddx (d : BitVec 6) (a : BitVec 6) (b : BitVec 6) : Encoding.Statement (.vaddx d a b) :=
  Encoding.of_decode rfl (decode_encodeVV 0x01 d a b)

theorem Encoding.vsub (d : BitVec 6) (a : BitVec 6) (b : BitVec 6) : Encoding.Statement (.vsub d a b) :=
  Encoding.of_decode rfl (decode_encodeVV 0x02 d a b)

theorem Encoding.vsubx (d : BitVec 6) (a : BitVec 6) (b : BitVec 6) : Encoding.Statement (.vsubx d a b) :=
  Encoding.of_decode rfl (decode_encodeVV 0x03 d a b)

theorem Encoding.vrsubx (d : BitVec 6) (a : BitVec 6) (b : BitVec 6) : Encoding.Statement (.vrsubx d a b) :=
  Encoding.of_decode rfl (decode_encodeVV 0x04 d a b)

theorem Encoding.vmul (d : BitVec 6) (a : BitVec 6) (b : BitVec 6) : Encoding.Statement (.vmul d a b) :=
  Encoding.of_decode rfl (decode_encodeVV 0x05 d a b)

theorem Encoding.vmulx (d : BitVec 6) (a : BitVec 6) (b : BitVec 6) : Encoding.Statement (.vmulx d a b) :=
  Encoding.of_decode rfl (decode_encodeVV 0x06 d a b)

theorem Encoding.vmulh (d : BitVec 6) (a : BitVec 6) (b : BitVec 6) : Encoding.Statement (.vmulh d a b) :=
  Encoding.of_decode rfl (decode_encodeVV 0x07 d a b)

theorem Encoding.vmulhu (d : BitVec 6) (a : BitVec 6) (b : BitVec 6) : Encoding.Statement (.vmulhu d a b) :=
  Encoding.of_decode rfl (decode_encodeVV 0x08 d a b)

theorem Encoding.vmulhx (d : BitVec 6) (a : BitVec 6) (b : BitVec 6) : Encoding.Statement (.vmulhx d a b) :=
  Encoding.of_decode rfl (decode_encodeVV 0x09 d a b)

theorem Encoding.vmac (d : BitVec 6) (a : BitVec 6) (b : BitVec 6) : Encoding.Statement (.vmac d a b) :=
  Encoding.of_decode rfl (decode_encodeVV 0x0A d a b)

theorem Encoding.vmacx (d : BitVec 6) (a : BitVec 6) (b : BitVec 6) : Encoding.Statement (.vmacx d a b) :=
  Encoding.of_decode rfl (decode_encodeVV 0x0B d a b)

theorem Encoding.vdot2 (d : BitVec 6) (a : BitVec 6) (b : BitVec 6) : Encoding.Statement (.vdot2 d a b) :=
  Encoding.of_decode rfl (decode_encodeVV 0x0C d a b)

theorem Encoding.vdot2x (d : BitVec 6) (a : BitVec 6) (b : BitVec 6) : Encoding.Statement (.vdot2x d a b) :=
  Encoding.of_decode rfl (decode_encodeVV 0x0D d a b)

theorem Encoding.vdiv (d : BitVec 6) (a : BitVec 6) (b : BitVec 6) : Encoding.Statement (.vdiv d a b) :=
  Encoding.of_decode rfl (decode_encodeVV 0x0E d a b)

theorem Encoding.vrem (d : BitVec 6) (a : BitVec 6) (b : BitVec 6) : Encoding.Statement (.vrem d a b) :=
  Encoding.of_decode rfl (decode_encodeVV 0x0F d a b)

theorem Encoding.vmin (d : BitVec 6) (a : BitVec 6) (b : BitVec 6) : Encoding.Statement (.vmin d a b) :=
  Encoding.of_decode rfl (decode_encodeVV 0x10 d a b)

theorem Encoding.vmax (d : BitVec 6) (a : BitVec 6) (b : BitVec 6) : Encoding.Statement (.vmax d a b) :=
  Encoding.of_decode rfl (decode_encodeVV 0x11 d a b)

theorem Encoding.vminx (d : BitVec 6) (a : BitVec 6) (b : BitVec 6) : Encoding.Statement (.vminx d a b) :=
  Encoding.of_decode rfl (decode_encodeVV 0x12 d a b)

theorem Encoding.vmaxx (d : BitVec 6) (a : BitVec 6) (b : BitVec 6) : Encoding.Statement (.vmaxx d a b) :=
  Encoding.of_decode rfl (decode_encodeVV 0x13 d a b)

theorem Encoding.vand (d : BitVec 6) (a : BitVec 6) (b : BitVec 6) : Encoding.Statement (.vand d a b) :=
  Encoding.of_decode rfl (decode_encodeVV 0x14 d a b)

theorem Encoding.vor (d : BitVec 6) (a : BitVec 6) (b : BitVec 6) : Encoding.Statement (.vor d a b) :=
  Encoding.of_decode rfl (decode_encodeVV 0x15 d a b)

theorem Encoding.vxor (d : BitVec 6) (a : BitVec 6) (b : BitVec 6) : Encoding.Statement (.vxor d a b) :=
  Encoding.of_decode rfl (decode_encodeVV 0x16 d a b)

theorem Encoding.vandx (d : BitVec 6) (a : BitVec 6) (b : BitVec 6) : Encoding.Statement (.vandx d a b) :=
  Encoding.of_decode rfl (decode_encodeVV 0x17 d a b)

theorem Encoding.vorx (d : BitVec 6) (a : BitVec 6) (b : BitVec 6) : Encoding.Statement (.vorx d a b) :=
  Encoding.of_decode rfl (decode_encodeVV 0x18 d a b)

theorem Encoding.vxorx (d : BitVec 6) (a : BitVec 6) (b : BitVec 6) : Encoding.Statement (.vxorx d a b) :=
  Encoding.of_decode rfl (decode_encodeVV 0x19 d a b)

theorem Encoding.vsll (d : BitVec 6) (a : BitVec 6) (b : BitVec 6) : Encoding.Statement (.vsll d a b) :=
  Encoding.of_decode rfl (decode_encodeVV 0x1A d a b)

theorem Encoding.vsllx (d : BitVec 6) (a : BitVec 6) (b : BitVec 6) : Encoding.Statement (.vsllx d a b) :=
  Encoding.of_decode rfl (decode_encodeVV 0x1B d a b)

theorem Encoding.vsrl (d : BitVec 6) (a : BitVec 6) (b : BitVec 6) : Encoding.Statement (.vsrl d a b) :=
  Encoding.of_decode rfl (decode_encodeVV 0x1C d a b)

theorem Encoding.vsrlx (d : BitVec 6) (a : BitVec 6) (b : BitVec 6) : Encoding.Statement (.vsrlx d a b) :=
  Encoding.of_decode rfl (decode_encodeVV 0x1D d a b)

theorem Encoding.vsra (d : BitVec 6) (a : BitVec 6) (b : BitVec 6) : Encoding.Statement (.vsra d a b) :=
  Encoding.of_decode rfl (decode_encodeVV 0x1E d a b)

theorem Encoding.vsrax (d : BitVec 6) (a : BitVec 6) (b : BitVec 6) : Encoding.Statement (.vsrax d a b) :=
  Encoding.of_decode rfl (decode_encodeVV 0x1F d a b)

theorem Encoding.vsrar (d : BitVec 6) (a : BitVec 6) (b : BitVec 6) : Encoding.Statement (.vsrar d a b) :=
  Encoding.of_decode rfl (decode_encodeVV 0x20 d a b)

theorem Encoding.vsrarx (d : BitVec 6) (a : BitVec 6) (b : BitVec 6) : Encoding.Statement (.vsrarx d a b) :=
  Encoding.of_decode rfl (decode_encodeVV 0x21 d a b)

theorem Encoding.vnarrow (d : BitVec 6) (a : BitVec 6) (b : BitVec 6) : Encoding.Statement (.vnarrow d a b) :=
  Encoding.of_decode rfl (decode_encodeVV 0x22 d a b)

theorem Encoding.vwidenl (d : BitVec 6) (a : BitVec 6) (b : BitVec 6) : Encoding.Statement (.vwidenl d a b) :=
  Encoding.of_decode rfl (decode_encodeVV 0x23 d a b)

theorem Encoding.vwidenh (d : BitVec 6) (a : BitVec 6) (b : BitVec 6) : Encoding.Statement (.vwidenh d a b) :=
  Encoding.of_decode rfl (decode_encodeVV 0x24 d a b)

theorem Encoding.vabs (d : BitVec 6) (a : BitVec 6) (b : BitVec 6) : Encoding.Statement (.vabs d a b) :=
  Encoding.of_decode rfl (decode_encodeVV 0x25 d a b)

theorem Encoding.vneg (d : BitVec 6) (a : BitVec 6) (b : BitVec 6) : Encoding.Statement (.vneg d a b) :=
  Encoding.of_decode rfl (decode_encodeVV 0x26 d a b)

theorem Encoding.vclz (d : BitVec 6) (a : BitVec 6) (b : BitVec 6) : Encoding.Statement (.vclz d a b) :=
  Encoding.of_decode rfl (decode_encodeVV 0x27 d a b)

theorem Encoding.vpopc (d : BitVec 6) (a : BitVec 6) (b : BitVec 6) : Encoding.Statement (.vpopc d a b) :=
  Encoding.of_decode rfl (decode_encodeVV 0x28 d a b)

theorem Encoding.vavg (d : BitVec 6) (a : BitVec 6) (b : BitVec 6) : Encoding.Statement (.vavg d a b) :=
  Encoding.of_decode rfl (decode_encodeVV 0x29 d a b)

theorem Encoding.vmerge (d : BitVec 6) (a : BitVec 6) (b : BitVec 6) : Encoding.Statement (.vmerge d a b) :=
  Encoding.of_decode rfl (decode_encodeVV 0x2A d a b)

theorem Encoding.vsplat (d : BitVec 6) (a : BitVec 6) (b : BitVec 6) : Encoding.Statement (.vsplat d a b) :=
  Encoding.of_decode rfl (decode_encodeVV 0x2B d a b)

theorem Encoding.viota (d : BitVec 6) (a : BitVec 6) (b : BitVec 6) : Encoding.Statement (.viota d a b) :=
  Encoding.of_decode rfl (decode_encodeVV 0x2C d a b)

theorem Encoding.vcmpeq (d : BitVec 6) (a : BitVec 6) (b : BitVec 6) : Encoding.Statement (.vcmpeq d a b) :=
  Encoding.of_decode rfl (decode_encodeVV 0x2D d a b)

theorem Encoding.vcmpne (d : BitVec 6) (a : BitVec 6) (b : BitVec 6) : Encoding.Statement (.vcmpne d a b) :=
  Encoding.of_decode rfl (decode_encodeVV 0x2E d a b)

theorem Encoding.vcmplt (d : BitVec 6) (a : BitVec 6) (b : BitVec 6) : Encoding.Statement (.vcmplt d a b) :=
  Encoding.of_decode rfl (decode_encodeVV 0x2F d a b)

theorem Encoding.vcmpltu (d : BitVec 6) (a : BitVec 6) (b : BitVec 6) : Encoding.Statement (.vcmpltu d a b) :=
  Encoding.of_decode rfl (decode_encodeVV 0x30 d a b)

theorem Encoding.vcmple (d : BitVec 6) (a : BitVec 6) (b : BitVec 6) : Encoding.Statement (.vcmple d a b) :=
  Encoding.of_decode rfl (decode_encodeVV 0x31 d a b)

theorem Encoding.vcmpeqx (d : BitVec 6) (a : BitVec 6) (b : BitVec 6) : Encoding.Statement (.vcmpeqx d a b) :=
  Encoding.of_decode rfl (decode_encodeVV 0x32 d a b)

theorem Encoding.vcmpltx (d : BitVec 6) (a : BitVec 6) (b : BitVec 6) : Encoding.Statement (.vcmpltx d a b) :=
  Encoding.of_decode rfl (decode_encodeVV 0x33 d a b)

theorem Encoding.vcmpltux (d : BitVec 6) (a : BitVec 6) (b : BitVec 6) : Encoding.Statement (.vcmpltux d a b) :=
  Encoding.of_decode rfl (decode_encodeVV 0x34 d a b)

theorem Encoding.vcmplex (d : BitVec 6) (a : BitVec 6) (b : BitVec 6) : Encoding.Statement (.vcmplex d a b) :=
  Encoding.of_decode rfl (decode_encodeVV 0x35 d a b)

theorem Encoding.vfadd (d : BitVec 6) (a : BitVec 6) (b : BitVec 6) : Encoding.Statement (.vfadd d a b) :=
  Encoding.of_decode rfl (decode_encodeVV 0x38 d a b)

theorem Encoding.vfaddx (d : BitVec 6) (a : BitVec 6) (b : BitVec 6) : Encoding.Statement (.vfaddx d a b) :=
  Encoding.of_decode rfl (decode_encodeVV 0x39 d a b)

theorem Encoding.vfsub (d : BitVec 6) (a : BitVec 6) (b : BitVec 6) : Encoding.Statement (.vfsub d a b) :=
  Encoding.of_decode rfl (decode_encodeVV 0x3A d a b)

theorem Encoding.vfsubx (d : BitVec 6) (a : BitVec 6) (b : BitVec 6) : Encoding.Statement (.vfsubx d a b) :=
  Encoding.of_decode rfl (decode_encodeVV 0x3B d a b)

theorem Encoding.vfmul (d : BitVec 6) (a : BitVec 6) (b : BitVec 6) : Encoding.Statement (.vfmul d a b) :=
  Encoding.of_decode rfl (decode_encodeVV 0x3C d a b)

theorem Encoding.vfmulx (d : BitVec 6) (a : BitVec 6) (b : BitVec 6) : Encoding.Statement (.vfmulx d a b) :=
  Encoding.of_decode rfl (decode_encodeVV 0x3D d a b)

theorem Encoding.vfmac (d : BitVec 6) (a : BitVec 6) (b : BitVec 6) : Encoding.Statement (.vfmac d a b) :=
  Encoding.of_decode rfl (decode_encodeVV 0x3E d a b)

theorem Encoding.vfmacx (d : BitVec 6) (a : BitVec 6) (b : BitVec 6) : Encoding.Statement (.vfmacx d a b) :=
  Encoding.of_decode rfl (decode_encodeVV 0x3F d a b)

theorem Encoding.vfnms (d : BitVec 6) (a : BitVec 6) (b : BitVec 6) : Encoding.Statement (.vfnms d a b) :=
  Encoding.of_decode rfl (decode_encodeVV 0x40 d a b)

theorem Encoding.vfdiv (d : BitVec 6) (a : BitVec 6) (b : BitVec 6) : Encoding.Statement (.vfdiv d a b) :=
  Encoding.of_decode rfl (decode_encodeVV 0x41 d a b)

theorem Encoding.vfsqrt (d : BitVec 6) (a : BitVec 6) (b : BitVec 6) : Encoding.Statement (.vfsqrt d a b) :=
  Encoding.of_decode rfl (decode_encodeVV 0x42 d a b)

theorem Encoding.vfrcp (d : BitVec 6) (a : BitVec 6) (b : BitVec 6) : Encoding.Statement (.vfrcp d a b) :=
  Encoding.of_decode rfl (decode_encodeVV 0x43 d a b)

theorem Encoding.vfrsq (d : BitVec 6) (a : BitVec 6) (b : BitVec 6) : Encoding.Statement (.vfrsq d a b) :=
  Encoding.of_decode rfl (decode_encodeVV 0x44 d a b)

theorem Encoding.vfmin (d : BitVec 6) (a : BitVec 6) (b : BitVec 6) : Encoding.Statement (.vfmin d a b) :=
  Encoding.of_decode rfl (decode_encodeVV 0x45 d a b)

theorem Encoding.vfmax (d : BitVec 6) (a : BitVec 6) (b : BitVec 6) : Encoding.Statement (.vfmax d a b) :=
  Encoding.of_decode rfl (decode_encodeVV 0x46 d a b)

theorem Encoding.vfabs (d : BitVec 6) (a : BitVec 6) (b : BitVec 6) : Encoding.Statement (.vfabs d a b) :=
  Encoding.of_decode rfl (decode_encodeVV 0x47 d a b)

theorem Encoding.vfneg (d : BitVec 6) (a : BitVec 6) (b : BitVec 6) : Encoding.Statement (.vfneg d a b) :=
  Encoding.of_decode rfl (decode_encodeVV 0x48 d a b)

theorem Encoding.vfrint (d : BitVec 6) (a : BitVec 6) (b : BitVec 6) : Encoding.Statement (.vfrint d a b) :=
  Encoding.of_decode rfl (decode_encodeVV 0x49 d a b)

theorem Encoding.vfexp2f (d : BitVec 6) (a : BitVec 6) (b : BitVec 6) : Encoding.Statement (.vfexp2f d a b) :=
  Encoding.of_decode rfl (decode_encodeVV 0x4A d a b)

theorem Encoding.vflog2f (d : BitVec 6) (a : BitVec 6) (b : BitVec 6) : Encoding.Statement (.vflog2f d a b) :=
  Encoding.of_decode rfl (decode_encodeVV 0x4B d a b)

theorem Encoding.vfldexp (d : BitVec 6) (a : BitVec 6) (b : BitVec 6) : Encoding.Statement (.vfldexp d a b) :=
  Encoding.of_decode rfl (decode_encodeVV 0x4C d a b)

theorem Encoding.vfgetexp (d : BitVec 6) (a : BitVec 6) (b : BitVec 6) : Encoding.Statement (.vfgetexp d a b) :=
  Encoding.of_decode rfl (decode_encodeVV 0x4D d a b)

theorem Encoding.vfcmpeq (d : BitVec 6) (a : BitVec 6) (b : BitVec 6) : Encoding.Statement (.vfcmpeq d a b) :=
  Encoding.of_decode rfl (decode_encodeVV 0x4E d a b)

theorem Encoding.vfcmplt (d : BitVec 6) (a : BitVec 6) (b : BitVec 6) : Encoding.Statement (.vfcmplt d a b) :=
  Encoding.of_decode rfl (decode_encodeVV 0x4F d a b)

theorem Encoding.vfcmple (d : BitVec 6) (a : BitVec 6) (b : BitVec 6) : Encoding.Statement (.vfcmple d a b) :=
  Encoding.of_decode rfl (decode_encodeVV 0x50 d a b)

theorem Encoding.vfcmpun (d : BitVec 6) (a : BitVec 6) (b : BitVec 6) : Encoding.Statement (.vfcmpun d a b) :=
  Encoding.of_decode rfl (decode_encodeVV 0x51 d a b)

theorem Encoding.vfclass (d : BitVec 6) (a : BitVec 6) (b : BitVec 6) : Encoding.Statement (.vfclass d a b) :=
  Encoding.of_decode rfl (decode_encodeVV 0x52 d a b)

theorem Encoding.vcvtif (d : BitVec 6) (a : BitVec 6) (b : BitVec 6) : Encoding.Statement (.vcvtif d a b) :=
  Encoding.of_decode rfl (decode_encodeVV 0x53 d a b)

theorem Encoding.vcvtfi (d : BitVec 6) (a : BitVec 6) (b : BitVec 6) : Encoding.Statement (.vcvtfi d a b) :=
  Encoding.of_decode rfl (decode_encodeVV 0x54 d a b)

theorem Encoding.vcvtff (d : BitVec 6) (a : BitVec 6) (b : BitVec 6) : Encoding.Statement (.vcvtff d a b) :=
  Encoding.of_decode rfl (decode_encodeVV 0x55 d a b)

theorem Encoding.vfdot2 (d : BitVec 6) (a : BitVec 6) (b : BitVec 6) : Encoding.Statement (.vfdot2 d a b) :=
  Encoding.of_decode rfl (decode_encodeVV 0x56 d a b)

theorem Encoding.vslideup (d : BitVec 6) (a : BitVec 6) (b : BitVec 6) : Encoding.Statement (.vslideup d a b) :=
  Encoding.of_decode rfl (decode_encodeVV 0x58 d a b)

theorem Encoding.vslidedn (d : BitVec 6) (a : BitVec 6) (b : BitVec 6) : Encoding.Statement (.vslidedn d a b) :=
  Encoding.of_decode rfl (decode_encodeVV 0x59 d a b)

theorem Encoding.vslide1up (d : BitVec 6) (a : BitVec 6) (b : BitVec 6) : Encoding.Statement (.vslide1up d a b) :=
  Encoding.of_decode rfl (decode_encodeVV 0x5A d a b)

theorem Encoding.vslide1dn (d : BitVec 6) (a : BitVec 6) (b : BitVec 6) : Encoding.Statement (.vslide1dn d a b) :=
  Encoding.of_decode rfl (decode_encodeVV 0x5B d a b)

theorem Encoding.vrgath (d : BitVec 6) (a : BitVec 6) (b : BitVec 6) : Encoding.Statement (.vrgath d a b) :=
  Encoding.of_decode rfl (decode_encodeVV 0x5C d a b)

theorem Encoding.vcompress (d : BitVec 6) (a : BitVec 6) (b : BitVec 6) : Encoding.Statement (.vcompress d a b) :=
  Encoding.of_decode rfl (decode_encodeVV 0x5D d a b)

theorem Encoding.vexpand (d : BitVec 6) (a : BitVec 6) (b : BitVec 6) : Encoding.Statement (.vexpand d a b) :=
  Encoding.of_decode rfl (decode_encodeVV 0x5E d a b)

theorem Encoding.vrev (d : BitVec 6) (a : BitVec 6) (b : BitVec 6) : Encoding.Statement (.vrev d a b) :=
  Encoding.of_decode rfl (decode_encodeVV 0x5F d a b)

theorem Encoding.vzip (d : BitVec 6) (a : BitVec 6) (b : BitVec 6) : Encoding.Statement (.vzip d a b) :=
  Encoding.of_decode rfl (decode_encodeVV 0x60 d a b)

theorem Encoding.vunzip (d : BitVec 6) (a : BitVec 6) (b : BitVec 6) : Encoding.Statement (.vunzip d a b) :=
  Encoding.of_decode rfl (decode_encodeVV 0x61 d a b)

theorem Encoding.vredsum (d : BitVec 6) (a : BitVec 6) (b : BitVec 6) : Encoding.Statement (.vredsum d a b) :=
  Encoding.of_decode rfl (decode_encodeVV 0x62 d a b)

theorem Encoding.vredmax (d : BitVec 6) (a : BitVec 6) (b : BitVec 6) : Encoding.Statement (.vredmax d a b) :=
  Encoding.of_decode rfl (decode_encodeVV 0x63 d a b)

theorem Encoding.vredmin (d : BitVec 6) (a : BitVec 6) (b : BitVec 6) : Encoding.Statement (.vredmin d a b) :=
  Encoding.of_decode rfl (decode_encodeVV 0x64 d a b)

theorem Encoding.vredand (d : BitVec 6) (a : BitVec 6) (b : BitVec 6) : Encoding.Statement (.vredand d a b) :=
  Encoding.of_decode rfl (decode_encodeVV 0x65 d a b)

theorem Encoding.vredor (d : BitVec 6) (a : BitVec 6) (b : BitVec 6) : Encoding.Statement (.vredor d a b) :=
  Encoding.of_decode rfl (decode_encodeVV 0x66 d a b)

theorem Encoding.vfredsum (d : BitVec 6) (a : BitVec 6) (b : BitVec 6) : Encoding.Statement (.vfredsum d a b) :=
  Encoding.of_decode rfl (decode_encodeVV 0x67 d a b)

theorem Encoding.vfredmax (d : BitVec 6) (a : BitVec 6) (b : BitVec 6) : Encoding.Statement (.vfredmax d a b) :=
  Encoding.of_decode rfl (decode_encodeVV 0x68 d a b)

theorem Encoding.vfredmin (d : BitVec 6) (a : BitVec 6) (b : BitVec 6) : Encoding.Statement (.vfredmin d a b) :=
  Encoding.of_decode rfl (decode_encodeVV 0x69 d a b)

theorem Encoding.vmand (d : BitVec 6) (a : BitVec 6) (b : BitVec 6) : Encoding.Statement (.vmand d a b) :=
  Encoding.of_decode rfl (decode_encodeVV 0x6A d a b)

theorem Encoding.vmor (d : BitVec 6) (a : BitVec 6) (b : BitVec 6) : Encoding.Statement (.vmor d a b) :=
  Encoding.of_decode rfl (decode_encodeVV 0x6B d a b)

theorem Encoding.vmxor (d : BitVec 6) (a : BitVec 6) (b : BitVec 6) : Encoding.Statement (.vmxor d a b) :=
  Encoding.of_decode rfl (decode_encodeVV 0x6C d a b)

theorem Encoding.vmnot (d : BitVec 6) (a : BitVec 6) (b : BitVec 6) : Encoding.Statement (.vmnot d a b) :=
  Encoding.of_decode rfl (decode_encodeVV 0x6D d a b)

theorem Encoding.vmpopc (d : BitVec 6) (a : BitVec 6) (b : BitVec 6) : Encoding.Statement (.vmpopc d a b) :=
  Encoding.of_decode rfl (decode_encodeVV 0x6E d a b)

theorem Encoding.vmfirst (d : BitVec 6) (a : BitVec 6) (b : BitVec 6) : Encoding.Statement (.vmfirst d a b) :=
  Encoding.of_decode rfl (decode_encodeVV 0x6F d a b)

theorem Encoding.vextx (d : BitVec 6) (a : BitVec 6) (b : BitVec 6) : Encoding.Statement (.vextx d a b) :=
  Encoding.of_decode rfl (decode_encodeVV 0x70 d a b)

theorem Encoding.vinsx (d : BitVec 6) (a : BitVec 6) (b : BitVec 6) : Encoding.Statement (.vinsx d a b) :=
  Encoding.of_decode rfl (decode_encodeVV 0x71 d a b)

theorem Encoding.vmov (d : BitVec 6) (a : BitVec 6) (b : BitVec 6) : Encoding.Statement (.vmov d a b) :=
  Encoding.of_decode rfl (decode_encodeVV 0x72 d a b)

theorem Encoding.vmtov (d : BitVec 6) (a : BitVec 6) (b : BitVec 6) : Encoding.Statement (.vmtov d a b) :=
  Encoding.of_decode rfl (decode_encodeVV 0x73 d a b)

theorem Encoding.vvtom (d : BitVec 6) (a : BitVec 6) (b : BitVec 6) : Encoding.Statement (.vvtom d a b) :=
  Encoding.of_decode rfl (decode_encodeVV 0x74 d a b)

theorem Encoding.vld (d : BitVec 6) (a : BitVec 6) (b : BitVec 6) : Encoding.Statement (.vld d a b) :=
  Encoding.of_decode rfl (decode_encodeVV 0x78 d a b)

theorem Encoding.vlds (d : BitVec 6) (a : BitVec 6) (b : BitVec 6) : Encoding.Statement (.vlds d a b) :=
  Encoding.of_decode rfl (decode_encodeVV 0x79 d a b)

theorem Encoding.vldx (d : BitVec 6) (a : BitVec 6) (b : BitVec 6) : Encoding.Statement (.vldx d a b) :=
  Encoding.of_decode rfl (decode_encodeVV 0x7A d a b)

theorem Encoding.vldb (d : BitVec 6) (a : BitVec 6) (b : BitVec 6) : Encoding.Statement (.vldb d a b) :=
  Encoding.of_decode rfl (decode_encodeVV 0x7B d a b)

theorem Encoding.vst (d : BitVec 6) (a : BitVec 6) (b : BitVec 6) : Encoding.Statement (.vst d a b) :=
  Encoding.of_decode rfl (decode_encodeVV 0x7C d a b)

theorem Encoding.vsts (d : BitVec 6) (a : BitVec 6) (b : BitVec 6) : Encoding.Statement (.vsts d a b) :=
  Encoding.of_decode rfl (decode_encodeVV 0x7D d a b)

theorem Encoding.vstx (d : BitVec 6) (a : BitVec 6) (b : BitVec 6) : Encoding.Statement (.vstx d a b) :=
  Encoding.of_decode rfl (decode_encodeVV 0x7E d a b)

theorem Encoding.vstu (d : BitVec 6) (a : BitVec 6) (b : BitVec 6) : Encoding.Statement (.vstu d a b) :=
  Encoding.of_decode rfl (decode_encodeVV 0x7F d a b)

theorem Encoding.vstsu (d : BitVec 6) (a : BitVec 6) (b : BitVec 6) : Encoding.Statement (.vstsu d a b) :=
  Encoding.of_decode rfl (decode_encodeVV 0x80 d a b)

theorem Encoding.vstxu (d : BitVec 6) (a : BitVec 6) (b : BitVec 6) : Encoding.Statement (.vstxu d a b) :=
  Encoding.of_decode rfl (decode_encodeVV 0x81 d a b)

theorem Encoding.vldt (d : BitVec 6) (a : BitVec 6) (b : BitVec 6) : Encoding.Statement (.vldt d a b) :=
  Encoding.of_decode rfl (decode_encodeVV 0x82 d a b)

theorem Encoding.vstt (d : BitVec 6) (a : BitVec 6) (b : BitVec 6) : Encoding.Statement (.vstt d a b) :=
  Encoding.of_decode rfl (decode_encodeVV 0x83 d a b)

theorem Encoding.vldtx (d : BitVec 6) (a : BitVec 6) (b : BitVec 6) : Encoding.Statement (.vldtx d a b) :=
  Encoding.of_decode rfl (decode_encodeVV 0x84 d a b)

theorem Encoding.vsttx (d : BitVec 6) (a : BitVec 6) (b : BitVec 6) : Encoding.Statement (.vsttx d a b) :=
  Encoding.of_decode rfl (decode_encodeVV 0x85 d a b)

theorem Encoding.vtaddx (d : BitVec 6) (a : BitVec 6) (b : BitVec 6) : Encoding.Statement (.vtaddx d a b) :=
  Encoding.of_decode rfl (decode_encodeVV 0x86 d a b)

theorem Encoding.vtcasx (d : BitVec 6) (a : BitVec 6) (b : BitVec 6) : Encoding.Statement (.vtcasx d a b) :=
  Encoding.of_decode rfl (decode_encodeVV 0x87 d a b)

theorem Encoding.vtmaxx (d : BitVec 6) (a : BitVec 6) (b : BitVec 6) : Encoding.Statement (.vtmaxx d a b) :=
  Encoding.of_decode rfl (decode_encodeVV 0x88 d a b)

theorem Encoding.vldw (d : BitVec 6) (a : BitVec 6) (b : BitVec 6) : Encoding.Statement (.vldw d a b) :=
  Encoding.of_decode rfl (decode_encodeVV 0x89 d a b)

theorem Encoding.vstw (d : BitVec 6) (a : BitVec 6) (b : BitVec 6) : Encoding.Statement (.vstw d a b) :=
  Encoding.of_decode rfl (decode_encodeVV 0x8A d a b)

theorem Encoding.vataddx (d : BitVec 6) (a : BitVec 6) (b : BitVec 6) : Encoding.Statement (.vataddx d a b) :=
  Encoding.of_decode rfl (decode_encodeVV 0x8B d a b)

theorem Encoding.vatcasx (d : BitVec 6) (a : BitVec 6) (b : BitVec 6) : Encoding.Statement (.vatcasx d a b) :=
  Encoding.of_decode rfl (decode_encodeVV 0x8C d a b)

theorem Encoding.vpush (d : BitVec 6) (a : BitVec 6) (b : BitVec 6) : Encoding.Statement (.vpush d a b) :=
  Encoding.of_decode rfl (decode_encodeVV 0x8D d a b)

theorem Encoding.varm (d : BitVec 6) (a : BitVec 6) (b : BitVec 6) : Encoding.Statement (.varm d a b) :=
  Encoding.of_decode rfl (decode_encodeVV 0x8E d a b)

theorem Encoding.vpref (d : BitVec 6) (a : BitVec 6) (b : BitVec 6) : Encoding.Statement (.vpref d a b) :=
  Encoding.of_decode rfl (decode_encodeVV 0x8F d a b)

theorem Encoding.mldw (d : BitVec 6) (a : BitVec 6) (b : BitVec 6) : Encoding.Statement (.mldw d a b) :=
  Encoding.of_decode rfl (decode_encodeVV 0x98 d a b)

theorem Encoding.mrow (d : BitVec 6) (a : BitVec 6) (b : BitVec 6) : Encoding.Statement (.mrow d a b) :=
  Encoding.of_decode rfl (decode_encodeVV 0x99 d a b)

theorem Encoding.mrelw (d : BitVec 6) (a : BitVec 6) (b : BitVec 6) : Encoding.Statement (.mrelw d a b) :=
  Encoding.of_decode rfl (decode_encodeVV 0x9A d a b)

theorem Encoding.mwaitw (d : BitVec 6) (a : BitVec 6) (b : BitVec 6) : Encoding.Statement (.mwaitw d a b) :=
  Encoding.of_decode rfl (decode_encodeVV 0x9B d a b)

theorem Encoding.mstat (d : BitVec 6) (a : BitVec 6) (b : BitVec 6) : Encoding.Statement (.mstat d a b) :=
  Encoding.of_decode rfl (decode_encodeVV 0x9C d a b)

theorem Encoding.vscacc (d : BitVec 6) (a : BitVec 6) (b : BitVec 6) : Encoding.Statement (.vscacc d a b) :=
  Encoding.of_decode rfl (decode_encodeVV 0x9D d a b)

theorem Encoding.vscapply (d : BitVec 6) (a : BitVec 6) (b : BitVec 6) : Encoding.Statement (.vscapply d a b) :=
  Encoding.of_decode rfl (decode_encodeVV 0x9E d a b)

theorem Encoding.vbscale (d : BitVec 6) (a : BitVec 6) (b : BitVec 6) : Encoding.Statement (.vbscale d a b) :=
  Encoding.of_decode rfl (decode_encodeVV 0x9F d a b)

theorem Encoding.vmxq (d : BitVec 6) (a : BitVec 6) (b : BitVec 6) : Encoding.Statement (.vmxq d a b) :=
  Encoding.of_decode rfl (decode_encodeVV 0xA0 d a b)

theorem Encoding.vcbdec (d : BitVec 6) (a : BitVec 6) (b : BitVec 6) : Encoding.Statement (.vcbdec d a b) :=
  Encoding.of_decode rfl (decode_encodeVV 0xA1 d a b)

theorem Encoding.vcbld (d : BitVec 6) (a : BitVec 6) (b : BitVec 6) : Encoding.Statement (.vcbld d a b) :=
  Encoding.of_decode rfl (decode_encodeVV 0xA2 d a b)

theorem Encoding.vaccrd (d : BitVec 6) (a : BitVec 6) (b : BitVec 6) : Encoding.Statement (.vaccrd d a b) :=
  Encoding.of_decode rfl (decode_encodeVV 0xA3 d a b)

theorem Encoding.fscan (d : BitVec 6) (a : BitVec 6) (b : BitVec 6) : Encoding.Statement (.fscan d a b) :=
  Encoding.of_decode rfl (decode_encodeVV 0xB0 d a b)

theorem Encoding.fscand (d : BitVec 6) (a : BitVec 6) (b : BitVec 6) : Encoding.Statement (.fscand d a b) :=
  Encoding.of_decode rfl (decode_encodeVV 0xB1 d a b)

theorem Encoding.fisect (d : BitVec 6) (a : BitVec 6) (b : BitVec 6) : Encoding.Statement (.fisect d a b) :=
  Encoding.of_decode rfl (decode_encodeVV 0xB2 d a b)

theorem Encoding.funion (d : BitVec 6) (a : BitVec 6) (b : BitVec 6) : Encoding.Statement (.funion d a b) :=
  Encoding.of_decode rfl (decode_encodeVV 0xB3 d a b)

theorem Encoding.frept (d : BitVec 6) (a : BitVec 6) (b : BitVec 6) : Encoding.Statement (.frept d a b) :=
  Encoding.of_decode rfl (decode_encodeVV 0xB4 d a b)

theorem Encoding.fredc (d : BitVec 6) (a : BitVec 6) (b : BitVec 6) : Encoding.Statement (.fredc d a b) :=
  Encoding.of_decode rfl (decode_encodeVV 0xB5 d a b)

theorem Encoding.fval (d : BitVec 6) (a : BitVec 6) (b : BitVec 6) : Encoding.Statement (.fval d a b) :=
  Encoding.of_decode rfl (decode_encodeVV 0xB6 d a b)

theorem Encoding.fwrc (d : BitVec 6) (a : BitVec 6) (b : BitVec 6) : Encoding.Statement (.fwrc d a b) :=
  Encoding.of_decode rfl (decode_encodeVV 0xB7 d a b)

theorem Encoding.fwrv (d : BitVec 6) (a : BitVec 6) (b : BitVec 6) : Encoding.Statement (.fwrv d a b) :=
  Encoding.of_decode rfl (decode_encodeVV 0xB8 d a b)

theorem Encoding.fsteer (d : BitVec 6) (a : BitVec 6) (b : BitVec 6) : Encoding.Statement (.fsteer d a b) :=
  Encoding.of_decode rfl (decode_encodeVV 0xB9 d a b)

theorem Encoding.fmerge (d : BitVec 6) (a : BitVec 6) (b : BitVec 6) : Encoding.Statement (.fmerge d a b) :=
  Encoding.of_decode rfl (decode_encodeVV 0xBA d a b)

theorem Encoding.floopc (d : BitVec 6) (a : BitVec 6) (b : BitVec 6) : Encoding.Statement (.floopc d a b) :=
  Encoding.of_decode rfl (decode_encodeVV 0xBB d a b)

theorem Encoding.fjoin (d : BitVec 6) (a : BitVec 6) (b : BitVec 6) : Encoding.Statement (.fjoin d a b) :=
  Encoding.of_decode rfl (decode_encodeVV 0xBC d a b)

theorem Encoding.fxlate (d : BitVec 6) (a : BitVec 6) (b : BitVec 6) : Encoding.Statement (.fxlate d a b) :=
  Encoding.of_decode rfl (decode_encodeVV 0xBD d a b)

theorem Encoding.fgath (d : BitVec 6) (a : BitVec 6) (b : BitVec 6) : Encoding.Statement (.fgath d a b) :=
  Encoding.of_decode rfl (decode_encodeVV 0xBE d a b)

theorem Encoding.fscat (d : BitVec 6) (a : BitVec 6) (b : BitVec 6) : Encoding.Statement (.fscat d a b) :=
  Encoding.of_decode rfl (decode_encodeVV 0xBF d a b)

theorem Encoding.fsink (d : BitVec 6) (a : BitVec 6) (b : BitVec 6) : Encoding.Statement (.fsink d a b) :=
  Encoding.of_decode rfl (decode_encodeVV 0xC0 d a b)

theorem Encoding.fcrd (d : BitVec 6) (a : BitVec 6) (b : BitVec 6) : Encoding.Statement (.fcrd d a b) :=
  Encoding.of_decode rfl (decode_encodeVV 0xC1 d a b)

theorem Encoding.fref (d : BitVec 6) (a : BitVec 6) (b : BitVec 6) : Encoding.Statement (.fref d a b) :=
  Encoding.of_decode rfl (decode_encodeVV 0xC2 d a b)

theorem Encoding.fpack (d : BitVec 6) (a : BitVec 6) (b : BitVec 6) : Encoding.Statement (.fpack d a b) :=
  Encoding.of_decode rfl (decode_encodeVV 0xC3 d a b)

theorem Encoding.fhashi (d : BitVec 6) (a : BitVec 6) (b : BitVec 6) : Encoding.Statement (.fhashi d a b) :=
  Encoding.of_decode rfl (decode_encodeVV 0xC4 d a b)

theorem Encoding.fdrop (d : BitVec 6) (a : BitVec 6) (b : BitVec 6) : Encoding.Statement (.fdrop d a b) :=
  Encoding.of_decode rfl (decode_encodeVV 0xC5 d a b)

theorem Encoding.rmatch (d : BitVec 6) (a : BitVec 6) (b : BitVec 6) : Encoding.Statement (.rmatch d a b) :=
  Encoding.of_decode rfl (decode_encodeVV 0xC6 d a b)

theorem Encoding.qpushx (d : BitVec 6) (a : BitVec 6) (b : BitVec 6) : Encoding.Statement (.qpushx d a b) :=
  Encoding.of_decode rfl (decode_encodeVV 0xC7 d a b)

theorem Encoding.qpopx (d : BitVec 6) (a : BitVec 6) (b : BitVec 6) : Encoding.Statement (.qpopx d a b) :=
  Encoding.of_decode rfl (decode_encodeVV 0xC8 d a b)

theorem Encoding.qstopx (d : BitVec 6) (a : BitVec 6) (b : BitVec 6) : Encoding.Statement (.qstopx d a b) :=
  Encoding.of_decode rfl (decode_encodeVV 0xC9 d a b)

theorem Encoding.qdone (d : BitVec 6) (a : BitVec 6) (b : BitVec 6) : Encoding.Statement (.qdone d a b) :=
  Encoding.of_decode rfl (decode_encodeVV 0xCA d a b)

theorem Encoding.qpeek (d : BitVec 6) (a : BitVec 6) (b : BitVec 6) : Encoding.Statement (.qpeek d a b) :=
  Encoding.of_decode rfl (decode_encodeVV 0xCB d a b)

theorem Encoding.qdrain (d : BitVec 6) (a : BitVec 6) (b : BitVec 6) : Encoding.Statement (.qdrain d a b) :=
  Encoding.of_decode rfl (decode_encodeVV 0xCC d a b)

theorem Encoding.interruptEntry (core : Nat) (strand : Nat) : Encoding.Statement (.interruptEntry core strand) :=
  Encoding.of_event rfl

theorem Encoding.breakTrapEntry (core : Nat) (strand : Nat) : Encoding.Statement (.breakTrapEntry core strand) :=
  Encoding.of_event rfl

theorem Encoding.waitEnd (core : Nat) (strand : Nat) : Encoding.Statement (.waitEnd core strand) :=
  Encoding.of_event rfl

theorem Encoding.vectorAdmission (core : Nat) (strand : Nat) : Encoding.Statement (.vectorAdmission core strand) :=
  Encoding.of_event rfl

theorem Encoding.vectorWalkComplete (core : Nat) (strand : Nat) (reg : Nat) :
    Encoding.Statement (.vectorWalkComplete core strand reg) :=
  Encoding.of_event rfl

theorem Encoding.copyActivate (core : Nat) (entry : Nat) : Encoding.Statement (.copyActivate core entry) :=
  Encoding.of_event rfl

theorem Encoding.copyBeat (core : Nat) (entry : Nat) : Encoding.Statement (.copyBeat core entry) :=
  Encoding.of_event rfl

theorem Encoding.arrivalToken (core : Nat) (entry : Nat) : Encoding.Statement (.arrivalToken core entry) :=
  Encoding.of_event rfl

theorem Encoding.copyCompletionToken (core : Nat) (entry : Nat) : Encoding.Statement (.copyCompletionToken core entry) :=
  Encoding.of_event rfl

theorem Encoding.chainBreak (core : Nat) (slot : Nat) : Encoding.Statement (.chainBreak core slot) :=
  Encoding.of_event rfl

theorem Encoding.slotEnterTemporal (core : Nat) (slot : Nat) : Encoding.Statement (.slotEnterTemporal core slot) :=
  Encoding.of_event rfl

theorem Encoding.remainderWord (core : Nat) (slot : Nat) : Encoding.Statement (.remainderWord core slot) :=
  Encoding.of_event rfl

theorem Encoding.runComplete (core : Nat) (slot : Nat) : Encoding.Statement (.runComplete core slot) :=
  Encoding.of_event rfl

theorem Encoding.lgNodeFire (core : Nat) (slot : Nat) (node : Nat) : Encoding.Statement (.lgNodeFire core slot node) :=
  Encoding.of_event rfl

theorem Encoding.mnNodeFire (core : Nat) (slot : Nat) (node : Nat) : Encoding.Statement (.mnNodeFire core slot node) :=
  Encoding.of_event rfl

theorem Encoding.sourcePortPush (core : Nat) (slot : Nat) (node : Nat) :
    Encoding.Statement (.sourcePortPush core slot node) :=
  Encoding.of_event rfl

theorem Encoding.sinkPortWrite (core : Nat) (slot : Nat) (node : Nat) : Encoding.Statement (.sinkPortWrite core slot node) :=
  Encoding.of_event rfl

theorem Encoding.tokenLand (core : Nat) (queue : Nat) : Encoding.Statement (.tokenLand core queue) :=
  Encoding.of_event rfl

theorem Encoding.advancePass (router : Nat) (tag : Nat) : Encoding.Statement (.advancePass router tag) :=
  Encoding.of_event rfl

theorem Encoding.watchFire (core : Nat) (strand : Nat) (index : Nat) : Encoding.Statement (.watchFire core strand index) :=
  Encoding.of_event rfl

theorem Encoding.stepEntry (region : Nat) (leaf : Nat) : Encoding.Statement (.stepEntry region leaf) :=
  Encoding.of_event rfl

theorem Encoding.stepComplete (region : Nat) (leaf : Nat) : Encoding.Statement (.stepComplete region leaf) :=
  Encoding.of_event rfl

theorem Encoding.jobSelection (region : Nat) : Encoding.Statement (.jobSelection region) :=
  Encoding.of_event rfl

theorem Encoding.dependenceMet (job : BitVec 32) : Encoding.Statement (.dependenceMet job) :=
  Encoding.of_event rfl

theorem Encoding.stipSet (core : Nat) (strand : Nat) : Encoding.Statement (.stipSet core strand) :=
  Encoding.of_event rfl

theorem Encoding.instructionFetchFault (why : FetchFault) : Encoding.Statement (.instructionFetchFault why) :=
  Encoding.of_event rfl

theorem Encoding.reservedEncoding (w : BitVec 32) : Encoding.Statement (.reservedEncoding w) := by
  intro v hv
  cases hv
  exact Or.inr rfl

theorem Encoding.rowReopenGiveup (core : Nat) (strand : Nat) (index : Nat) :
    Encoding.Statement (.rowReopenGiveup core strand index) :=
  Encoding.of_event rfl

theorem Encoding.graceExpiry (region : Nat) : Encoding.Statement (.graceExpiry region) :=
  Encoding.of_event rfl

theorem Encoding.stepBoundaryStop (region : Nat) : Encoding.Statement (.stepBoundaryStop region) :=
  Encoding.of_event rfl

theorem Encoding.setmode (rd : BitVec 5) (rs1 : BitVec 5) (rs2 : BitVec 5) : Encoding.Statement (.setmode rd rs1 rs2) :=
  Encoding.of_decode rfl (decode_encodeXR 0x00 rd rs1 rs2)

theorem Encoding.getmode (rd : BitVec 5) (rs1 : BitVec 5) (rs2 : BitVec 5) : Encoding.Statement (.getmode rd rs1 rs2) :=
  Encoding.of_decode rfl (decode_encodeXR 0x01 rd rs1 rs2)

theorem Encoding.setvl (rd : BitVec 5) (rs1 : BitVec 5) (rs2 : BitVec 5) : Encoding.Statement (.setvl rd rs1 rs2) :=
  Encoding.of_decode rfl (decode_encodeXR 0x02 rd rs1 rs2)

theorem Encoding.setvstart (rd : BitVec 5) (rs1 : BitVec 5) (rs2 : BitVec 5) : Encoding.Statement (.setvstart rd rs1 rs2) :=
  Encoding.of_decode rfl (decode_encodeXR 0x03 rd rs1 rs2)

theorem Encoding.probe (rd : BitVec 5) (rs1 : BitVec 5) (rs2 : BitVec 5) : Encoding.Statement (.probe rd rs1 rs2) :=
  Encoding.of_decode rfl (decode_encodeXR 0x04 rd rs1 rs2)

theorem Encoding.punpin (rd : BitVec 5) (rs1 : BitVec 5) (rs2 : BitVec 5) : Encoding.Statement (.punpin rd rs1 rs2) :=
  Encoding.of_decode rfl (decode_encodeXR 0x05 rd rs1 rs2)

theorem Encoding.pstat (rd : BitVec 5) (rs1 : BitVec 5) (rs2 : BitVec 5) : Encoding.Statement (.pstat rd rs1 rs2) :=
  Encoding.of_decode rfl (decode_encodeXR 0x06 rd rs1 rs2)

theorem Encoding.talloc (rd : BitVec 5) (rs1 : BitVec 5) (rs2 : BitVec 5) : Encoding.Statement (.talloc rd rs1 rs2) :=
  Encoding.of_decode rfl (decode_encodeXR 0x07 rd rs1 rs2)

theorem Encoding.tfree (rd : BitVec 5) (rs1 : BitVec 5) (rs2 : BitVec 5) : Encoding.Statement (.tfree rd rs1 rs2) :=
  Encoding.of_decode rfl (decode_encodeXR 0x08 rd rs1 rs2)

theorem Encoding.tstate (rd : BitVec 5) (rs1 : BitVec 5) (rs2 : BitVec 5) : Encoding.Statement (.tstate rd rs1 rs2) :=
  Encoding.of_decode rfl (decode_encodeXR 0x09 rd rs1 rs2)

theorem Encoding.tsetst (rd : BitVec 5) (rs1 : BitVec 5) (rs2 : BitVec 5) : Encoding.Statement (.tsetst rd rs1 rs2) :=
  Encoding.of_decode rfl (decode_encodeXR 0x0A rd rs1 rs2)

theorem Encoding.tgen (rd : BitVec 5) (rs1 : BitVec 5) (rs2 : BitVec 5) : Encoding.Statement (.tgen rd rs1 rs2) :=
  Encoding.of_decode rfl (decode_encodeXR 0x0B rd rs1 rs2)

theorem Encoding.rowopen (rd : BitVec 5) (rs1 : BitVec 5) (rs2 : BitVec 5) : Encoding.Statement (.rowopen rd rs1 rs2) :=
  Encoding.of_decode rfl (decode_encodeXR 0x0C rd rs1 rs2)

theorem Encoding.rowrel (rd : BitVec 5) (rs1 : BitVec 5) (rs2 : BitVec 5) : Encoding.Statement (.rowrel rd rs1 rs2) :=
  Encoding.of_decode rfl (decode_encodeXR 0x0D rd rs1 rs2)

theorem Encoding.rowstat (rd : BitVec 5) (rs1 : BitVec 5) (rs2 : BitVec 5) : Encoding.Statement (.rowstat rd rs1 rs2) :=
  Encoding.of_decode rfl (decode_encodeXR 0x0E rd rs1 rs2)

theorem Encoding.acopy (rd : BitVec 5) (rs1 : BitVec 5) (rs2 : BitVec 5) : Encoding.Statement (.acopy rd rs1 rs2) :=
  Encoding.of_decode rfl (decode_encodeXR 0x0F rd rs1 rs2)

theorem Encoding.await (rd : BitVec 5) (rs1 : BitVec 5) (rs2 : BitVec 5) : Encoding.Statement (.await rd rs1 rs2) :=
  Encoding.of_decode rfl (decode_encodeXR 0x10 rd rs1 rs2)

theorem Encoding.acancel (rd : BitVec 5) (rs1 : BitVec 5) (rs2 : BitVec 5) : Encoding.Statement (.acancel rd rs1 rs2) :=
  Encoding.of_decode rfl (decode_encodeXR 0x11 rd rs1 rs2)

theorem Encoding.astat (rd : BitVec 5) (rs1 : BitVec 5) (rs2 : BitVec 5) : Encoding.Statement (.astat rd rs1 rs2) :=
  Encoding.of_decode rfl (decode_encodeXR 0x12 rd rs1 rs2)

theorem Encoding.chcfg (rd : BitVec 5) (rs1 : BitVec 5) (rs2 : BitVec 5) : Encoding.Statement (.chcfg rd rs1 rs2) :=
  Encoding.of_decode rfl (decode_encodeXR 0x13 rd rs1 rs2)

theorem Encoding.chrel (rd : BitVec 5) (rs1 : BitVec 5) (rs2 : BitVec 5) : Encoding.Statement (.chrel rd rs1 rs2) :=
  Encoding.of_decode rfl (decode_encodeXR 0x14 rd rs1 rs2)

theorem Encoding.run (rd : BitVec 5) (rs1 : BitVec 5) (rs2 : BitVec 5) : Encoding.Statement (.run rd rs1 rs2) :=
  Encoding.of_decode rfl (decode_encodeXR 0x15 rd rs1 rs2)

theorem Encoding.chwait (rd : BitVec 5) (rs1 : BitVec 5) (rs2 : BitVec 5) : Encoding.Statement (.chwait rd rs1 rs2) :=
  Encoding.of_decode rfl (decode_encodeXR 0x16 rd rs1 rs2)

theorem Encoding.chstat (rd : BitVec 5) (rs1 : BitVec 5) (rs2 : BitVec 5) : Encoding.Statement (.chstat rd rs1 rs2) :=
  Encoding.of_decode rfl (decode_encodeXR 0x17 rd rs1 rs2)

theorem Encoding.chbar (rd : BitVec 5) (rs1 : BitVec 5) (rs2 : BitVec 5) : Encoding.Statement (.chbar rd rs1 rs2) :=
  Encoding.of_decode rfl (decode_encodeXR 0x18 rd rs1 rs2)

theorem Encoding.chresp (rd : BitVec 5) (rs1 : BitVec 5) (rs2 : BitVec 5) : Encoding.Statement (.chresp rd rs1 rs2) :=
  Encoding.of_decode rfl (decode_encodeXR 0x19 rd rs1 rs2)

theorem Encoding.chbrk (rd : BitVec 5) (rs1 : BitVec 5) (rs2 : BitVec 5) : Encoding.Statement (.chbrk rd rs1 rs2) :=
  Encoding.of_decode rfl (decode_encodeXR 0x1A rd rs1 rs2)

theorem Encoding.sbind (rd : BitVec 5) (rs1 : BitVec 5) (rs2 : BitVec 5) : Encoding.Statement (.sbind rd rs1 rs2) :=
  Encoding.of_decode rfl (decode_encodeXR 0x1B rd rs1 rs2)

theorem Encoding.sunbind (rd : BitVec 5) (rs1 : BitVec 5) (rs2 : BitVec 5) : Encoding.Statement (.sunbind rd rs1 rs2) :=
  Encoding.of_decode rfl (decode_encodeXR 0x1C rd rs1 rs2)

theorem Encoding.fenceo (rd : BitVec 5) (rs1 : BitVec 5) (rs2 : BitVec 5) : Encoding.Statement (.fenceo rd rs1 rs2) :=
  Encoding.of_decode rfl (decode_encodeXR 0x1D rd rs1 rs2)

theorem Encoding.fencee (rd : BitVec 5) (rs1 : BitVec 5) (rs2 : BitVec 5) : Encoding.Statement (.fencee rd rs1 rs2) :=
  Encoding.of_decode rfl (decode_encodeXR 0x1E rd rs1 rs2)

theorem Encoding.fencex (rd : BitVec 5) (rs1 : BitVec 5) (rs2 : BitVec 5) : Encoding.Statement (.fencex rd rs1 rs2) :=
  Encoding.of_decode rfl (decode_encodeXR 0x1F rd rs1 rs2)

theorem Encoding.hintnext (rd : BitVec 5) (rs1 : BitVec 5) (rs2 : BitVec 5) : Encoding.Statement (.hintnext rd rs1 rs2) :=
  Encoding.of_decode rfl (decode_encodeXR 0x20 rd rs1 rs2)

theorem Encoding.waitvis (rd : BitVec 5) (rs1 : BitVec 5) (rs2 : BitVec 5) : Encoding.Statement (.waitvis rd rs1 rs2) :=
  Encoding.of_decode rfl (decode_encodeXR 0x21 rd rs1 rs2)

theorem Encoding.enq (rd : BitVec 5) (rs1 : BitVec 5) (rs2 : BitVec 5) : Encoding.Statement (.enq rd rs1 rs2) :=
  Encoding.of_decode rfl (decode_encodeXR 0x22 rd rs1 rs2)

theorem Encoding.deq (rd : BitVec 5) (rs1 : BitVec 5) (rs2 : BitVec 5) : Encoding.Statement (.deq rd rs1 rs2) :=
  Encoding.of_decode rfl (decode_encodeXR 0x23 rd rs1 rs2)

theorem Encoding.enqc (rd : BitVec 5) (rs1 : BitVec 5) (rs2 : BitVec 5) : Encoding.Statement (.enqc rd rs1 rs2) :=
  Encoding.of_decode rfl (decode_encodeXR 0x24 rd rs1 rs2)

theorem Encoding.ctxsv (rd : BitVec 5) (rs1 : BitVec 5) (rs2 : BitVec 5) : Encoding.Statement (.ctxsv rd rs1 rs2) :=
  Encoding.of_decode rfl (decode_encodeXR 0x25 rd rs1 rs2)

theorem Encoding.ctxld (rd : BitVec 5) (rs1 : BitVec 5) (rs2 : BitVec 5) : Encoding.Statement (.ctxld rd rs1 rs2) :=
  Encoding.of_decode rfl (decode_encodeXR 0x26 rd rs1 rs2)

theorem Encoding.evrd (rd : BitVec 5) (rs1 : BitVec 5) (rs2 : BitVec 5) : Encoding.Statement (.evrd rd rs1 rs2) :=
  Encoding.of_decode rfl (decode_encodeXR 0x27 rd rs1 rs2)

theorem Encoding.tsnow (rd : BitVec 5) (rs1 : BitVec 5) (rs2 : BitVec 5) : Encoding.Statement (.tsnow rd rs1 rs2) :=
  Encoding.of_decode rfl (decode_encodeXR 0x28 rd rs1 rs2)

theorem Encoding.strstart (rd : BitVec 5) (rs1 : BitVec 5) (rs2 : BitVec 5) : Encoding.Statement (.strstart rd rs1 rs2) :=
  Encoding.of_decode rfl (decode_encodeXR 0x29 rd rs1 rs2)

theorem Encoding.stepend (rd : BitVec 5) (rs1 : BitVec 5) (rs2 : BitVec 5) : Encoding.Statement (.stepend rd rs1 rs2) :=
  Encoding.of_decode rfl (decode_encodeXR 0x2A rd rs1 rs2)

theorem Encoding.trapx (rd : BitVec 5) (rs1 : BitVec 5) (rs2 : BitVec 5) : Encoding.Statement (.trapx rd rs1 rs2) :=
  Encoding.of_decode rfl (decode_encodeXR 0x2B rd rs1 rs2)

theorem Encoding.rlimset (rd : BitVec 5) (rs1 : BitVec 5) (rs2 : BitVec 5) : Encoding.Statement (.rlimset rd rs1 rs2) :=
  Encoding.of_decode rfl (decode_encodeXR 0x2C rd rs1 rs2)

theorem Encoding.lui (rd : BitVec 5) (imm : BitVec 20) : Encoding.Statement (.lui rd imm) :=
  Encoding.of_decode rfl (by
    unfold decode? decodeStandard
    simp only [encodeU_op, encodeU_rd, encodeU_imm]
    rfl)

theorem Encoding.auipc (rd : BitVec 5) (imm : BitVec 20) : Encoding.Statement (.auipc rd imm) :=
  Encoding.of_decode rfl (by
    unfold decode? decodeStandard
    simp only [encodeU_op, encodeU_rd, encodeU_imm]
    rfl)

theorem Encoding.jal (rd : BitVec 5) (imm : BitVec 20) : Encoding.Statement (.jal rd imm) :=
  Encoding.of_decode rfl (by
    unfold decode? decodeStandard
    simp only [encodeJ_op, encodeJ_rd, encodeJ_b31, encodeJ_b12, encodeJ_b20, encodeJ_b21, split_J]
    rfl)

theorem Encoding.jalr (rd : BitVec 5) (rs1 : BitVec 5) (imm : BitVec 12) : Encoding.Statement (.jalr rd rs1 imm) :=
  Encoding.of_decode rfl (by
    unfold decode? decodeStandard
    simp only [encodeI_op, encodeI_rd, encodeI_f3, encodeI_rs1, encodeI_imm, encodeI_f7, encodeI_rs2]
    rfl)

theorem Encoding.beq (rs1 : BitVec 5) (rs2 : BitVec 5) (imm : BitVec 12) : Encoding.Statement (.beq rs1 rs2 imm) :=
  Encoding.of_decode rfl (by
    unfold decode? decodeStandard
    simp only [encodeB_op, encodeB_b31, encodeB_b7, encodeB_b25, encodeB_b8, encodeB_f3, encodeB_rs1, encodeB_rs2, split_B]
    rfl)

theorem Encoding.bne (rs1 : BitVec 5) (rs2 : BitVec 5) (imm : BitVec 12) : Encoding.Statement (.bne rs1 rs2 imm) :=
  Encoding.of_decode rfl (by
    unfold decode? decodeStandard
    simp only [encodeB_op, encodeB_b31, encodeB_b7, encodeB_b25, encodeB_b8, encodeB_f3, encodeB_rs1, encodeB_rs2, split_B]
    rfl)

theorem Encoding.blt (rs1 : BitVec 5) (rs2 : BitVec 5) (imm : BitVec 12) : Encoding.Statement (.blt rs1 rs2 imm) :=
  Encoding.of_decode rfl (by
    unfold decode? decodeStandard
    simp only [encodeB_op, encodeB_b31, encodeB_b7, encodeB_b25, encodeB_b8, encodeB_f3, encodeB_rs1, encodeB_rs2, split_B]
    rfl)

theorem Encoding.bge (rs1 : BitVec 5) (rs2 : BitVec 5) (imm : BitVec 12) : Encoding.Statement (.bge rs1 rs2 imm) :=
  Encoding.of_decode rfl (by
    unfold decode? decodeStandard
    simp only [encodeB_op, encodeB_b31, encodeB_b7, encodeB_b25, encodeB_b8, encodeB_f3, encodeB_rs1, encodeB_rs2, split_B]
    rfl)

theorem Encoding.bltu (rs1 : BitVec 5) (rs2 : BitVec 5) (imm : BitVec 12) : Encoding.Statement (.bltu rs1 rs2 imm) :=
  Encoding.of_decode rfl (by
    unfold decode? decodeStandard
    simp only [encodeB_op, encodeB_b31, encodeB_b7, encodeB_b25, encodeB_b8, encodeB_f3, encodeB_rs1, encodeB_rs2, split_B]
    rfl)

theorem Encoding.bgeu (rs1 : BitVec 5) (rs2 : BitVec 5) (imm : BitVec 12) : Encoding.Statement (.bgeu rs1 rs2 imm) :=
  Encoding.of_decode rfl (by
    unfold decode? decodeStandard
    simp only [encodeB_op, encodeB_b31, encodeB_b7, encodeB_b25, encodeB_b8, encodeB_f3, encodeB_rs1, encodeB_rs2, split_B]
    rfl)

theorem Encoding.lb (rd : BitVec 5) (rs1 : BitVec 5) (imm : BitVec 12) : Encoding.Statement (.lb rd rs1 imm) :=
  Encoding.of_decode rfl (by
    unfold decode? decodeStandard
    simp only [encodeI_op, encodeI_rd, encodeI_f3, encodeI_rs1, encodeI_imm, encodeI_f7, encodeI_rs2]
    rfl)

theorem Encoding.lh (rd : BitVec 5) (rs1 : BitVec 5) (imm : BitVec 12) : Encoding.Statement (.lh rd rs1 imm) :=
  Encoding.of_decode rfl (by
    unfold decode? decodeStandard
    simp only [encodeI_op, encodeI_rd, encodeI_f3, encodeI_rs1, encodeI_imm, encodeI_f7, encodeI_rs2]
    rfl)

theorem Encoding.lw (rd : BitVec 5) (rs1 : BitVec 5) (imm : BitVec 12) : Encoding.Statement (.lw rd rs1 imm) :=
  Encoding.of_decode rfl (by
    unfold decode? decodeStandard
    simp only [encodeI_op, encodeI_rd, encodeI_f3, encodeI_rs1, encodeI_imm, encodeI_f7, encodeI_rs2]
    rfl)

theorem Encoding.ld (rd : BitVec 5) (rs1 : BitVec 5) (imm : BitVec 12) : Encoding.Statement (.ld rd rs1 imm) :=
  Encoding.of_decode rfl (by
    unfold decode? decodeStandard
    simp only [encodeI_op, encodeI_rd, encodeI_f3, encodeI_rs1, encodeI_imm, encodeI_f7, encodeI_rs2]
    rfl)

theorem Encoding.lbu (rd : BitVec 5) (rs1 : BitVec 5) (imm : BitVec 12) : Encoding.Statement (.lbu rd rs1 imm) :=
  Encoding.of_decode rfl (by
    unfold decode? decodeStandard
    simp only [encodeI_op, encodeI_rd, encodeI_f3, encodeI_rs1, encodeI_imm, encodeI_f7, encodeI_rs2]
    rfl)

theorem Encoding.lhu (rd : BitVec 5) (rs1 : BitVec 5) (imm : BitVec 12) : Encoding.Statement (.lhu rd rs1 imm) :=
  Encoding.of_decode rfl (by
    unfold decode? decodeStandard
    simp only [encodeI_op, encodeI_rd, encodeI_f3, encodeI_rs1, encodeI_imm, encodeI_f7, encodeI_rs2]
    rfl)

theorem Encoding.lwu (rd : BitVec 5) (rs1 : BitVec 5) (imm : BitVec 12) : Encoding.Statement (.lwu rd rs1 imm) :=
  Encoding.of_decode rfl (by
    unfold decode? decodeStandard
    simp only [encodeI_op, encodeI_rd, encodeI_f3, encodeI_rs1, encodeI_imm, encodeI_f7, encodeI_rs2]
    rfl)

theorem Encoding.sb (rs1 : BitVec 5) (rs2 : BitVec 5) (imm : BitVec 12) : Encoding.Statement (.sb rs1 rs2 imm) :=
  Encoding.of_decode rfl (by
    unfold decode? decodeStandard
    simp only [encodeS_op, encodeS_lo, encodeS_f3, encodeS_rs1, encodeS_rs2, encodeS_hi, split_S]
    rfl)

theorem Encoding.sh (rs1 : BitVec 5) (rs2 : BitVec 5) (imm : BitVec 12) : Encoding.Statement (.sh rs1 rs2 imm) :=
  Encoding.of_decode rfl (by
    unfold decode? decodeStandard
    simp only [encodeS_op, encodeS_lo, encodeS_f3, encodeS_rs1, encodeS_rs2, encodeS_hi, split_S]
    rfl)

theorem Encoding.sw (rs1 : BitVec 5) (rs2 : BitVec 5) (imm : BitVec 12) : Encoding.Statement (.sw rs1 rs2 imm) :=
  Encoding.of_decode rfl (by
    unfold decode? decodeStandard
    simp only [encodeS_op, encodeS_lo, encodeS_f3, encodeS_rs1, encodeS_rs2, encodeS_hi, split_S]
    rfl)

theorem Encoding.sd (rs1 : BitVec 5) (rs2 : BitVec 5) (imm : BitVec 12) : Encoding.Statement (.sd rs1 rs2 imm) :=
  Encoding.of_decode rfl (by
    unfold decode? decodeStandard
    simp only [encodeS_op, encodeS_lo, encodeS_f3, encodeS_rs1, encodeS_rs2, encodeS_hi, split_S]
    rfl)

theorem Encoding.addi (rd : BitVec 5) (rs1 : BitVec 5) (imm : BitVec 12) : Encoding.Statement (.addi rd rs1 imm) :=
  Encoding.of_decode rfl (by
    unfold decode? decodeStandard
    simp only [encodeI_op, encodeI_rd, encodeI_f3, encodeI_rs1, encodeI_imm, encodeI_f7, encodeI_rs2]
    rfl)

theorem Encoding.slti (rd : BitVec 5) (rs1 : BitVec 5) (imm : BitVec 12) : Encoding.Statement (.slti rd rs1 imm) :=
  Encoding.of_decode rfl (by
    unfold decode? decodeStandard
    simp only [encodeI_op, encodeI_rd, encodeI_f3, encodeI_rs1, encodeI_imm, encodeI_f7, encodeI_rs2]
    rfl)

theorem Encoding.sltiu (rd : BitVec 5) (rs1 : BitVec 5) (imm : BitVec 12) : Encoding.Statement (.sltiu rd rs1 imm) :=
  Encoding.of_decode rfl (by
    unfold decode? decodeStandard
    simp only [encodeI_op, encodeI_rd, encodeI_f3, encodeI_rs1, encodeI_imm, encodeI_f7, encodeI_rs2]
    rfl)

theorem Encoding.xori (rd : BitVec 5) (rs1 : BitVec 5) (imm : BitVec 12) : Encoding.Statement (.xori rd rs1 imm) :=
  Encoding.of_decode rfl (by
    unfold decode? decodeStandard
    simp only [encodeI_op, encodeI_rd, encodeI_f3, encodeI_rs1, encodeI_imm, encodeI_f7, encodeI_rs2]
    rfl)

theorem Encoding.ori (rd : BitVec 5) (rs1 : BitVec 5) (imm : BitVec 12) : Encoding.Statement (.ori rd rs1 imm) :=
  Encoding.of_decode rfl (by
    unfold decode? decodeStandard
    simp only [encodeI_op, encodeI_rd, encodeI_f3, encodeI_rs1, encodeI_imm, encodeI_f7, encodeI_rs2]
    rfl)

theorem Encoding.andi (rd : BitVec 5) (rs1 : BitVec 5) (imm : BitVec 12) : Encoding.Statement (.andi rd rs1 imm) :=
  Encoding.of_decode rfl (by
    unfold decode? decodeStandard
    simp only [encodeI_op, encodeI_rd, encodeI_f3, encodeI_rs1, encodeI_imm, encodeI_f7, encodeI_rs2]
    rfl)

theorem Encoding.slli (rd : BitVec 5) (rs1 : BitVec 5) (sh : BitVec 6) : Encoding.Statement (.slli rd rs1 sh) :=
  Encoding.of_decode rfl (by
    refine Eq.trans (decode_opImm _ _ _ _) ?_
    show decodeOpImmShift1 _ _ _ = _
    unfold decodeOpImmShift1
    split <;> first | (rename_i h; rw [append_toNat] at h; simp only [BitVec.toNat_ofNat] at h; omega) | simp_all [shift6_hi, shift6_lo, shift5_hi, shift5_lo, shift5_hi6])

theorem Encoding.srli (rd : BitVec 5) (rs1 : BitVec 5) (sh : BitVec 6) : Encoding.Statement (.srli rd rs1 sh) :=
  Encoding.of_decode rfl (by
    refine Eq.trans (decode_opImm _ _ _ _) ?_
    show decodeOpImmShift5 _ _ _ = _
    unfold decodeOpImmShift5
    split <;> first | (rename_i h; rw [append_toNat] at h; simp only [BitVec.toNat_ofNat] at h; omega) | simp_all [shift6_hi, shift6_lo, shift5_hi, shift5_lo, shift5_hi6])

theorem Encoding.srai (rd : BitVec 5) (rs1 : BitVec 5) (sh : BitVec 6) : Encoding.Statement (.srai rd rs1 sh) :=
  Encoding.of_decode rfl (by
    refine Eq.trans (decode_opImm _ _ _ _) ?_
    show decodeOpImmShift5 _ _ _ = _
    unfold decodeOpImmShift5
    split <;> first | (rename_i h; rw [append_toNat] at h; simp only [BitVec.toNat_ofNat] at h; omega) | simp_all [shift6_hi, shift6_lo, shift5_hi, shift5_lo, shift5_hi6])

theorem Encoding.add (rd : BitVec 5) (rs1 : BitVec 5) (rs2 : BitVec 5) : Encoding.Statement (.add rd rs1 rs2) :=
  Encoding.of_decode rfl (by
    unfold decode? decodeStandard
    simp only [encodeR_op, encodeR_rd, encodeR_f3, encodeR_rs1, encodeR_rs2, encodeR_f7, encodeR_f5, encodeR_aq, encodeR_rl, encodeR_imm]
    rfl)

theorem Encoding.sub (rd : BitVec 5) (rs1 : BitVec 5) (rs2 : BitVec 5) : Encoding.Statement (.sub rd rs1 rs2) :=
  Encoding.of_decode rfl (by
    unfold decode? decodeStandard
    simp only [encodeR_op, encodeR_rd, encodeR_f3, encodeR_rs1, encodeR_rs2, encodeR_f7, encodeR_f5, encodeR_aq, encodeR_rl, encodeR_imm]
    rfl)

theorem Encoding.sll (rd : BitVec 5) (rs1 : BitVec 5) (rs2 : BitVec 5) : Encoding.Statement (.sll rd rs1 rs2) :=
  Encoding.of_decode rfl (by
    unfold decode? decodeStandard
    simp only [encodeR_op, encodeR_rd, encodeR_f3, encodeR_rs1, encodeR_rs2, encodeR_f7, encodeR_f5, encodeR_aq, encodeR_rl, encodeR_imm]
    rfl)

theorem Encoding.slt (rd : BitVec 5) (rs1 : BitVec 5) (rs2 : BitVec 5) : Encoding.Statement (.slt rd rs1 rs2) :=
  Encoding.of_decode rfl (by
    unfold decode? decodeStandard
    simp only [encodeR_op, encodeR_rd, encodeR_f3, encodeR_rs1, encodeR_rs2, encodeR_f7, encodeR_f5, encodeR_aq, encodeR_rl, encodeR_imm]
    rfl)

theorem Encoding.sltu (rd : BitVec 5) (rs1 : BitVec 5) (rs2 : BitVec 5) : Encoding.Statement (.sltu rd rs1 rs2) :=
  Encoding.of_decode rfl (by
    unfold decode? decodeStandard
    simp only [encodeR_op, encodeR_rd, encodeR_f3, encodeR_rs1, encodeR_rs2, encodeR_f7, encodeR_f5, encodeR_aq, encodeR_rl, encodeR_imm]
    rfl)

theorem Encoding.xor (rd : BitVec 5) (rs1 : BitVec 5) (rs2 : BitVec 5) : Encoding.Statement (.xor rd rs1 rs2) :=
  Encoding.of_decode rfl (by
    unfold decode? decodeStandard
    simp only [encodeR_op, encodeR_rd, encodeR_f3, encodeR_rs1, encodeR_rs2, encodeR_f7, encodeR_f5, encodeR_aq, encodeR_rl, encodeR_imm]
    rfl)

theorem Encoding.srl (rd : BitVec 5) (rs1 : BitVec 5) (rs2 : BitVec 5) : Encoding.Statement (.srl rd rs1 rs2) :=
  Encoding.of_decode rfl (by
    unfold decode? decodeStandard
    simp only [encodeR_op, encodeR_rd, encodeR_f3, encodeR_rs1, encodeR_rs2, encodeR_f7, encodeR_f5, encodeR_aq, encodeR_rl, encodeR_imm]
    rfl)

theorem Encoding.sra (rd : BitVec 5) (rs1 : BitVec 5) (rs2 : BitVec 5) : Encoding.Statement (.sra rd rs1 rs2) :=
  Encoding.of_decode rfl (by
    unfold decode? decodeStandard
    simp only [encodeR_op, encodeR_rd, encodeR_f3, encodeR_rs1, encodeR_rs2, encodeR_f7, encodeR_f5, encodeR_aq, encodeR_rl, encodeR_imm]
    rfl)

theorem Encoding.or (rd : BitVec 5) (rs1 : BitVec 5) (rs2 : BitVec 5) : Encoding.Statement (.or rd rs1 rs2) :=
  Encoding.of_decode rfl (by
    unfold decode? decodeStandard
    simp only [encodeR_op, encodeR_rd, encodeR_f3, encodeR_rs1, encodeR_rs2, encodeR_f7, encodeR_f5, encodeR_aq, encodeR_rl, encodeR_imm]
    rfl)

theorem Encoding.and (rd : BitVec 5) (rs1 : BitVec 5) (rs2 : BitVec 5) : Encoding.Statement (.and rd rs1 rs2) :=
  Encoding.of_decode rfl (by
    unfold decode? decodeStandard
    simp only [encodeR_op, encodeR_rd, encodeR_f3, encodeR_rs1, encodeR_rs2, encodeR_f7, encodeR_f5, encodeR_aq, encodeR_rl, encodeR_imm]
    rfl)

theorem Encoding.addiw (rd : BitVec 5) (rs1 : BitVec 5) (imm : BitVec 12) : Encoding.Statement (.addiw rd rs1 imm) :=
  Encoding.of_decode rfl (by
    unfold decode? decodeStandard
    simp only [encodeI_op, encodeI_rd, encodeI_f3, encodeI_rs1, encodeI_imm, encodeI_f7, encodeI_rs2]
    rfl)

theorem Encoding.slliw (rd : BitVec 5) (rs1 : BitVec 5) (sh : BitVec 5) : Encoding.Statement (.slliw rd rs1 sh) :=
  Encoding.of_decode rfl (by
    refine Eq.trans (decode_opImm32 _ _ _ _) ?_
    show decodeOpImm32Shift1 _ _ _ = _
    unfold decodeOpImm32Shift1
    split <;> first | (rename_i h; rw [append_toNat] at h; simp only [BitVec.toNat_ofNat] at h; omega) | simp_all [shift6_hi, shift6_lo, shift5_hi, shift5_lo, shift5_hi6])

theorem Encoding.srliw (rd : BitVec 5) (rs1 : BitVec 5) (sh : BitVec 5) : Encoding.Statement (.srliw rd rs1 sh) :=
  Encoding.of_decode rfl (by
    refine Eq.trans (decode_opImm32 _ _ _ _) ?_
    show decodeOpImm32Shift5 _ _ _ = _
    unfold decodeOpImm32Shift5
    split <;> first | (rename_i h; rw [append_toNat] at h; simp only [BitVec.toNat_ofNat] at h; omega) | simp_all [shift6_hi, shift6_lo, shift5_hi, shift5_lo, shift5_hi6])

theorem Encoding.sraiw (rd : BitVec 5) (rs1 : BitVec 5) (sh : BitVec 5) : Encoding.Statement (.sraiw rd rs1 sh) :=
  Encoding.of_decode rfl (by
    refine Eq.trans (decode_opImm32 _ _ _ _) ?_
    show decodeOpImm32Shift5 _ _ _ = _
    unfold decodeOpImm32Shift5
    split <;> first | (rename_i h; rw [append_toNat] at h; simp only [BitVec.toNat_ofNat] at h; omega) | simp_all [shift6_hi, shift6_lo, shift5_hi, shift5_lo, shift5_hi6])

theorem Encoding.addw (rd : BitVec 5) (rs1 : BitVec 5) (rs2 : BitVec 5) : Encoding.Statement (.addw rd rs1 rs2) :=
  Encoding.of_decode rfl (by
    unfold decode? decodeStandard
    simp only [encodeR_op, encodeR_rd, encodeR_f3, encodeR_rs1, encodeR_rs2, encodeR_f7, encodeR_f5, encodeR_aq, encodeR_rl, encodeR_imm]
    rfl)

theorem Encoding.subw (rd : BitVec 5) (rs1 : BitVec 5) (rs2 : BitVec 5) : Encoding.Statement (.subw rd rs1 rs2) :=
  Encoding.of_decode rfl (by
    unfold decode? decodeStandard
    simp only [encodeR_op, encodeR_rd, encodeR_f3, encodeR_rs1, encodeR_rs2, encodeR_f7, encodeR_f5, encodeR_aq, encodeR_rl, encodeR_imm]
    rfl)

theorem Encoding.sllw (rd : BitVec 5) (rs1 : BitVec 5) (rs2 : BitVec 5) : Encoding.Statement (.sllw rd rs1 rs2) :=
  Encoding.of_decode rfl (by
    unfold decode? decodeStandard
    simp only [encodeR_op, encodeR_rd, encodeR_f3, encodeR_rs1, encodeR_rs2, encodeR_f7, encodeR_f5, encodeR_aq, encodeR_rl, encodeR_imm]
    rfl)

theorem Encoding.srlw (rd : BitVec 5) (rs1 : BitVec 5) (rs2 : BitVec 5) : Encoding.Statement (.srlw rd rs1 rs2) :=
  Encoding.of_decode rfl (by
    unfold decode? decodeStandard
    simp only [encodeR_op, encodeR_rd, encodeR_f3, encodeR_rs1, encodeR_rs2, encodeR_f7, encodeR_f5, encodeR_aq, encodeR_rl, encodeR_imm]
    rfl)

theorem Encoding.sraw (rd : BitVec 5) (rs1 : BitVec 5) (rs2 : BitVec 5) : Encoding.Statement (.sraw rd rs1 rs2) :=
  Encoding.of_decode rfl (by
    unfold decode? decodeStandard
    simp only [encodeR_op, encodeR_rd, encodeR_f3, encodeR_rs1, encodeR_rs2, encodeR_f7, encodeR_f5, encodeR_aq, encodeR_rl, encodeR_imm]
    rfl)

theorem Encoding.fence (rd : BitVec 5) (rs1 : BitVec 5) (imm : BitVec 12) : Encoding.Statement (.fence rd rs1 imm) :=
  Encoding.of_decode rfl (by
    unfold decode? decodeStandard
    simp only [encodeI_op, encodeI_rd, encodeI_f3, encodeI_rs1, encodeI_imm, encodeI_f7, encodeI_rs2]
    rfl)

theorem Encoding.fenceI (rd : BitVec 5) (rs1 : BitVec 5) (imm : BitVec 12) : Encoding.Statement (.fenceI rd rs1 imm) :=
  Encoding.of_decode rfl (by
    unfold decode? decodeStandard
    simp only [encodeI_op, encodeI_rd, encodeI_f3, encodeI_rs1, encodeI_imm, encodeI_f7, encodeI_rs2]
    rfl)

theorem Encoding.ecall : Encoding.Statement .ecall :=
  Encoding.of_decode rfl (by decide +kernel)

theorem Encoding.ebreak : Encoding.Statement .ebreak :=
  Encoding.of_decode rfl (by decide +kernel)

theorem Encoding.mul (rd : BitVec 5) (rs1 : BitVec 5) (rs2 : BitVec 5) : Encoding.Statement (.mul rd rs1 rs2) :=
  Encoding.of_decode rfl (by
    unfold decode? decodeStandard
    simp only [encodeR_op, encodeR_rd, encodeR_f3, encodeR_rs1, encodeR_rs2, encodeR_f7, encodeR_f5, encodeR_aq, encodeR_rl, encodeR_imm]
    rfl)

theorem Encoding.mulh (rd : BitVec 5) (rs1 : BitVec 5) (rs2 : BitVec 5) : Encoding.Statement (.mulh rd rs1 rs2) :=
  Encoding.of_decode rfl (by
    unfold decode? decodeStandard
    simp only [encodeR_op, encodeR_rd, encodeR_f3, encodeR_rs1, encodeR_rs2, encodeR_f7, encodeR_f5, encodeR_aq, encodeR_rl, encodeR_imm]
    rfl)

theorem Encoding.mulhsu (rd : BitVec 5) (rs1 : BitVec 5) (rs2 : BitVec 5) : Encoding.Statement (.mulhsu rd rs1 rs2) :=
  Encoding.of_decode rfl (by
    unfold decode? decodeStandard
    simp only [encodeR_op, encodeR_rd, encodeR_f3, encodeR_rs1, encodeR_rs2, encodeR_f7, encodeR_f5, encodeR_aq, encodeR_rl, encodeR_imm]
    rfl)

theorem Encoding.mulhu (rd : BitVec 5) (rs1 : BitVec 5) (rs2 : BitVec 5) : Encoding.Statement (.mulhu rd rs1 rs2) :=
  Encoding.of_decode rfl (by
    unfold decode? decodeStandard
    simp only [encodeR_op, encodeR_rd, encodeR_f3, encodeR_rs1, encodeR_rs2, encodeR_f7, encodeR_f5, encodeR_aq, encodeR_rl, encodeR_imm]
    rfl)

theorem Encoding.div (rd : BitVec 5) (rs1 : BitVec 5) (rs2 : BitVec 5) : Encoding.Statement (.div rd rs1 rs2) :=
  Encoding.of_decode rfl (by
    unfold decode? decodeStandard
    simp only [encodeR_op, encodeR_rd, encodeR_f3, encodeR_rs1, encodeR_rs2, encodeR_f7, encodeR_f5, encodeR_aq, encodeR_rl, encodeR_imm]
    rfl)

theorem Encoding.divu (rd : BitVec 5) (rs1 : BitVec 5) (rs2 : BitVec 5) : Encoding.Statement (.divu rd rs1 rs2) :=
  Encoding.of_decode rfl (by
    unfold decode? decodeStandard
    simp only [encodeR_op, encodeR_rd, encodeR_f3, encodeR_rs1, encodeR_rs2, encodeR_f7, encodeR_f5, encodeR_aq, encodeR_rl, encodeR_imm]
    rfl)

theorem Encoding.rem (rd : BitVec 5) (rs1 : BitVec 5) (rs2 : BitVec 5) : Encoding.Statement (.rem rd rs1 rs2) :=
  Encoding.of_decode rfl (by
    unfold decode? decodeStandard
    simp only [encodeR_op, encodeR_rd, encodeR_f3, encodeR_rs1, encodeR_rs2, encodeR_f7, encodeR_f5, encodeR_aq, encodeR_rl, encodeR_imm]
    rfl)

theorem Encoding.remu (rd : BitVec 5) (rs1 : BitVec 5) (rs2 : BitVec 5) : Encoding.Statement (.remu rd rs1 rs2) :=
  Encoding.of_decode rfl (by
    unfold decode? decodeStandard
    simp only [encodeR_op, encodeR_rd, encodeR_f3, encodeR_rs1, encodeR_rs2, encodeR_f7, encodeR_f5, encodeR_aq, encodeR_rl, encodeR_imm]
    rfl)

theorem Encoding.mulw (rd : BitVec 5) (rs1 : BitVec 5) (rs2 : BitVec 5) : Encoding.Statement (.mulw rd rs1 rs2) :=
  Encoding.of_decode rfl (by
    unfold decode? decodeStandard
    simp only [encodeR_op, encodeR_rd, encodeR_f3, encodeR_rs1, encodeR_rs2, encodeR_f7, encodeR_f5, encodeR_aq, encodeR_rl, encodeR_imm]
    rfl)

theorem Encoding.divw (rd : BitVec 5) (rs1 : BitVec 5) (rs2 : BitVec 5) : Encoding.Statement (.divw rd rs1 rs2) :=
  Encoding.of_decode rfl (by
    unfold decode? decodeStandard
    simp only [encodeR_op, encodeR_rd, encodeR_f3, encodeR_rs1, encodeR_rs2, encodeR_f7, encodeR_f5, encodeR_aq, encodeR_rl, encodeR_imm]
    rfl)

theorem Encoding.divuw (rd : BitVec 5) (rs1 : BitVec 5) (rs2 : BitVec 5) : Encoding.Statement (.divuw rd rs1 rs2) :=
  Encoding.of_decode rfl (by
    unfold decode? decodeStandard
    simp only [encodeR_op, encodeR_rd, encodeR_f3, encodeR_rs1, encodeR_rs2, encodeR_f7, encodeR_f5, encodeR_aq, encodeR_rl, encodeR_imm]
    rfl)

theorem Encoding.remw (rd : BitVec 5) (rs1 : BitVec 5) (rs2 : BitVec 5) : Encoding.Statement (.remw rd rs1 rs2) :=
  Encoding.of_decode rfl (by
    unfold decode? decodeStandard
    simp only [encodeR_op, encodeR_rd, encodeR_f3, encodeR_rs1, encodeR_rs2, encodeR_f7, encodeR_f5, encodeR_aq, encodeR_rl, encodeR_imm]
    rfl)

theorem Encoding.remuw (rd : BitVec 5) (rs1 : BitVec 5) (rs2 : BitVec 5) : Encoding.Statement (.remuw rd rs1 rs2) :=
  Encoding.of_decode rfl (by
    unfold decode? decodeStandard
    simp only [encodeR_op, encodeR_rd, encodeR_f3, encodeR_rs1, encodeR_rs2, encodeR_f7, encodeR_f5, encodeR_aq, encodeR_rl, encodeR_imm]
    rfl)

theorem Encoding.lrW (rd : BitVec 5) (rs1 : BitVec 5) (aq : BitVec 1) (rl : BitVec 1) :
    Encoding.Statement (.lrW rd rs1 aq rl) :=
  Encoding.of_decode rfl (by
    unfold decode? decodeStandard
    simp only [encodeR_op, encodeR_rd, encodeR_f3, encodeR_rs1, encodeR_rs2, encodeR_f7, encodeR_f5, encodeR_aq, encodeR_rl, encodeR_imm, amo_f5, amo_aq, amo_rl]
    rfl)

theorem Encoding.lrD (rd : BitVec 5) (rs1 : BitVec 5) (aq : BitVec 1) (rl : BitVec 1) :
    Encoding.Statement (.lrD rd rs1 aq rl) :=
  Encoding.of_decode rfl (by
    unfold decode? decodeStandard
    simp only [encodeR_op, encodeR_rd, encodeR_f3, encodeR_rs1, encodeR_rs2, encodeR_f7, encodeR_f5, encodeR_aq, encodeR_rl, encodeR_imm, amo_f5, amo_aq, amo_rl]
    rfl)

theorem Encoding.scW (rd : BitVec 5) (rs1 : BitVec 5) (rs2 : BitVec 5) (aq : BitVec 1) (rl : BitVec 1) :
    Encoding.Statement (.scW rd rs1 rs2 aq rl) :=
  Encoding.of_decode rfl (by
    unfold decode? decodeStandard
    simp only [encodeR_op, encodeR_rd, encodeR_f3, encodeR_rs1, encodeR_rs2, encodeR_f7, encodeR_f5, encodeR_aq, encodeR_rl, encodeR_imm, amo_f5, amo_aq, amo_rl]
    rfl)

theorem Encoding.scD (rd : BitVec 5) (rs1 : BitVec 5) (rs2 : BitVec 5) (aq : BitVec 1) (rl : BitVec 1) :
    Encoding.Statement (.scD rd rs1 rs2 aq rl) :=
  Encoding.of_decode rfl (by
    unfold decode? decodeStandard
    simp only [encodeR_op, encodeR_rd, encodeR_f3, encodeR_rs1, encodeR_rs2, encodeR_f7, encodeR_f5, encodeR_aq, encodeR_rl, encodeR_imm, amo_f5, amo_aq, amo_rl]
    rfl)

theorem Encoding.amoswapW (rd : BitVec 5) (rs1 : BitVec 5) (rs2 : BitVec 5) (aq : BitVec 1) (rl : BitVec 1) :
    Encoding.Statement (.amoswapW rd rs1 rs2 aq rl) :=
  Encoding.of_decode rfl (by
    unfold decode? decodeStandard
    simp only [encodeR_op, encodeR_rd, encodeR_f3, encodeR_rs1, encodeR_rs2, encodeR_f7, encodeR_f5, encodeR_aq, encodeR_rl, encodeR_imm, amo_f5, amo_aq, amo_rl]
    rfl)

theorem Encoding.amoswapD (rd : BitVec 5) (rs1 : BitVec 5) (rs2 : BitVec 5) (aq : BitVec 1) (rl : BitVec 1) :
    Encoding.Statement (.amoswapD rd rs1 rs2 aq rl) :=
  Encoding.of_decode rfl (by
    unfold decode? decodeStandard
    simp only [encodeR_op, encodeR_rd, encodeR_f3, encodeR_rs1, encodeR_rs2, encodeR_f7, encodeR_f5, encodeR_aq, encodeR_rl, encodeR_imm, amo_f5, amo_aq, amo_rl]
    rfl)

theorem Encoding.amoaddW (rd : BitVec 5) (rs1 : BitVec 5) (rs2 : BitVec 5) (aq : BitVec 1) (rl : BitVec 1) :
    Encoding.Statement (.amoaddW rd rs1 rs2 aq rl) :=
  Encoding.of_decode rfl (by
    unfold decode? decodeStandard
    simp only [encodeR_op, encodeR_rd, encodeR_f3, encodeR_rs1, encodeR_rs2, encodeR_f7, encodeR_f5, encodeR_aq, encodeR_rl, encodeR_imm, amo_f5, amo_aq, amo_rl]
    rfl)

theorem Encoding.amoaddD (rd : BitVec 5) (rs1 : BitVec 5) (rs2 : BitVec 5) (aq : BitVec 1) (rl : BitVec 1) :
    Encoding.Statement (.amoaddD rd rs1 rs2 aq rl) :=
  Encoding.of_decode rfl (by
    unfold decode? decodeStandard
    simp only [encodeR_op, encodeR_rd, encodeR_f3, encodeR_rs1, encodeR_rs2, encodeR_f7, encodeR_f5, encodeR_aq, encodeR_rl, encodeR_imm, amo_f5, amo_aq, amo_rl]
    rfl)

theorem Encoding.amoxorW (rd : BitVec 5) (rs1 : BitVec 5) (rs2 : BitVec 5) (aq : BitVec 1) (rl : BitVec 1) :
    Encoding.Statement (.amoxorW rd rs1 rs2 aq rl) :=
  Encoding.of_decode rfl (by
    unfold decode? decodeStandard
    simp only [encodeR_op, encodeR_rd, encodeR_f3, encodeR_rs1, encodeR_rs2, encodeR_f7, encodeR_f5, encodeR_aq, encodeR_rl, encodeR_imm, amo_f5, amo_aq, amo_rl]
    rfl)

theorem Encoding.amoxorD (rd : BitVec 5) (rs1 : BitVec 5) (rs2 : BitVec 5) (aq : BitVec 1) (rl : BitVec 1) :
    Encoding.Statement (.amoxorD rd rs1 rs2 aq rl) :=
  Encoding.of_decode rfl (by
    unfold decode? decodeStandard
    simp only [encodeR_op, encodeR_rd, encodeR_f3, encodeR_rs1, encodeR_rs2, encodeR_f7, encodeR_f5, encodeR_aq, encodeR_rl, encodeR_imm, amo_f5, amo_aq, amo_rl]
    rfl)

theorem Encoding.amoandW (rd : BitVec 5) (rs1 : BitVec 5) (rs2 : BitVec 5) (aq : BitVec 1) (rl : BitVec 1) :
    Encoding.Statement (.amoandW rd rs1 rs2 aq rl) :=
  Encoding.of_decode rfl (by
    unfold decode? decodeStandard
    simp only [encodeR_op, encodeR_rd, encodeR_f3, encodeR_rs1, encodeR_rs2, encodeR_f7, encodeR_f5, encodeR_aq, encodeR_rl, encodeR_imm, amo_f5, amo_aq, amo_rl]
    rfl)

theorem Encoding.amoandD (rd : BitVec 5) (rs1 : BitVec 5) (rs2 : BitVec 5) (aq : BitVec 1) (rl : BitVec 1) :
    Encoding.Statement (.amoandD rd rs1 rs2 aq rl) :=
  Encoding.of_decode rfl (by
    unfold decode? decodeStandard
    simp only [encodeR_op, encodeR_rd, encodeR_f3, encodeR_rs1, encodeR_rs2, encodeR_f7, encodeR_f5, encodeR_aq, encodeR_rl, encodeR_imm, amo_f5, amo_aq, amo_rl]
    rfl)

theorem Encoding.amoorW (rd : BitVec 5) (rs1 : BitVec 5) (rs2 : BitVec 5) (aq : BitVec 1) (rl : BitVec 1) :
    Encoding.Statement (.amoorW rd rs1 rs2 aq rl) :=
  Encoding.of_decode rfl (by
    unfold decode? decodeStandard
    simp only [encodeR_op, encodeR_rd, encodeR_f3, encodeR_rs1, encodeR_rs2, encodeR_f7, encodeR_f5, encodeR_aq, encodeR_rl, encodeR_imm, amo_f5, amo_aq, amo_rl]
    rfl)

theorem Encoding.amoorD (rd : BitVec 5) (rs1 : BitVec 5) (rs2 : BitVec 5) (aq : BitVec 1) (rl : BitVec 1) :
    Encoding.Statement (.amoorD rd rs1 rs2 aq rl) :=
  Encoding.of_decode rfl (by
    unfold decode? decodeStandard
    simp only [encodeR_op, encodeR_rd, encodeR_f3, encodeR_rs1, encodeR_rs2, encodeR_f7, encodeR_f5, encodeR_aq, encodeR_rl, encodeR_imm, amo_f5, amo_aq, amo_rl]
    rfl)

theorem Encoding.amominW (rd : BitVec 5) (rs1 : BitVec 5) (rs2 : BitVec 5) (aq : BitVec 1) (rl : BitVec 1) :
    Encoding.Statement (.amominW rd rs1 rs2 aq rl) :=
  Encoding.of_decode rfl (by
    unfold decode? decodeStandard
    simp only [encodeR_op, encodeR_rd, encodeR_f3, encodeR_rs1, encodeR_rs2, encodeR_f7, encodeR_f5, encodeR_aq, encodeR_rl, encodeR_imm, amo_f5, amo_aq, amo_rl]
    rfl)

theorem Encoding.amominD (rd : BitVec 5) (rs1 : BitVec 5) (rs2 : BitVec 5) (aq : BitVec 1) (rl : BitVec 1) :
    Encoding.Statement (.amominD rd rs1 rs2 aq rl) :=
  Encoding.of_decode rfl (by
    unfold decode? decodeStandard
    simp only [encodeR_op, encodeR_rd, encodeR_f3, encodeR_rs1, encodeR_rs2, encodeR_f7, encodeR_f5, encodeR_aq, encodeR_rl, encodeR_imm, amo_f5, amo_aq, amo_rl]
    rfl)

theorem Encoding.amomaxW (rd : BitVec 5) (rs1 : BitVec 5) (rs2 : BitVec 5) (aq : BitVec 1) (rl : BitVec 1) :
    Encoding.Statement (.amomaxW rd rs1 rs2 aq rl) :=
  Encoding.of_decode rfl (by
    unfold decode? decodeStandard
    simp only [encodeR_op, encodeR_rd, encodeR_f3, encodeR_rs1, encodeR_rs2, encodeR_f7, encodeR_f5, encodeR_aq, encodeR_rl, encodeR_imm, amo_f5, amo_aq, amo_rl]
    rfl)

theorem Encoding.amomaxD (rd : BitVec 5) (rs1 : BitVec 5) (rs2 : BitVec 5) (aq : BitVec 1) (rl : BitVec 1) :
    Encoding.Statement (.amomaxD rd rs1 rs2 aq rl) :=
  Encoding.of_decode rfl (by
    unfold decode? decodeStandard
    simp only [encodeR_op, encodeR_rd, encodeR_f3, encodeR_rs1, encodeR_rs2, encodeR_f7, encodeR_f5, encodeR_aq, encodeR_rl, encodeR_imm, amo_f5, amo_aq, amo_rl]
    rfl)

theorem Encoding.amominuW (rd : BitVec 5) (rs1 : BitVec 5) (rs2 : BitVec 5) (aq : BitVec 1) (rl : BitVec 1) :
    Encoding.Statement (.amominuW rd rs1 rs2 aq rl) :=
  Encoding.of_decode rfl (by
    unfold decode? decodeStandard
    simp only [encodeR_op, encodeR_rd, encodeR_f3, encodeR_rs1, encodeR_rs2, encodeR_f7, encodeR_f5, encodeR_aq, encodeR_rl, encodeR_imm, amo_f5, amo_aq, amo_rl]
    rfl)

theorem Encoding.amominuD (rd : BitVec 5) (rs1 : BitVec 5) (rs2 : BitVec 5) (aq : BitVec 1) (rl : BitVec 1) :
    Encoding.Statement (.amominuD rd rs1 rs2 aq rl) :=
  Encoding.of_decode rfl (by
    unfold decode? decodeStandard
    simp only [encodeR_op, encodeR_rd, encodeR_f3, encodeR_rs1, encodeR_rs2, encodeR_f7, encodeR_f5, encodeR_aq, encodeR_rl, encodeR_imm, amo_f5, amo_aq, amo_rl]
    rfl)

theorem Encoding.amomaxuW (rd : BitVec 5) (rs1 : BitVec 5) (rs2 : BitVec 5) (aq : BitVec 1) (rl : BitVec 1) :
    Encoding.Statement (.amomaxuW rd rs1 rs2 aq rl) :=
  Encoding.of_decode rfl (by
    unfold decode? decodeStandard
    simp only [encodeR_op, encodeR_rd, encodeR_f3, encodeR_rs1, encodeR_rs2, encodeR_f7, encodeR_f5, encodeR_aq, encodeR_rl, encodeR_imm, amo_f5, amo_aq, amo_rl]
    rfl)

theorem Encoding.amomaxuD (rd : BitVec 5) (rs1 : BitVec 5) (rs2 : BitVec 5) (aq : BitVec 1) (rl : BitVec 1) :
    Encoding.Statement (.amomaxuD rd rs1 rs2 aq rl) :=
  Encoding.of_decode rfl (by
    unfold decode? decodeStandard
    simp only [encodeR_op, encodeR_rd, encodeR_f3, encodeR_rs1, encodeR_rs2, encodeR_f7, encodeR_f5, encodeR_aq, encodeR_rl, encodeR_imm, amo_f5, amo_aq, amo_rl]
    rfl)

theorem Encoding.csrrw (rd : BitVec 5) (csr : BitVec 12) (rs1 : BitVec 5) : Encoding.Statement (.csrrw rd csr rs1) :=
  Encoding.of_decode rfl (by
    unfold decode? decodeStandard
    simp only [encodeI_op, encodeI_rd, encodeI_f3, encodeI_rs1, encodeI_imm, encodeI_f7, encodeI_rs2]
    rfl)

theorem Encoding.csrrs (rd : BitVec 5) (csr : BitVec 12) (rs1 : BitVec 5) : Encoding.Statement (.csrrs rd csr rs1) :=
  Encoding.of_decode rfl (by
    unfold decode? decodeStandard
    simp only [encodeI_op, encodeI_rd, encodeI_f3, encodeI_rs1, encodeI_imm, encodeI_f7, encodeI_rs2]
    rfl)

theorem Encoding.csrrc (rd : BitVec 5) (csr : BitVec 12) (rs1 : BitVec 5) : Encoding.Statement (.csrrc rd csr rs1) :=
  Encoding.of_decode rfl (by
    unfold decode? decodeStandard
    simp only [encodeI_op, encodeI_rd, encodeI_f3, encodeI_rs1, encodeI_imm, encodeI_f7, encodeI_rs2]
    rfl)

theorem Encoding.csrrwi (rd : BitVec 5) (csr : BitVec 12) (rs1 : BitVec 5) : Encoding.Statement (.csrrwi rd csr rs1) :=
  Encoding.of_decode rfl (by
    unfold decode? decodeStandard
    simp only [encodeI_op, encodeI_rd, encodeI_f3, encodeI_rs1, encodeI_imm, encodeI_f7, encodeI_rs2]
    rfl)

theorem Encoding.csrrsi (rd : BitVec 5) (csr : BitVec 12) (rs1 : BitVec 5) : Encoding.Statement (.csrrsi rd csr rs1) :=
  Encoding.of_decode rfl (by
    unfold decode? decodeStandard
    simp only [encodeI_op, encodeI_rd, encodeI_f3, encodeI_rs1, encodeI_imm, encodeI_f7, encodeI_rs2]
    rfl)

theorem Encoding.csrrci (rd : BitVec 5) (csr : BitVec 12) (rs1 : BitVec 5) : Encoding.Statement (.csrrci rd csr rs1) :=
  Encoding.of_decode rfl (by
    unfold decode? decodeStandard
    simp only [encodeI_op, encodeI_rd, encodeI_f3, encodeI_rs1, encodeI_imm, encodeI_f7, encodeI_rs2]
    rfl)

theorem Encoding.addUw (rd : BitVec 5) (rs1 : BitVec 5) (rs2 : BitVec 5) : Encoding.Statement (.addUw rd rs1 rs2) :=
  Encoding.of_decode rfl (by
    unfold decode? decodeStandard
    simp only [encodeR_op, encodeR_rd, encodeR_f3, encodeR_rs1, encodeR_rs2, encodeR_f7, encodeR_f5, encodeR_aq, encodeR_rl, encodeR_imm]
    rfl)

theorem Encoding.sh1add (rd : BitVec 5) (rs1 : BitVec 5) (rs2 : BitVec 5) : Encoding.Statement (.sh1add rd rs1 rs2) :=
  Encoding.of_decode rfl (by
    unfold decode? decodeStandard
    simp only [encodeR_op, encodeR_rd, encodeR_f3, encodeR_rs1, encodeR_rs2, encodeR_f7, encodeR_f5, encodeR_aq, encodeR_rl, encodeR_imm]
    rfl)

theorem Encoding.sh2add (rd : BitVec 5) (rs1 : BitVec 5) (rs2 : BitVec 5) : Encoding.Statement (.sh2add rd rs1 rs2) :=
  Encoding.of_decode rfl (by
    unfold decode? decodeStandard
    simp only [encodeR_op, encodeR_rd, encodeR_f3, encodeR_rs1, encodeR_rs2, encodeR_f7, encodeR_f5, encodeR_aq, encodeR_rl, encodeR_imm]
    rfl)

theorem Encoding.sh3add (rd : BitVec 5) (rs1 : BitVec 5) (rs2 : BitVec 5) : Encoding.Statement (.sh3add rd rs1 rs2) :=
  Encoding.of_decode rfl (by
    unfold decode? decodeStandard
    simp only [encodeR_op, encodeR_rd, encodeR_f3, encodeR_rs1, encodeR_rs2, encodeR_f7, encodeR_f5, encodeR_aq, encodeR_rl, encodeR_imm]
    rfl)

theorem Encoding.sh1addUw (rd : BitVec 5) (rs1 : BitVec 5) (rs2 : BitVec 5) : Encoding.Statement (.sh1addUw rd rs1 rs2) :=
  Encoding.of_decode rfl (by
    unfold decode? decodeStandard
    simp only [encodeR_op, encodeR_rd, encodeR_f3, encodeR_rs1, encodeR_rs2, encodeR_f7, encodeR_f5, encodeR_aq, encodeR_rl, encodeR_imm]
    rfl)

theorem Encoding.sh2addUw (rd : BitVec 5) (rs1 : BitVec 5) (rs2 : BitVec 5) : Encoding.Statement (.sh2addUw rd rs1 rs2) :=
  Encoding.of_decode rfl (by
    unfold decode? decodeStandard
    simp only [encodeR_op, encodeR_rd, encodeR_f3, encodeR_rs1, encodeR_rs2, encodeR_f7, encodeR_f5, encodeR_aq, encodeR_rl, encodeR_imm]
    rfl)

theorem Encoding.sh3addUw (rd : BitVec 5) (rs1 : BitVec 5) (rs2 : BitVec 5) : Encoding.Statement (.sh3addUw rd rs1 rs2) :=
  Encoding.of_decode rfl (by
    unfold decode? decodeStandard
    simp only [encodeR_op, encodeR_rd, encodeR_f3, encodeR_rs1, encodeR_rs2, encodeR_f7, encodeR_f5, encodeR_aq, encodeR_rl, encodeR_imm]
    rfl)

theorem Encoding.slliUw (rd : BitVec 5) (rs1 : BitVec 5) (sh : BitVec 6) : Encoding.Statement (.slliUw rd rs1 sh) :=
  Encoding.of_decode rfl (by
    refine Eq.trans (decode_opImm32 _ _ _ _) ?_
    show decodeOpImm32Shift1 _ _ _ = _
    unfold decodeOpImm32Shift1
    split <;> first | (rename_i h; rw [append_toNat] at h; simp only [BitVec.toNat_ofNat] at h; omega) | simp_all [shift6_hi, shift6_lo, shift5_hi, shift5_lo, shift5_hi6])

theorem Encoding.andn (rd : BitVec 5) (rs1 : BitVec 5) (rs2 : BitVec 5) : Encoding.Statement (.andn rd rs1 rs2) :=
  Encoding.of_decode rfl (by
    unfold decode? decodeStandard
    simp only [encodeR_op, encodeR_rd, encodeR_f3, encodeR_rs1, encodeR_rs2, encodeR_f7, encodeR_f5, encodeR_aq, encodeR_rl, encodeR_imm]
    rfl)

theorem Encoding.orn (rd : BitVec 5) (rs1 : BitVec 5) (rs2 : BitVec 5) : Encoding.Statement (.orn rd rs1 rs2) :=
  Encoding.of_decode rfl (by
    unfold decode? decodeStandard
    simp only [encodeR_op, encodeR_rd, encodeR_f3, encodeR_rs1, encodeR_rs2, encodeR_f7, encodeR_f5, encodeR_aq, encodeR_rl, encodeR_imm]
    rfl)

theorem Encoding.xnor (rd : BitVec 5) (rs1 : BitVec 5) (rs2 : BitVec 5) : Encoding.Statement (.xnor rd rs1 rs2) :=
  Encoding.of_decode rfl (by
    unfold decode? decodeStandard
    simp only [encodeR_op, encodeR_rd, encodeR_f3, encodeR_rs1, encodeR_rs2, encodeR_f7, encodeR_f5, encodeR_aq, encodeR_rl, encodeR_imm]
    rfl)

theorem Encoding.clz (rd : BitVec 5) (rs1 : BitVec 5) : Encoding.Statement (.clz rd rs1) :=
  Encoding.of_decode rfl (by
    unfold decode? decodeStandard
    simp only [encodeI_op, encodeI_rd, encodeI_f3, encodeI_rs1, encodeI_imm, encodeI_f7, encodeI_rs2]
    rfl)

theorem Encoding.clzw (rd : BitVec 5) (rs1 : BitVec 5) : Encoding.Statement (.clzw rd rs1) :=
  Encoding.of_decode rfl (by
    unfold decode? decodeStandard
    simp only [encodeI_op, encodeI_rd, encodeI_f3, encodeI_rs1, encodeI_imm, encodeI_f7, encodeI_rs2]
    rfl)

theorem Encoding.ctz (rd : BitVec 5) (rs1 : BitVec 5) : Encoding.Statement (.ctz rd rs1) :=
  Encoding.of_decode rfl (by
    unfold decode? decodeStandard
    simp only [encodeI_op, encodeI_rd, encodeI_f3, encodeI_rs1, encodeI_imm, encodeI_f7, encodeI_rs2]
    rfl)

theorem Encoding.ctzw (rd : BitVec 5) (rs1 : BitVec 5) : Encoding.Statement (.ctzw rd rs1) :=
  Encoding.of_decode rfl (by
    unfold decode? decodeStandard
    simp only [encodeI_op, encodeI_rd, encodeI_f3, encodeI_rs1, encodeI_imm, encodeI_f7, encodeI_rs2]
    rfl)

theorem Encoding.cpop (rd : BitVec 5) (rs1 : BitVec 5) : Encoding.Statement (.cpop rd rs1) :=
  Encoding.of_decode rfl (by
    unfold decode? decodeStandard
    simp only [encodeI_op, encodeI_rd, encodeI_f3, encodeI_rs1, encodeI_imm, encodeI_f7, encodeI_rs2]
    rfl)

theorem Encoding.cpopw (rd : BitVec 5) (rs1 : BitVec 5) : Encoding.Statement (.cpopw rd rs1) :=
  Encoding.of_decode rfl (by
    unfold decode? decodeStandard
    simp only [encodeI_op, encodeI_rd, encodeI_f3, encodeI_rs1, encodeI_imm, encodeI_f7, encodeI_rs2]
    rfl)

theorem Encoding.max (rd : BitVec 5) (rs1 : BitVec 5) (rs2 : BitVec 5) : Encoding.Statement (.max rd rs1 rs2) :=
  Encoding.of_decode rfl (by
    unfold decode? decodeStandard
    simp only [encodeR_op, encodeR_rd, encodeR_f3, encodeR_rs1, encodeR_rs2, encodeR_f7, encodeR_f5, encodeR_aq, encodeR_rl, encodeR_imm]
    rfl)

theorem Encoding.maxu (rd : BitVec 5) (rs1 : BitVec 5) (rs2 : BitVec 5) : Encoding.Statement (.maxu rd rs1 rs2) :=
  Encoding.of_decode rfl (by
    unfold decode? decodeStandard
    simp only [encodeR_op, encodeR_rd, encodeR_f3, encodeR_rs1, encodeR_rs2, encodeR_f7, encodeR_f5, encodeR_aq, encodeR_rl, encodeR_imm]
    rfl)

theorem Encoding.min (rd : BitVec 5) (rs1 : BitVec 5) (rs2 : BitVec 5) : Encoding.Statement (.min rd rs1 rs2) :=
  Encoding.of_decode rfl (by
    unfold decode? decodeStandard
    simp only [encodeR_op, encodeR_rd, encodeR_f3, encodeR_rs1, encodeR_rs2, encodeR_f7, encodeR_f5, encodeR_aq, encodeR_rl, encodeR_imm]
    rfl)

theorem Encoding.minu (rd : BitVec 5) (rs1 : BitVec 5) (rs2 : BitVec 5) : Encoding.Statement (.minu rd rs1 rs2) :=
  Encoding.of_decode rfl (by
    unfold decode? decodeStandard
    simp only [encodeR_op, encodeR_rd, encodeR_f3, encodeR_rs1, encodeR_rs2, encodeR_f7, encodeR_f5, encodeR_aq, encodeR_rl, encodeR_imm]
    rfl)

theorem Encoding.sextB (rd : BitVec 5) (rs1 : BitVec 5) : Encoding.Statement (.sextB rd rs1) :=
  Encoding.of_decode rfl (by
    unfold decode? decodeStandard
    simp only [encodeI_op, encodeI_rd, encodeI_f3, encodeI_rs1, encodeI_imm, encodeI_f7, encodeI_rs2]
    rfl)

theorem Encoding.sextH (rd : BitVec 5) (rs1 : BitVec 5) : Encoding.Statement (.sextH rd rs1) :=
  Encoding.of_decode rfl (by
    unfold decode? decodeStandard
    simp only [encodeI_op, encodeI_rd, encodeI_f3, encodeI_rs1, encodeI_imm, encodeI_f7, encodeI_rs2]
    rfl)

theorem Encoding.zextH (rd : BitVec 5) (rs1 : BitVec 5) : Encoding.Statement (.zextH rd rs1) :=
  Encoding.of_decode rfl (by
    unfold decode? decodeStandard
    simp only [encodeI_op, encodeI_rd, encodeI_f3, encodeI_rs1, encodeI_imm, encodeI_f7, encodeI_rs2]
    rfl)

theorem Encoding.rol (rd : BitVec 5) (rs1 : BitVec 5) (rs2 : BitVec 5) : Encoding.Statement (.rol rd rs1 rs2) :=
  Encoding.of_decode rfl (by
    unfold decode? decodeStandard
    simp only [encodeR_op, encodeR_rd, encodeR_f3, encodeR_rs1, encodeR_rs2, encodeR_f7, encodeR_f5, encodeR_aq, encodeR_rl, encodeR_imm]
    rfl)

theorem Encoding.rolw (rd : BitVec 5) (rs1 : BitVec 5) (rs2 : BitVec 5) : Encoding.Statement (.rolw rd rs1 rs2) :=
  Encoding.of_decode rfl (by
    unfold decode? decodeStandard
    simp only [encodeR_op, encodeR_rd, encodeR_f3, encodeR_rs1, encodeR_rs2, encodeR_f7, encodeR_f5, encodeR_aq, encodeR_rl, encodeR_imm]
    rfl)

theorem Encoding.ror (rd : BitVec 5) (rs1 : BitVec 5) (rs2 : BitVec 5) : Encoding.Statement (.ror rd rs1 rs2) :=
  Encoding.of_decode rfl (by
    unfold decode? decodeStandard
    simp only [encodeR_op, encodeR_rd, encodeR_f3, encodeR_rs1, encodeR_rs2, encodeR_f7, encodeR_f5, encodeR_aq, encodeR_rl, encodeR_imm]
    rfl)

theorem Encoding.rori (rd : BitVec 5) (rs1 : BitVec 5) (sh : BitVec 6) : Encoding.Statement (.rori rd rs1 sh) :=
  Encoding.of_decode rfl (by
    refine Eq.trans (decode_opImm _ _ _ _) ?_
    show decodeOpImmShift5 _ _ _ = _
    unfold decodeOpImmShift5
    split <;> first | (rename_i h; rw [append_toNat] at h; simp only [BitVec.toNat_ofNat] at h; omega) | simp_all [shift6_hi, shift6_lo, shift5_hi, shift5_lo, shift5_hi6])

theorem Encoding.roriw (rd : BitVec 5) (rs1 : BitVec 5) (sh : BitVec 5) : Encoding.Statement (.roriw rd rs1 sh) :=
  Encoding.of_decode rfl (by
    refine Eq.trans (decode_opImm32 _ _ _ _) ?_
    show decodeOpImm32Shift5 _ _ _ = _
    unfold decodeOpImm32Shift5
    split <;> first | (rename_i h; rw [append_toNat] at h; simp only [BitVec.toNat_ofNat] at h; omega) | simp_all [shift6_hi, shift6_lo, shift5_hi, shift5_lo, shift5_hi6])

theorem Encoding.rorw (rd : BitVec 5) (rs1 : BitVec 5) (rs2 : BitVec 5) : Encoding.Statement (.rorw rd rs1 rs2) :=
  Encoding.of_decode rfl (by
    unfold decode? decodeStandard
    simp only [encodeR_op, encodeR_rd, encodeR_f3, encodeR_rs1, encodeR_rs2, encodeR_f7, encodeR_f5, encodeR_aq, encodeR_rl, encodeR_imm]
    rfl)

theorem Encoding.orcB (rd : BitVec 5) (rs1 : BitVec 5) : Encoding.Statement (.orcB rd rs1) :=
  Encoding.of_decode rfl (by
    unfold decode? decodeStandard
    simp only [encodeI_op, encodeI_rd, encodeI_f3, encodeI_rs1, encodeI_imm, encodeI_f7, encodeI_rs2]
    rfl)

theorem Encoding.rev8 (rd : BitVec 5) (rs1 : BitVec 5) : Encoding.Statement (.rev8 rd rs1) :=
  Encoding.of_decode rfl (by
    unfold decode? decodeStandard
    simp only [encodeI_op, encodeI_rd, encodeI_f3, encodeI_rs1, encodeI_imm, encodeI_f7, encodeI_rs2]
    rfl)

theorem Encoding.czeroEqz (rd : BitVec 5) (rs1 : BitVec 5) (rs2 : BitVec 5) : Encoding.Statement (.czeroEqz rd rs1 rs2) :=
  Encoding.of_decode rfl (by
    unfold decode? decodeStandard
    simp only [encodeR_op, encodeR_rd, encodeR_f3, encodeR_rs1, encodeR_rs2, encodeR_f7, encodeR_f5, encodeR_aq, encodeR_rl, encodeR_imm]
    rfl)

theorem Encoding.czeroNez (rd : BitVec 5) (rs1 : BitVec 5) (rs2 : BitVec 5) : Encoding.Statement (.czeroNez rd rs1 rs2) :=
  Encoding.of_decode rfl (by
    unfold decode? decodeStandard
    simp only [encodeR_op, encodeR_rd, encodeR_f3, encodeR_rs1, encodeR_rs2, encodeR_f7, encodeR_f5, encodeR_aq, encodeR_rl, encodeR_imm]
    rfl)

theorem Encoding.sret : Encoding.Statement .sret :=
  Encoding.of_decode rfl (by decide +kernel)

theorem Encoding.wfi : Encoding.Statement .wfi :=
  Encoding.of_decode rfl (by decide +kernel)

theorem Encoding.sfenceVma (rs1 : BitVec 5) : Encoding.Statement (.sfenceVma rs1) :=
  Encoding.of_decode rfl (by
    revert rs1
    decide +kernel)

theorem Encoding.deviceReset : Encoding.Statement .deviceReset :=
  Encoding.of_event rfl

theorem Encoding.bootImageReceived (image config : List Byte) (secver : BitVec 32) (mldsa ecdsa : List Byte) :
    Encoding.Statement (.bootImageReceived image config secver mldsa ecdsa) :=
  Encoding.of_event rfl

theorem Encoding.bootRetry : Encoding.Statement .bootRetry :=
  Encoding.of_event rfl

theorem Encoding.securityVersionRaise : Encoding.Statement .securityVersionRaise :=
  Encoding.of_event rfl

theorem Encoding.spdmRequest (port : Nat) (req : List Byte) : Encoding.Statement (.spdmRequest port req) :=
  Encoding.of_event rfl

theorem Encoding.keySlotLoad (slot : Nat) (key : BitVec 512) : Encoding.Statement (.keySlotLoad slot key) :=
  Encoding.of_event rfl

theorem Encoding.keySlotZeroize (slot : Nat) : Encoding.Statement (.keySlotZeroize slot) :=
  Encoding.of_event rfl

theorem Encoding.linkKeyUpdate (port : Nat) (tx : BitVec 256) (rx : BitVec 256) :
    Encoding.Statement (.linkKeyUpdate port tx rx) :=
  Encoding.of_event rfl

theorem Encoding.hostWindowWrite (port : Nat) (addr : Nat) (stream : Nat) (data : List Byte) :
    Encoding.Statement (.hostWindowWrite port addr stream data) :=
  Encoding.of_event rfl

theorem Encoding.hostWindowRead (port : Nat) (addr : Nat) (stream : Nat) (len : Nat) :
    Encoding.Statement (.hostWindowRead port addr stream len) :=
  Encoding.of_event rfl

theorem Encoding.hostDoorbellWrite (chan : Nat) (tail : Nat) : Encoding.Statement (.hostDoorbellWrite chan tail) :=
  Encoding.of_event rfl

theorem Encoding.clientRequest (chan : Nat) (svc : Option ClientService) : Encoding.Statement (.clientRequest chan svc) :=
  Encoding.of_event rfl

theorem Encoding.hostLinkFailure (port : Nat) : Encoding.Statement (.hostLinkFailure port) :=
  Encoding.of_event rfl

theorem Encoding.hostLinkReset (port : Nat) : Encoding.Statement (.hostLinkReset port) :=
  Encoding.of_event rfl

theorem Encoding.deviceWindowMap (port : Nat) (index : Nat) (base : Nat) (page : Nat) (pages : Nat) :
    Encoding.Statement (.deviceWindowMap port index base page pages) :=
  Encoding.of_event rfl

theorem Encoding.herezFlitReceive (port : Nat) (flit : List Byte) : Encoding.Statement (.herezFlitReceive port flit) :=
  Encoding.of_event rfl

theorem Encoding.escapeChannelMove (group : Nat) (cls : Nat) : Encoding.Statement (.escapeChannelMove group cls) :=
  Encoding.of_event rfl

theorem Encoding.herezPortRetrain (port : Nat) : Encoding.Statement (.herezPortRetrain port) :=
  Encoding.of_event rfl

theorem Encoding.herezPortDown (port : Nat) : Encoding.Statement (.herezPortDown port) :=
  Encoding.of_event rfl

theorem Encoding.herezPortUp (port : Nat) : Encoding.Statement (.herezPortUp port) :=
  Encoding.of_event rfl

theorem Encoding.remoteFabricAccess (window : Nat) (tag : Nat) (addr : Nat) (len : Nat) (data : Option (List Byte)) :
    Encoding.Statement (.remoteFabricAccess window tag addr len data) :=
  Encoding.of_event rfl

theorem Encoding.checkpointRequest : Encoding.Statement .checkpointRequest :=
  Encoding.of_event rfl

theorem Encoding.checkpointEngineDone : Encoding.Statement .checkpointEngineDone :=
  Encoding.of_event rfl

theorem Encoding.checkpointRestore (fast cap : List (Nat × Byte)) (poisonFast poisonCap : List (Nat × Bool)) (keys : List Byte) :
    Encoding.Statement (.checkpointRestore fast cap poisonFast poisonCap keys) :=
  Encoding.of_event rfl

theorem Encoding.powerCapSet (watts : Nat) : Encoding.Statement (.powerCapSet watts) :=
  Encoding.of_event rfl

theorem Encoding.clockStep (power : Nat) : Encoding.Statement (.clockStep power) :=
  Encoding.of_event rfl

theorem Encoding.thermalFreeze (temp : Nat) : Encoding.Statement (.thermalFreeze temp) :=
  Encoding.of_event rfl

theorem Encoding.errorCounterSnapshot (clear : Bool) : Encoding.Statement (.errorCounterSnapshot clear) :=
  Encoding.of_event rfl

theorem Encoding.enckeFreeze (source : FreezeSource) : Encoding.Statement (.enckeFreeze source) :=
  Encoding.of_event rfl

theorem Encoding.thaw : Encoding.Statement .thaw :=
  Encoding.of_event rfl

theorem Encoding.regionCreate (id : Nat) (tenant : Nat) (cores : List Nat) (satp : BitVec 64) :
    Encoding.Statement (.regionCreate id tenant cores satp) :=
  Encoding.of_event rfl

theorem Encoding.regionDestroy (id : Nat) : Encoding.Statement (.regionDestroy id) :=
  Encoding.of_event rfl

theorem Encoding.interleaveTableWrite (index : Nat) (w0 : BitVec 64) (w1 : BitVec 64) :
    Encoding.Statement (.interleaveTableWrite index w0 w1) :=
  Encoding.of_event rfl

theorem Encoding.routerTagTableWrite (router : Nat) (tag : Nat) (phase : Nat) (w : BitVec 64) :
    Encoding.Statement (.routerTagTableWrite router tag phase w) :=
  Encoding.of_event rfl

theorem Encoding.pageTableInvalidation (writes : List (Nat × Byte)) (denied : List Nat) :
    Encoding.Statement (.pageTableInvalidation writes denied) :=
  Encoding.of_event rfl

theorem Encoding.tileDemote (core : Nat) (slot : Nat) (line : Nat) : Encoding.Statement (.tileDemote core slot line) :=
  Encoding.of_event rfl

theorem Encoding.tileEvict (core : Nat) (slot : Nat) : Encoding.Statement (.tileEvict core slot) :=
  Encoding.of_event rfl

theorem Encoding.tileRestore (core : Nat) (slot : Nat) (line : Nat) : Encoding.Statement (.tileRestore core slot line) :=
  Encoding.of_event rfl

theorem Encoding.handleRevocation (core : Nat) (slot : Nat) : Encoding.Statement (.handleRevocation core slot) :=
  Encoding.of_event rfl

theorem Encoding.jobAbort (job : BitVec 32) : Encoding.Statement (.jobAbort job) :=
  Encoding.of_event rfl

theorem Encoding.containmentReset (target : ResetTarget) : Encoding.Statement (.containmentReset target) :=
  Encoding.of_event rfl

theorem Encoding.quantumExpiry (region : Nat) : Encoding.Statement (.quantumExpiry region) :=
  Encoding.of_event rfl

theorem Encoding.energyAccountTick (measured : List (Nat × Nat)) (outside : Nat) (temp : Nat) :
    Encoding.Statement (.energyAccountTick measured outside temp) :=
  Encoding.of_event rfl

theorem Encoding.rateWindowBoundary (region : Nat) : Encoding.Statement (.rateWindowBoundary region) :=
  Encoding.of_event rfl

theorem Encoding.faultRingAdvance (die : Nat) (count : Nat) : Encoding.Statement (.faultRingAdvance die count) :=
  Encoding.of_event rfl

theorem Encoding.titaniaReply (core : Nat) (strand : Nat) (a0 : BitVec 64) (a1 : BitVec 64) :
    Encoding.Statement (.titaniaReply core strand a0 a1) :=
  Encoding.of_event rfl

theorem Encoding.refreshBreak (bank : Nat) : Encoding.Statement (.refreshBreak bank) :=
  Encoding.of_event rfl

theorem Encoding.channelLend (chan : Nat) : Encoding.Statement (.channelLend chan) :=
  Encoding.of_event rfl

theorem Encoding.channelReclaim (chan : Nat) : Encoding.Statement (.channelReclaim chan) :=
  Encoding.of_event rfl

theorem Encoding.watchdogEvent (subject : Watched) : Encoding.Statement (.watchdogEvent subject) :=
  Encoding.of_event rfl

theorem Encoding.dramUncorrectableError (tier : Tier) (line : Nat) :
    Encoding.Statement (.dramUncorrectableError tier line) :=
  Encoding.of_event rfl

theorem Encoding.tileUncorrectableError (level : Level) (unit : Nat) (line : Nat) :
    Encoding.Statement (.tileUncorrectableError level unit line) :=
  Encoding.of_event rfl

theorem Encoding.eccCorrected (place : EccPlace) : Encoding.Statement (.eccCorrected place) :=
  Encoding.of_event rfl

theorem Encoding.vflagsWrite (v : BitVec 64) : Encoding.Statement (.vflagsWrite v) :=
  Encoding.of_event rfl

theorem Encoding.voorvaWrite (v : BitVec 64) : Encoding.Statement (.voorvaWrite v) :=
  Encoding.of_event rfl

theorem Encoding.vslipWrite (v : BitVec 64) : Encoding.Statement (.vslipWrite v) :=
  Encoding.of_event rfl

theorem Encoding.vlenWrite (v : BitVec 64) : Encoding.Statement (.vlenWrite v) :=
  Encoding.of_event rfl

theorem Encoding.vstartWrite (v : BitVec 64) : Encoding.Statement (.vstartWrite v) :=
  Encoding.of_event rfl

theorem Encoding.vmodeWrite (g : BitVec 2) (v : BitVec 64) : Encoding.Statement (.vmodeWrite g v) :=
  Encoding.of_event rfl

theorem Encoding.vtwinWrite (v : BitVec 64) : Encoding.Statement (.vtwinWrite v) :=
  Encoding.of_event rfl

theorem Encoding.vtsafeWrite (v : BitVec 64) : Encoding.Statement (.vtsafeWrite v) :=
  Encoding.of_event rfl

theorem Encoding.stimecmpWrite (v : BitVec 64) : Encoding.Statement (.stimecmpWrite v) :=
  Encoding.of_event rfl

theorem Encoding.csrWrite (csr : BitVec 12) (v : BitVec 64) : Encoding.Statement (.csrWrite csr v) :=
  Encoding.of_event rfl

theorem Encoding.hostWindowMap (window : Nat) (port : Nat) (pages : Nat) :
    Encoding.Statement (.hostWindowMap window port pages) :=
  Encoding.of_event rfl

theorem Encoding.fabricWindowExport (window : Nat) (tag : Nat) (page : Nat) (pages : Nat) :
    Encoding.Statement (.fabricWindowExport window tag page pages) :=
  Encoding.of_event rfl

theorem Encoding.tdispBind (port : Nat) (index : Nat) (stream : Nat) : Encoding.Statement (.tdispBind port index stream) :=
  Encoding.of_event rfl

theorem Encoding.measurementExtend (reg : Nat) (data : List Byte) : Encoding.Statement (.measurementExtend reg data) :=
  Encoding.of_event rfl

theorem Encoding.bootFetchFailure : Encoding.Statement .bootFetchFailure :=
  Encoding.of_event rfl

end Sys2Proof.Laws
end

