-- ==== Sys2Proof/Laws/Stops.lean ====
section
/-!
SUPPORT. Where nothing stops the machine (log 4): accesses to addresses that the memory map places, or to host memory, leave `stop` as it
stands, and so do the operations that a context save is made of.
-/
namespace Sys2Proof.Machine

/-- A physical address that an access can reach: host memory, or a device address that the memory map places. -/
def State.isPlaced (s : State) : Phys → Bool
  | .dev a => (s.place a).isSome
  | .host .. => true

/-- The memory map and `stop` stay as they are. -/
def KeepsStop (s t : State) : Prop := t.stop = s.stop ∧ t.interleave = s.interleave

theorem KeepsStop.refl (s : State) : KeepsStop s s := ⟨rfl, rfl⟩

theorem KeepsStop.trans {s t u : State} (h : KeepsStop s t) (g : KeepsStop t u) : KeepsStop s u := ⟨g.1.trans h.1, g.2.trans h.2⟩

theorem KeepsStop.placed {s t : State} (h : KeepsStop s t) (p : Phys) : t.isPlaced p = s.isPlaced p := by
  cases p with
  | dev a => simp [State.isPlaced, State.place, h.2]
  | host => rfl

theorem KeepsStop.foldl {α : Type} {f : State → α → State} (l : List α) (s : State) (hf : ∀ u, KeepsStop s u → ∀ x ∈ l, KeepsStop u (f u x)) :
    KeepsStop s (l.foldl f s) := by
  induction l generalizing s with
  | nil => exact .refl s
  | cons a l ih =>
    have h1 := hf s (.refl s) a (List.mem_cons_self ..)
    exact h1.trans (ih _ fun u hu x hx => hf u (h1.trans hu) x (List.mem_cons_of_mem _ hx))

theorem State.reclaim_keeps (s : State) (ch : Nat) : KeepsStop s (s.reclaim ch) := by
  unfold State.reclaim
  split <;> exact ⟨rfl, rfl⟩

/-- A request that the memory map places stops nothing: at most a channel takes its lanes back (R153). -/
theorem State.touch_keeps {s : State} {p : Phys} (h : s.isPlaced p = true) : KeepsStop s (s.touch p) := by
  cases p with
  | dev a =>
    simp only [State.touch]
    split
    · rename_i hn
      simp [State.isPlaced, hn] at h
    · exact s.reclaim_keeps _
    · exact .refl s
  | host => exact .refl s

/-- While no channel lends its lanes, a request that the memory map places changes nothing. -/
theorem State.touch_same {s : State} {p : Phys} (h : s.isPlaced p = true) (hl : s.lend = []) : s.touch p = s := by
  cases p with
  | dev a =>
    simp only [State.touch]
    split
    · rename_i hn
      simp [State.isPlaced, hn] at h
    · simp [State.reclaim, State.lending, hl, SMap.get]
    · rfl
  | host => rfl

theorem State.onStrand_keeps (s : State) (c k : Nat) (f : Strand → Strand) : KeepsStop s (s.onStrand c k f) := ⟨rfl, rfl⟩

theorem State.onCore_keeps (s : State) (c : Nat) (f : Core → Core) : KeepsStop s (s.onCore c f) := ⟨rfl, rfl⟩

theorem State.dropCache_keeps (s : State) (c : Nat) : KeepsStop s (s.dropCache c) := ⟨rfl, rfl⟩

theorem State.setTierByte_keeps (s : State) (T : Tier) (o : Nat) (b : Byte) : KeepsStop s (s.setTierByte T o b) := by cases T <;> exact ⟨rfl, rfl⟩

theorem State.setTierPoison_keeps (s : State) (T : Tier) (o : Nat) (p : Bool) : KeepsStop s (s.setTierPoison T o p) := by cases T <;> exact ⟨rfl, rfl⟩

theorem State.writePiece_keeps {s : State} (ps : Pieces) {e : Phys × Byte} (h : s.isPlaced e.1 = true) : KeepsStop s (s.writePiece ps e) := by
  obtain ⟨p, b⟩ := e
  cases p with
  | dev a =>
    simp only [State.writePiece]
    split
    · exact State.touch_keeps h
    · split
      · exact .refl s
      · exact s.setTierByte_keeps ..
  | host w p o =>
    simp only [State.writePiece]
    split <;> exact ⟨rfl, rfl⟩

theorem State.settleLine_keeps (d : Nat) (ps : Pieces) (s : State) (l : Phys) : KeepsStop s (s.settleLine d ps l) := by
  unfold State.settleLine
  split
  · split
    · split
      · split
        · exact s.setTierPoison_keeps ..
        · exact ⟨rfl, rfl⟩
      · exact .refl s
    · exact ⟨rfl, rfl⟩
  · exact .refl s

/-- A transaction to placed addresses stops nothing. -/
theorem State.store_keeps {s : State} (wr : Writer) {ps : Pieces} (h : ∀ e ∈ ps, s.isPlaced e.1 = true) : KeepsStop s (s.store wr ps) := by
  have h1 : KeepsStop s (ps.foldl (State.writePiece ps) s) :=
    .foldl ps s fun u hu e he => u.writePiece_keeps ps ((hu.placed e.1).trans (h e he))
  have h2 := h1.trans (.foldl (f := State.settleLine wr.die ps) (linesOf ps) _ fun u _ l _ => u.settleLine_keeps ..)
  unfold State.store State.storeWith
  rw [List.append_nil]
  cases wr <;> exact ⟨h2.1, h2.2⟩

/-- A save area written where every byte is placed stops nothing. -/
theorem State.writeArea_keeps {s : State} {c me : Nat} {p : Probe} {a : Word} {bs : List Byte}
    (h : ∀ i < (bs.length + 63) / 64, ∀ j < ((bs.drop (64 * i)).take 64).length, s.isPlaced (p.phys (a + word (64 * i + j))) = true) :
    KeepsStop s (s.writeArea c me p a bs) := by
  refine .foldl _ s fun u hu i hi => ?_
  have hp : ∀ e ∈ (List.range ((bs.drop (64 * i)).take 64).length).map
      (fun j => (p.phys (a + word (64 * i + j)), ((bs.drop (64 * i)).take 64).getD j 0)), u.isPlaced e.1 = true := by
    intro e he
    obtain ⟨j, hj, rfl⟩ := List.mem_map.1 he
    exact (hu.placed _).trans (h i (List.mem_range.1 hi) j (List.mem_range.1 hj))
  have h1 : KeepsStop u (((List.range ((bs.drop (64 * i)).take 64).length).map
      (fun j => (p.phys (a + word (64 * i + j)), ((bs.drop (64 * i)).take 64).getD j 0))).foldl (fun v x => v.touch x.1) u) :=
    .foldl _ u fun v hv e he => State.touch_keeps ((hv.placed e.1).trans (hp e he))
  exact h1.trans (State.store_keeps _ fun e he => (h1.placed e.1).trans (hp e he))

/-- A save area read where every byte is placed: what is read before the poisoned lines are looked at changes nothing. -/
theorem State.readArea_placed {s : State} {c me n : Nat} {p : Probe} {a : Word}
    (h : ∀ i < n, s.isPlaced (p.phys (a + word i)) = true) (hd : s.lend = []) :
    s.readArea c me p a n =
      let bad := (List.range ((n + 63) / 64)).filter fun i => s.poisonAt (p.phys (a + word (64 * i)))
      let s2 := bad.foldl (fun (u : State) _ => u.poisonRead c me) s
      match if s.poisonTrap c then bad.head? else none with
      | some i => (.error (devFault fPoison 0 (a + word (64 * i))), s2)
      | none => (.ok ((List.range n).map fun i => if s.poisonAt (p.phys (a + word i)) then 0 else s.byteAt (p.phys (a + word i))), s2) := by
  have h1 : ∀ l : List Nat, (∀ i ∈ l, i < n) → l.foldl (fun (u : State) i => u.touch (p.phys (a + word i))) s = s := by
    intro l
    induction l with
    | nil => intro _; rfl
    | cons i l ih =>
      intro hl
      rw [List.foldl_cons, State.touch_same (h i (hl i (List.mem_cons_self ..))) hd]
      exact ih fun j hj => hl j (List.mem_cons_of_mem _ hj)
  unfold State.readArea
  simp only [h1 _ fun i hi => List.mem_range.1 hi]
  all_goals rfl

theorem State.releaseRow_keeps (s : State) (c k i : Nat) : KeepsStop s (s.releaseRow c k i) := by
  unfold State.releaseRow
  simp only
  split
  · exact ⟨rfl, rfl⟩
  · split
    · exact ⟨rfl, rfl⟩
    · split <;> exact ⟨rfl, rfl⟩

theorem State.parkRows_keeps (s : State) (c k : Nat) (drop : Bool) : KeepsStop s (s.parkRows c k drop) := by
  refine .foldl _ s fun u _ i _ => ?_
  simp only
  split
  · exact .refl u
  · split
    · exact (u.releaseRow_keeps c k i).trans ⟨rfl, rfl⟩
    · exact u.releaseRow_keeps c k i

theorem State.parkProbes_keeps (s : State) (c k : Nat) : KeepsStop s (s.parkProbes c k) :=
  .foldl (f := fun (u : State) (e : Nat × Probe) => u.setProbe c k e.1 { e.2 with live := false, pages := [] }) (s.strand c k).probes s
    fun _ _ _ _ => ⟨rfl, rfl⟩

theorem State.fireWatch_keeps (s : State) (c k i : Nat) (w : Watch) : KeepsStop s (s.fireWatch c k i w) := by
  unfold State.fireWatch
  simp only
  split <;> exact ⟨rfl, rfl⟩

/-- A strand's save stops nothing where every byte of its area is placed. -/
theorem State.saveStrand_keeps {s : State} {c me k : Nat} {p : Probe} {a : Word}
    (h : ∀ bs : List Byte, bs.length ≤ 103104 → ∀ i < (bs.length + 63) / 64, ∀ j < ((bs.drop (64 * i)).take 64).length,
      s.isPlaced (p.phys (a + word (64 * i + j))) = true)
    (hl : ∀ drop, (saveArea ((s.dropCache c).onCore c fun r =>
      { r with slots := r.slots.map (parkSlot k), copies := r.copies.map (suspendCopy k) }) c k drop).1.length ≤ 103104) :
    KeepsStop s (s.saveStrand c me k p a) := by
  have k1 : KeepsStop s ((s.dropCache c).onCore c fun r =>
      { r with slots := r.slots.map (parkSlot k), copies := r.copies.map (suspendCopy k) }) :=
    (s.dropCache_keeps c).trans (State.onCore_keeps ..)
  unfold State.saveStrand
  extract_lets drop s1
  have hl1 : (saveArea s1 c k drop).1.length ≤ 103104 := hl drop
  generalize saveArea s1 c k drop = ab at hl1 ⊢
  obtain ⟨area, bound⟩ := ab
  have k2 : KeepsStop s1 (s1.writeArea c me p a area) := State.writeArea_keeps fun i hi j hj => (k1.placed _).trans (h area hl1 i hi j hj)
  have k3 := (((k1.trans k2).trans (State.onStrand_keeps _ c me fun t => { t with stores := (s1.strand c me).stores })).trans
    (State.parkRows_keeps _ c k drop)).trans (State.parkProbes_keeps _ c k)
  exact (k3.trans (.foldl _ _ fun u _ w _ => u.fireWatch_keeps c k 0 w)).trans (State.onStrand_keeps ..)

end Sys2Proof.Machine
end

