-- ==== Sys2Proof/Laws/Words.lean ====
section
/-!
SUPPORT. The frame that every system-space word shares, the retirement of a scalar instruction, and the end of a meaning: what each can do,
said once.
-/
namespace Sys2Proof.Machine

/-! ## Who acts -/

theorem State.who_strand {s : State} {c k : Nat} (h : s.agent = .strand c k) : s.who = (c, k) := by rw [State.who, h]

theorem State.cur_strand {s : State} {c k : Nat} (h : s.agent = .strand c k) : s.cur = s.strand c k := by
  rw [State.cur, State.who_strand h]

/-! ## Fields (R305) -/

/-- A bad field is one of the fields. -/
theorem badField_lt : ∀ (l : List (Nat × FieldClass)) (m n : Nat), badField l m = some n → n < m + l.length := by
  intro l
  induction l with
  | nil => intro m n h; cases h
  | cons x l ih =>
    intro m n h
    obtain ⟨f, c⟩ := x
    unfold badField at h
    split at h
    · have := ih _ _ h
      simp only [List.length_cons]
      omega
    · cases h
      simp only [List.length_cons]
      omega

/-- A system-space word with a bad field raises ILLEGAL_OPERAND and does nothing else (R305). -/
theorem xr_bad {f7 : BitVec 7} {rd rs1 rs2 : BitVec 5} {c0 c1 c2 : FieldClass} {f : BitVec 32 → State → State} {n : Nat} {s : State}
    (h : s.stop = none) (hb : badField [(rd.toNat, c0), (rs1.toNat, c1), (rs2.toNat, c2)] 0 = some n) :
    xr f7 rd rs1 rs2 c0 c1 c2 f s = .next (s.raise (illegalWord (encodeXR f7 rd rs1 rs2) n)) := by
  unfold xr
  simp only [hb]
  exact finish_raise s _ h

/-- With its fields in their classes it has the effect of its entry. -/
theorem xr_ok {f7 : BitVec 7} {rd rs1 rs2 : BitVec 5} {c0 c1 c2 : FieldClass} {f : BitVec 32 → State → State} {s : State}
    (hb : badField [(rd.toNat, c0), (rs1.toNat, c1), (rs2.toNat, c2)] 0 = none) :
    xr f7 rd rs1 rs2 c0 c1 c2 f s = finish (f (encodeXR f7 rd rs1 rs2) s) := by
  unfold xr
  simp only [hb]

/-! ## Retirement -/

theorem scalar_stop (rd : BitVec 5) (v : Word) (s : State) : (scalar rd v s).stop = s.stop := rfl

theorem finish_scalar {rd : BitVec 5} {v : Word} {s : State} (h : s.stop = none) : finish (scalar rd v s) = .next (scalar rd v s) :=
  finish_eq _ h

theorem finish_done {s : State} (h : s.stop = none) : finish s.done = .next s.done := finish_eq _ h

/-- Retirement with a result reaches the strands alone, and of them only the one that acts. -/
theorem scalar_frame (rd : BitVec 5) (v : Word) (s : State) :
    scalar rd v s = { s with strands := (scalar rd v s).strands } ∧
      ∀ j, j ≠ 4 * s.who.1 + s.who.2 → SMap.get Strand.reset (scalar rd v s).strands j = SMap.get Strand.reset s.strands j := by
  refine ⟨rfl, fun j hj => ?_⟩
  simp [scalar, SMap.get_put, Ne.symm hj]

/-- The result is written, and every other x register stays. -/
theorem scalar_readX (rd : BitVec 5) (v : Word) (s : State) (r : BitVec 5) :
    (scalar rd v s).cur.readX r = if r = rd ∧ rd ≠ 0 then v else s.cur.readX r := by
  simp only [scalar, State.cur_onCur]
  rw [← Strand.readX_writeX]
  rfl

theorem scalar_pc (rd : BitVec 5) (v : Word) (s : State) : (scalar rd v s).cur.pc = s.cur.pc + 4 := by
  simp only [scalar, State.cur_onCur]
  unfold Strand.writeX
  split <;> rfl

/-- instret and event 0x01 count one, and no other event counter moves (R279). -/
theorem scalar_events (rd : BitVec 5) (v : Word) (s : State) (e : Nat) :
    SMap.get 0 (scalar rd v s).cur.events e = SMap.get 0 s.cur.events e + if e = 1 then 1 else 0 := by
  simp only [scalar, State.cur_onCur, Strand.retire_events, Strand.writeX_events, SMap.get_set]
  by_cases h : e = 1 <;> simp [h, eq_comm]

end Sys2Proof.Machine
end

