-- ==== Sys2Proof/Tests/Slice0.lean ====
section
/-!
SUPPORT. The model's own tests: words and results by hand from the rules of the specification, a state that meets the hypotheses of each
statement's clauses, ill-formed operands, and words of each family of the encodings.
-/
open Sys2Proof Sys2Proof.Machine Sys2Proof.Claims

namespace Sys2Proof.Tests

set_option Elab.async false

/-! ## Small states -/

/-- The outcome is the next state `t`. -/
def nexts (o : Host.Outcome State Fault Refusal) (t : State) : Bool :=
  match o with
  | .next u => decide (u = t)
  | _ => false

/-- There is a next state, and it satisfies `p`. -/
def after (o : Host.Outcome State Fault Refusal) (p : State → Bool) : Bool :=
  match o with
  | .next u => p u
  | _ => false

theorem of_nexts {o : Host.Outcome State Fault Refusal} {t : State} (h : nexts o t = true) : o = .next t := by
  cases o with
  | next u => exact congrArg _ (of_decide_eq_true h)
  | fault _ => exact absurd h (by simp [nexts])
  | refused _ => exact absurd h (by simp [nexts])

theorem acts_of {s : State} {c k : Nat} (h : s.agent = .strand c k) (h' : s.stop = none) : Acts s c k := ⟨h, h'⟩

theorem raises_of {i : Instr} {s : State} {e : Exc} (h : nexts (exec i s) (s.takeTrap s.who.1 s.who.2 s.cur.pc e) = true) : Raises i s e :=
  of_nexts h

/-- Page tables from device page 1: 0x400000 is page 6, all permissions; 0x401000 is the first page of host window 0; 0x402000 is page 7,
read only; 0x410000 is page 8, for S mode alone. Page 6 holds bytes of its own. -/
def tables : SMap Byte :=
  [(0x1000, 0x01), (0x1001, 0x08), (0x2000, 0x01), (0x2001, 0x0C), (0x3000, 0x01), (0x3001, 0x10), (0x4010, 0x01), (0x4011, 0x14),
   (0x5000, 0xDF), (0x5001, 0x18), (0x5008, 0xDF), (0x500E, 0x20), (0x5010, 0x53), (0x5011, 0x1C), (0x5080, 0xCF), (0x5081, 0x20),
   (0x6008, 0x11), (0x6009, 0x22), (0x600F, 0x80), (0x6040, 0x07)]

/-- Strand 1 of core 5, in U mode at 0x1000, under those tables; every other strand and core stands as after reset. -/
def base (xs : SMap Word := []) (f : Strand → Strand := id) (g : Core → Core := id) : State :=
  { State.reset with
    agent := .strand 5 1
    interleave := [(0, (0x8000000000200000, 0))]
    fast := tables
    strands := [(21, f { Strand.reset with status := .active, x := xs, pc := 0x1000, satp := 0xA000000000000001 })]
    cores := [(5, g { Core.reset with region := some 0, jobid := 1 })] }

/-- The same in S mode. -/
def smode (xs : SMap Word := []) (f : Strand → Strand := id) (g : Core → Core := id) : State :=
  base xs (fun t => f { t with priv := .s }) g

/-- x register 1 of strand 1 of core 5. -/
def x1 (u : State) : Word := (u.strand 5 1).readX 1

/-- A running job with a quota of one row. -/
def job : Job :=
  { region := 0, state := .running, prio := 0, eclass := 0, drop := false, poisonTrap := false, sa := [], quota := 1, quantum := 0, done := 0,
    donePlace := .dev 0x6000, args := 0, stack := 0, ssize := 0, limT := 0, limW := 0, preds := [], root := 0, tagBase := 0, tagCount := 0,
    hostScope := false, tree := [], walkers := [], passes := 0, admitted := 0, reserve := 0, timer := 0, hint := false, issuer := 0, reopen := [],
    reservedEntry := false, resume := .fresh, grace := 0, savedCores := [], savedStrands := [] }

/-! ## The RISC-V subset -/

/-- R315, R317: the sums and products by hand. -/
theorem test_alu :
    after (exec (.addi 1 2 0xFFF) (base [(2, 5)])) (fun u => x1 u == 4) = true ∧
    after (exec (.divw 1 2 3) (base [(2, 0xFFFFFFFF80000000), (3, 0xFFFFFFFFFFFFFFFF)])) (fun u => x1 u == 0xFFFFFFFF80000000) = true ∧
    after (exec (.div 1 2 0) (base [(2, 5)])) (fun u => x1 u == 0xFFFFFFFFFFFFFFFF) = true ∧
    after (exec (.mulhu 1 2 2) (base [(2, 0xFFFFFFFFFFFFFFFF)])) (fun u => x1 u == 0xFFFFFFFFFFFFFFFE) = true ∧
    after (exec (.sraiw 1 2 4) (base [(2, 0x80000000)])) (fun u => x1 u == 0xFFFFFFFFF8000000) = true ∧
    after (exec (.orcB 1 2) (base [(2, 0x0100000000200001)])) (fun u => x1 u == 0xFF00000000FF00FF) = true ∧
    after (exec (.addi 0 2 1) (base [(2, 5)])) (fun u => (u.strand 5 1).readX 0 == 0 && (u.strand 5 1).pc == 0x1004) = true := by
  decide +kernel

theorem witness_RegisterInstructionResults : (aluResult (.add 1 2 3)).isSome = true := by decide

theorem witness_JumpsAndBranches :
    (jumpOf (base [(5, 7)]).cur (.bne 5 5 0x10) = some (false, 0, 0x1020) ∧ (base [(5, 7)]).stop = none) ∧
    (jumpOf (base []).cur (.jal 1 0xFFFFE) = some (true, 1, 0xFFC)) ∧
    (jumpOf (base [(5, 7)]).cur (.jalr 1 5 0) = some (true, 1, 6)) := by
  decide +kernel

theorem test_jumps :
    after (exec (.jal 1 0xFFFFE) (base [])) (fun u => (u.strand 5 1).pc == 0xFFC && x1 u == 0x1004) = true ∧
    Raises (.jalr 1 5 0) (base [(5, 7)]) { cause := 0, stval := 6, vcause := 0, pages := [] } :=
  ⟨by decide +kernel, raises_of (by decide +kernel)⟩

/-! ## Loads, stores and atomics -/

/-- The state with the translation that the access gives. -/
def walked (s : State) (va : Word) (a : Access) : State := (s.translate s.who.1 s.who.2 va a).2

theorem reaches_of {s : State} {va : Word} {n : Nat} {a : Access} {p : Phys}
    (h : (va.toNat % n == 0 && decide ((s.translate s.who.1 s.who.2 va a).1.toOption = some p)) = true) : Reaches s va n a p (walked s va a) := by
  simp only [Bool.and_eq_true, beq_iff_eq, decide_eq_true_eq] at h
  refine ⟨h.1, ?_⟩
  unfold walked
  cases hr : s.translate s.who.1 s.who.2 va a with
  | mk r t =>
    rw [hr] at h
    cases r with
    | error e => exact absurd h.2 (by simp [Except.toOption])
    | ok q => simp only [Except.toOption, Option.some.injEq] at h; rw [h.2]

/-- A byte of page 6, held in no cache; held in one, still as it is in memory; a byte of host memory. -/
theorem witness_LoadResults :
    let s := base [(2, 0x400008)]
    let t := base [(2, 0x400008)] id fun r => { r with dcache := [(0x180, (base []).lineNow 0x6008)] }
    let w : State := { base [(2, 0x401000)] with hostWindows := [(0, some { port := 0, pages := 1 })] }
    (loadOf (.lh 1 2 0)).isSome = true ∧
    (Reaches s 0x400008 2 .load (.dev 0x6008) (walked s 0x400008 .load) ∧ (s.place 0x6008).isSome = true ∧ s.poisonAt (.dev 0x6008) = false ∧
      (s.core 5).dcache.find? (fun e => e.1 = 0x6008 / 64) = none) ∧
    (Reaches t 0x400008 2 .load (.dev 0x6008) (walked t 0x400008 .load) ∧
      (t.core 5).dcache.find? (fun e => e.1 = 0x6008 / 64) = some (0x180, (base []).lineNow 0x6008)) ∧
    (Reaches w 0x401000 2 .load (.host 0 0 0) (walked w 0x401000 .load)) :=
  ⟨by decide, ⟨reaches_of (by decide +kernel), by decide +kernel⟩, ⟨reaches_of (by decide +kernel), by decide +kernel⟩,
    reaches_of (by decide +kernel)⟩

theorem test_loads :
    after (exec (.ld 1 2 0) (base [(2, 0x400008)])) (fun u => x1 u == 0x8000000000002211) = true ∧
    after (exec (.lb 1 2 7) (base [(2, 0x400008)])) (fun u => x1 u == 0xFFFFFFFFFFFFFF80) = true ∧
    after (exec (.lhu 1 2 0) (base [(2, 0x400008)] id fun r => { r with dcache := [(0x180, (base []).lineNow 0x6008)] }))
      (fun u => x1 u == 0x2211) = true := by
  decide +kernel

theorem witness_StoreResults :
    let s := base [(2, 0x400FFC), (3, 0xA1B2C3D4E5F60718)]
    storeOf (.sw 2 3 0) = some (4, 2, 3, 0) ∧ Reaches s 0x400FFC 4 .store (.dev 0x6FFC) (walked s 0x400FFC .store) ∧
    s.place 0x6FFC = some (.fast, 0x6FFC) ∧ s.tierPoison .fast 0x6FFC = false :=
  ⟨rfl, reaches_of (by decide +kernel), by decide +kernel, by decide +kernel⟩

theorem test_stores :
    after (exec (.sw 2 3 0) (base [(2, 0x400FFC), (3, 0xA1B2C3D4E5F60718)])) (fun u =>
      u.tierByte .fast 0x6FFC == 0x18 && u.tierByte .fast 0x6FFF == 0xE5 && u.tierByte .fast 0x7000 == 0) = true := by
  decide +kernel

theorem witness_AmoResults :
    let s := base [(2, 0x400008), (3, 0x10)]
    (amoOf (.amoaddW 1 2 3 1 0)).isSome = true ∧ Reaches s 0x400008 4 .store (.dev 0x6008) (walked s 0x400008 .store) ∧
    s.place 0x6008 = some (.fast, 0x6008) ∧ s.tierPoison .fast 0x6008 = false :=
  ⟨rfl, reaches_of (by decide +kernel), by decide +kernel, by decide +kernel⟩

theorem test_amo :
    after (exec (.amoaddW 1 2 3 1 0) (base [(2, 0x400008), (3, 0x10)])) (fun u => x1 u == 0x2211 && u.tierByte .fast 0x6008 == 0x21) = true ∧
    after (exec (.amominD 1 2 3 0 0) (base [(2, 0x400008), (3, 1)])) (fun u =>
      x1 u == 0x8000000000002211 && u.tierByte .fast 0x600F == 0x80 && u.tierByte .fast 0x6008 == 0x11) = true := by
  decide +kernel

/-- An LR; an SC with the reservation of its line and one without. -/
theorem witness_ReservedAndConditional :
    let s := base [(2, 0x400008), (3, 0x10)]
    let r := base [(2, 0x400008), (3, 0x10)] fun t => { t with resv := some (.dev 0x6000) }
    (lrOf (.lrD 1 2 0 0)).isSome = true ∧ Reaches s 0x400008 8 .load (.dev 0x6008) (walked s 0x400008 .load) ∧
    (scOf (.scD 1 2 3 0 0)).isSome = true ∧ Reaches r 0x400008 8 .store (.dev 0x6008) (walked r 0x400008 .store) ∧
    r.cur.resv = some (.dev (0x6008 / 64 * 64)) ∧ Reaches s 0x400008 8 .store (.dev 0x6008) (walked s 0x400008 .store) ∧
    s.cur.resv ≠ some (.dev (0x6008 / 64 * 64)) :=
  ⟨rfl, reaches_of (by decide +kernel), rfl, reaches_of (by decide +kernel), by decide +kernel, reaches_of (by decide +kernel),
    by decide +kernel⟩

theorem test_reserved :
    after (exec (.lrD 1 2 0 0) (base [(2, 0x400008)])) (fun u => x1 u == 0x8000000000002211 && (u.strand 5 1).resv == some (.dev 0x6000)) = true ∧
    after (exec (.scD 1 2 3 0 0) (base [(2, 0x400008), (3, 0x10)] fun t => { t with resv := some (.dev 0x6000) })) (fun u =>
      x1 u == 0 && u.tierByte .fast 0x6008 == 0x10 && (u.strand 5 1).resv == none) = true ∧
    after (exec (.scD 1 2 3 0 0) (base [(2, 0x400008), (3, 0x10)])) (fun u => x1 u == 1 && u.tierByte .fast 0x6008 == 0x11) = true := by
  decide +kernel

/-- Misaligned by one of each, and an AMO to a host window. -/
theorem witness_AccessExceptions :
    let s := base [(2, 0x400001)]
    let w := base [(2, 0x401000)]
    (s.cur.readX 2 + (0#12).signExtend 64).toNat % 2 ≠ 0 ∧ (s.cur.readX 2).toNat % 4 ≠ 0 ∧ s.stop = none ∧
    Reaches w (w.cur.readX 2) 8 .store (.host 0 0 0) (walked w (w.cur.readX 2) .store) :=
  ⟨by decide +kernel, by decide +kernel, rfl, reaches_of (by decide +kernel)⟩

/-- A poisoned line, for a job that takes no trap for it and for one that does; a store to host window 0. -/
theorem witness_poisoned_accesses :
    let s : State := { base [(2, 0x400008)] with poisonFast := [(0x180, true)] }
    let j : State := { s with jobs := [(1, some { job with poisonTrap := true })] }
    let w : State := { base [(2, 0x401000)] with hostWindows := [(0, some { port := 0, pages := 1 })] }
    Acts s 5 1 ∧ Reaches s 0x400008 8 .load (.dev 0x6008) (walked s 0x400008 .load) ∧ s.poisonAt (.dev 0x6008) = true ∧ s.poisonTrap 5 = false ∧
    (s.core 5).dcache.find? (fun e => e.1 = 0x6008 / 64) = none ∧ Reaches s 0x400008 8 .store (.dev 0x6008) (walked s 0x400008 .store) ∧
    s.place 0x6008 = some (.fast, 0x6008) ∧ s.tierPoison .fast 0x6008 = true ∧
    (Reaches j 0x400008 8 .load (.dev 0x6008) (walked j 0x400008 .load) ∧ j.poisonAt (.dev 0x6008) = true ∧ j.poisonTrap 5 = true) ∧
    Reaches w 0x401000 8 .store (.host 0 0 0) (walked w 0x401000 .store) :=
  ⟨⟨rfl, rfl⟩, reaches_of (by decide +kernel), by decide +kernel, by decide +kernel, by decide +kernel, reaches_of (by decide +kernel),
    by decide +kernel, by decide +kernel, ⟨reaches_of (by decide +kernel), by decide +kernel, by decide +kernel⟩,
    reaches_of (by decide +kernel)⟩

/-- R169, R170: a load of the line is 0 and sets PSN, or raises POISON; a store to it drops its bytes and is counted. -/
theorem test_poisoned_accesses :
    let s : State := { base [(2, 0x400008), (3, 7)] with poisonFast := [(0x180, true)] }
    let j : State := { s with jobs := [(1, some { job with poisonTrap := true })] }
    after (exec (.ld 1 2 0) s) (fun u => x1 u == 0 && (u.strand 5 1).vflags.getLsbD 7) = true ∧
    after (exec (.sd 2 3 0) s) (fun u => u.tierByte .fast 0x6008 == 0x11 && u.tierPoison .fast 0x6008 && SMap.get 0 u.errs (errKey 5 (dieOf 5)) == 1) = true ∧
    after (exec (.ld 1 2 0) j) (fun u => (u.strand 5 1).vcause == 0x10 && (u.strand 5 1).stval == 0x400000) = true := by
  decide +kernel

theorem notHeld_of {t : Strand} {va : Word} (h : t.tlb = []) : NotHeld t va := fun _ m => absurd (h ▸ m) List.not_mem_nil

/-- A page that the tables do not hold, one that forbids a store, one that is denied, and the record of a running step. -/
theorem witness_failing_translations :
    let s (va : Word) : State := base [(2, va)] id fun r => { r with record := some (.dev 0x6040) }
    let d : State := { s 0x400000 with denied := [6] }
    Acts (s 0x403000) 5 1 ∧ accessOf (s 0x403000).cur (.lw 1 2 0) = some (4, 0x403000, false) ∧ NotHeld (s 0x403000).cur 0x403000 ∧
    (s 0x403000).walk (s 0x403000).cur.satp 0x403000 = none ∧
    (((s 0x402000).walk (s 0x402000).cur.satp 0x402000).any fun f => !leafAllows f (s 0x402000).cur true) = true ∧
    ((d.walk d.cur.satp 0x400000).any fun f => leafAllows f d.cur true && decide (f.page = .dev 6)) = true ∧
    (((s 0x400044).walk (s 0x400044).cur.satp 0x400044).any fun f => leafAllows f (s 0x400044).cur true && decide (f.page = .dev 6)) = true ∧
    ((s 0x400044).cores.any fun e => decide (e.2.record = some (.dev ((4096 * 6 + part 0x400044 11 0) / 64 * 64)))) = true :=
  ⟨⟨rfl, rfl⟩, by decide +kernel, notHeld_of (by decide +kernel), by decide +kernel, by decide +kernel, by decide +kernel, by decide +kernel,
    by decide +kernel⟩

/-- R44, R86, R163, R316. -/
theorem test_failing_translations :
    let s (va : Word) : State := base [(2, va)] id fun r => { r with record := some (.dev 0x6040) }
    after (exec (.sw 2 3 0) (s 0x402000)) (fun u => (u.strand 5 1).scause == 15 && (u.strand 5 1).stval == 0x402000) = true ∧
    after (exec (.lrW 1 2 0 0) { s 0x400000 with denied := [6] }) (fun u => (u.strand 5 1).scause == 5) = true ∧
    after (exec (.sw 2 3 0) (s 0x400044)) (fun u => (u.strand 5 1).vcause == 0x100000007) = true ∧
    after (exec (.scD 1 2 3 0 0) (base [(2, 0x401000)])) (fun u => (u.strand 5 1).scause == 7) = true := by
  decide +kernel

theorem test_access_exceptions :
    Raises (.lh 1 2 0) (base [(2, 0x400001)]) { cause := 4, stval := 0x400001, vcause := 0, pages := [] } ∧
    Raises (.sd 2 3 4) (base [(2, 0x400000)]) { cause := 6, stval := 0x400004, vcause := 0, pages := [] } ∧
    Raises (.amoorW 1 2 3 0 0) (base [(2, 0x400002)]) { cause := 6, stval := 0x400002, vcause := 0, pages := [] } ∧
    Raises (.lw 1 2 0) (base [(2, 0x403000)]) { cause := 13, stval := 0x403000, vcause := 0, pages := [] } :=
  ⟨raises_of (by decide +kernel), raises_of (by decide +kernel), raises_of (by decide +kernel), raises_of (by decide +kernel)⟩

/-! ## Control and status registers -/

/-- What each clause asks of an access: denied, a read, a write that is taken, one that is refused; and the rows of a write alone. -/
theorem witness_CsrInstructions :
    let u := base [(2, 0x900)]
    let s := smode [(2, 0x900)]
    csrOf u.cur (.csrrw 1 0x140 2) ≠ none ∧
    (csrDenied u.cur (encodeI 0x73 1 1 2 0x140) 0x140 true (u.csrValue 5 1 0x140).isSome).isSome = true ∧
    (csrDenied u.cur (encodeI 0x73 2 1 0 0x806) 0x806 false true = none ∧ u.csrValue 5 1 0x806 = some 0) ∧
    (csrDenied s.cur (encodeI 0x73 1 1 2 0x140) 0x140 true true = none ∧ (csrLeaves s.cur 0x140 0x900).isSome = true) ∧
    (csrDenied u.cur (encodeI 0x73 1 1 2 0x805) 0x805 true true = none ∧ csrLeaves u.cur 0x805 0x900 = none) ∧
    (csrWriteOf (.vlenWrite 0x801) = some (0x804, 0x801) ∧ u.cur.lq = [] ∧ u.cur.aq = [] ∧ u.cur.sq = [] ∧
      (u.csrValue 5 1 0x804).isSome = true ∧ csrDenied u.cur (encodeI 0x73 1 0 0 0x804) 0x804 true true = none ∧
      csrLeaves u.cur 0x804 0x801 = none ∧ (csrLeaves u.cur 0x804 0x800).isSome = true) := by
  decide +kernel

/-- R83, R319: sscratch is swapped in S mode and hidden in U mode; sstatus keeps its read-only bits; VSTART takes no more than 2047. -/
theorem test_csr :
    after (exec (.csrrw 1 0x140 2) (smode [(2, 0x900)] fun t => { t with sscratch := 7 })) (fun u =>
      x1 u == 7 && (u.strand 5 1).sscratch == 0x900) = true ∧
    after (exec (.csrrsi 1 0x100 31) (smode [])) (fun u => (u.strand 5 1).sstatus == 0x200000002) = true ∧
    Raises (.csrrw 1 0x140 2) (base []) { cause := 2, stval := 0x140110F3, vcause := 0, pages := [] } ∧
    Raises (.csrrw 1 0x805 2) (base [(2, 0x800)]) { cause := 48, stval := 0x805110F3, vcause := 0x500000002, pages := [] } ∧
    after (exec (.vlenWrite 0x800) (base [])) (fun u => (u.strand 5 1).vl == 0x800 && (u.strand 5 1).pc == 0x1000) = true :=
  ⟨by decide +kernel, by decide +kernel, raises_of (by decide +kernel), raises_of (by decide +kernel), by decide +kernel⟩

theorem walkerFresh_of {s : State} {d : Nat} {root va : Word} {n : Nat} (h : (s.die d).walker = []) : WalkerFresh s d root va n :=
  fun _ _ _ m => absurd (h ▸ m) List.not_mem_nil

/-- The range without V, one page that is found, one page of U mode, and two pages of which the second is missing. -/
theorem witness_TrapSafeRange :
    let s := smode []
    let r (v : Word) := (State.walkRange (dieOf 5) s.cur.satp (fun f => f.d || !f.w) (trapSafeCheck (s.cur.sstatus.getLsbD 18)) (safePages v)
      (safeBase v) s [] []).1
    (s.agent = .strand 5 1 ∧ s.stop = none ∧ s.cur.priv = .s) ∧ nonzero 0x410010 15 5 = false ∧ (0x410000#64).getLsbD 4 = false ∧
    (0x410010#64).getLsbD 4 = true ∧ (s.die (dieOf 5)).walker = [] ∧ r 0x410010 = .ok [.dev 8] ∧ r 0x400010 = .forbidden 0x400000 0 ∧ r 0x410011 = .missing [0x411000] := by
  decide +kernel

theorem test_trap_safe_range :
    after (exec (.vtsafeWrite 0x410010) (smode [])) (fun u =>
      (u.strand 5 1).vtsafe == 0x410010 && (u.strand 5 1).vtsafePages == [.dev 8] && SMap.get 0 u.pins 16 == 1) = true := by
  decide +kernel

/-! ## Ordering, privilege and traps -/

/-- S mode with an interrupt pending, and without one. -/
theorem witness_OrderingAndPrivilegedInstructions :
    let s := smode [] fun t => { t with sie := 2, ssip := true, stimecmp := 0 }
    Acts s 5 1 ∧ s.cur.priv = .s ∧ s.sip 5 1 &&& s.cur.sie ≠ 0 ∧ (smode []).sip 5 1 &&& (smode []).cur.sie = 0 :=
  ⟨⟨rfl, rfl⟩, rfl, by decide +kernel, by simp [smode, base, State.cur, State.who, State.strand, SMap.get, Strand.reset]⟩

/-- R85: SRET gives back the pc and the mode of SPP, and a slot in service goes on; ECALL in S mode calls Titania; WFI ends at once with an
interrupt pending. -/
theorem test_privileged :
    after (exec .sret (smode [] (fun t => { t with sepc := 0x2000, sstatus := 0x20, tw := true }) fun r =>
        { r with slots := [(2, { Slot.reset with state := .broken, owner := 1, sv := true })] })) (fun u =>
      (u.strand 5 1).pc == 0x2000 && (u.strand 5 1).priv == .u && (u.strand 5 1).sstatus == 0x22 && !(u.strand 5 1).tw &&
        (u.slot 5 2).state == .temporal) = true ∧
    after (exec .ecall (smode [])) (fun u => (u.strand 5 1).wait == some .titania && u.out == [.monitorCall 5 1]) = true ∧
    after (exec .wfi (smode [] fun t => { t with sie := 2, ssip := true, stimecmp := 0 })) (fun u => (u.strand 5 1).pc == 0x1004) = true ∧
    after (exec (.fence 0 0 0) (base [] id fun r => { r with dcache := [(0x180, 5)] })) (fun u => (u.core 5).dcache == []) = true := by
  decide +kernel

theorem witness_ExceptionWords :
    (Acts (base []) 5 1 ∧ (base []).cur.priv = .u) ∧ Acts (smode []) 5 1 := ⟨⟨⟨rfl, rfl⟩, rfl⟩, rfl, rfl⟩

/-- R85, R86, R332: the words of the device's own opcodes raise ILLEGAL_OP, any other scause 2. -/
theorem test_exception_words :
    Raises .ecall (base []) { cause := 8, stval := 0, vcause := 0, pages := [] } ∧
    Raises .ebreak (smode []) { cause := 3, stval := 0x1000, vcause := 0, pages := [] } ∧
    Raises .sret (base []) { cause := 2, stval := 0x10200073, vcause := 0, pages := [] } ∧
    Raises (.trapx 0 2 3) (base [(2, 0x12345), (3, 9)]) { cause := 48, stval := 9, vcause := 0x234500000012, pages := [] } ∧
    Raises (.reservedEncoding 0xFFFFFFFF) (base []) { cause := 2, stval := 0xFFFFFFFF, vcause := 0, pages := [] } ∧
    Raises (.reservedEncoding 0xFE00007B) (base []) { cause := 48, stval := 0xFE00007B, vcause := 1, pages := [] } :=
  ⟨raises_of (by decide +kernel), raises_of (by decide +kernel), raises_of (by decide +kernel), raises_of (by decide +kernel),
    raises_of (by decide +kernel), raises_of (by decide +kernel)⟩

theorem witness_TrapEntry :
    ((base []).strand 5 1).tw = false ∧ ((8 : Word) ≠ 48 ∨ (0 : Word).toNat % 256 ≠ 6) := by decide +kernel

/-- R87, by hand: an interrupt in vectored mode, and an exception in U mode with interrupts on. -/
theorem test_trap_entry :
    let s := base [] fun t => { t with stvec := 0x8001, sstatus := 2 }
    let a := (s.takeTrap 5 1 0x1000 { cause := 0x8000000000000005, stval := 0, vcause := 0, pages := [] }).strand 5 1
    let b := (s.takeTrap 5 1 0x1002 { cause := 8, stval := 4, vcause := 0, pages := [] }).strand 5 1
    (a.pc = 0x8014 ∧ a.priv = .s ∧ a.tw = true) ∧ b.pc = 0x8000 ∧ b.sepc = 0x1000 ∧ b.scause = 8 ∧ b.stval = 4 ∧ b.sstatus = 0x20 := by
  decide +kernel

theorem witness_DoubleFault :
    let s := base [] fun t => { t with tw := true }
    (s.strand 5 1).tw = true ∧ s.ringRoom (dieOf 5) 1 = true ∧ (s.strand 5 1).fault = none := by
  decide +kernel

/-- R97, R100: the strand is HALTED, and the shadow cause names the cause being handled. -/
theorem test_double_fault :
    let s := base [] fun t => { t with tw := true, scause := 48, vcause := 0x500000002 }
    let b := (s.takeTrap 5 1 0x1000 { cause := 3, stval := 0x1000, vcause := 0, pages := [] }).strand 5 1
    b.status = .halted ∧ b.vshcause = 0x0002000500000030 ∧ b.scause = 3 := by
  decide +kernel

/-! ## System-space words -/

/-- A tile of 32-bit elements, one row of 16, in line 4 of L0, with generation 3: its handle in slot `n` is 256·n + 3. -/
def tile (st : HState) (job : BitVec 32 := 1) (wc : BitVec 3 := 3) : Tile :=
  { Tile.reset with allocated := true, state := st, gen := 3, wc := wc, rowsm1 := 0, colsm1 := 15, job := job, base := 4 }

/-- A live probe of the first page of the tables. -/
def probe : Probe := { base := 0x400000, live := true, w := true, r := true, lenm1 := 0xFFF, pages := [.dev 6] }

/-- The strand and core with tiles 7, in a state, and 8, FULL of 64-bit elements; probe 0; a row held in entry 2; and the job. -/
def sys (xs : SMap Word) (st : HState := .full) (f : Strand → Strand := id) (g : Core → Core := id) : State :=
  { base xs
      (fun t => f { t with
        probes := [(0, probe)]
        rows := [(2, { held := true, epoch := 9, retired := false, vaddr := 0x400000, w := true, phys := 0x6000, known := true })] })
      (fun r => g { r with tiles := [(7, tile st), (8, tile .full 1 4)] }) with
    jobs := [(1, some job)]
    rowSlots := [(4 * bankOf 24, { block := some 24, breaks := 5 })] }

theorem witness_SystemWordFields :
    Acts (base []) 5 1 ∧ systemWord (.setvl 1 2 4) = true ∧ badField (Instr.setvl 1 2 4).fields 0 = some 2 := ⟨⟨rfl, rfl⟩, by decide⟩

theorem test_system_fields : Raises (.setvl 1 2 4) (base []) (illegalOperand 2 (encode (.setvl 1 2 4))) := raises_of (by decide +kernel)

/-- A read, and the three refusals. -/
theorem witness_SystemReads :
    let s := sys [(2, 0x703), (3, 0x704), (4, 32), (5, 0x10000)]
    Acts s 5 1 ∧ (Instr.tstate 1 2 0).WellFormed ∧ systemRead s 5 1 (.tstate 1 2 0) = some (1, 2) ∧ s.handleOk 5 (s.cur.readX 3) = false ∧
    31 < (s.cur.readX 4).toNat ∧ (0#5).toNat < 4 ∧ nonzero (s.cur.readX 5) 63 16 = true :=
  ⟨⟨rfl, rfl⟩, by decide +kernel, by decide +kernel, by decide +kernel, by decide +kernel, by decide, by decide +kernel⟩

/-- R379, R381, R409: TGEN's shape word, ROWSTAT and EVRD, by hand. -/
theorem test_system_reads :
    after (exec (.tgen 1 2 0) (sys [(2, 0x703)])) (fun u => x1 u == 0x80002033000F0000) = true ∧
    after (exec (.rowstat 1 2 0) (sys [(2, 0x90A)])) (fun u => x1 u == 0x800000050001000A) = true ∧
    after (exec (.getmode 1 0 3) (sys [])) (fun u => x1 u == 0xF000) = true ∧
    after (exec (.pstat 1 0 0) (sys [])) (fun u => x1 u == 0xE000000000000FFF) = true ∧
    after (exec (.astat 1 2 0) (sys [(2, 3)] .full id fun r => { r with copies := [(3, { Copy.reset with state := .done, moved := 64, status := 2 })] }))
      (fun u => x1 u == 0x0000004000000283) = true ∧
    Raises (.tstate 1 2 0) (sys [(2, 0x704)]) { cause := 48, stval := 0x704, vcause := 0x700000008, pages := [] } :=
  ⟨by decide +kernel, by decide +kernel, by decide +kernel, by decide +kernel, by decide +kernel, raises_of (by decide +kernel)⟩

/-- Both outcomes of SETMODE and of SETVSTART, each at the boundary of its range. -/
theorem witness_ModeAndLengthWords :
    let refused (v : Word) : Bool := nonzero v 63 17 || (12 ≤ part v 15 12 && part v 15 12 ≤ 14) || 4 < part v 10 8
    Acts (base []) 5 1 ∧ (3#5).toNat < 4 ∧ refused 0x1B4FF = false ∧ refused 0xC000 = true ∧ refused 0xF500 = true ∧ refused 0x2F000 = true ∧
    (0x7FF#64).toNat ≤ 2047 ∧ 2047 < (0x800#64).toNat := ⟨⟨rfl, rfl⟩, by decide⟩

theorem test_mode_words :
    after (exec (.setmode 0 2 1) (base [(2, 0xF00B)])) (fun u => (u.strand 5 1).modes.f == 0xF00B && (u.strand 5 1).modes.i == 0xF000) = true ∧
    after (exec (.setvl 1 2 0) (base [(2, 5000)])) (fun u => x1 u == 1024 && (u.strand 5 1).vl == 1024) = true ∧
    after (exec (.setvstart 0 2 0) (base [(2, 2047)])) (fun u => (u.strand 5 1).vstart == 2047) = true ∧
    Raises (.setmode 0 2 0) (base [(2, 0xC000)]) { cause := 48, stval := 0x1007B, vcause := 0x400000002, pages := [] } :=
  ⟨by decide +kernel, by decide +kernel, by decide +kernel, raises_of (by decide +kernel)⟩

/-- A malformed size word, a range that wraps, and ranges that are found, forbidden and missing; and PUNPIN with and without a run that
names its probe. -/
theorem witness_ProbeWords :
    let s := base []
    let r (w : Bool) (va : Word) (n : Nat) := (State.walkRange (dieOf 5) s.cur.satp (fun f => f.d || !f.w || !w) (probeCheck true true w) n va s [] []).1
    Acts s 5 1 ∧ (0#5).toNat < 8 ∧ (nonzero 0x6000000000000FFF 60 32 = false ∧ (0x6000000000000FFF#64).getLsbD 63 = false) ∧
    nonzero 0x6000000100000FFF 60 32 = true ∧ oneHalf 0x400000 0x1000 ∧ ¬ oneHalf 0xFFFFFFFFFFFFF001 0x1000 ∧ Drained s ∧
    r true 0x400000 1 = .ok [.dev 6] ∧ r true 0x402000 1 = .forbidden 0x402000 1 ∧ r true 0x403000 2 = .missing [0x403000, 0x404000] ∧
    (((sys []).core 5).slots.any fun e => e.2.owner = 1 && !e.2.quiet && (sys []).namesProbe e.2.rec_ 0) = false ∧
    WalkerFresh s (dieOf 5) s.cur.satp 0x400000 1 :=
  ⟨⟨rfl, rfl⟩, by decide, by decide, by decide, by unfold oneHalf; decide, by unfold oneHalf; decide, ⟨rfl, rfl, rfl, rfl⟩, by decide +kernel,
    by decide +kernel, by decide +kernel, by decide +kernel, walkerFresh_of rfl⟩

theorem test_probe :
    after (exec (.probe 3 2 4) (base [(2, 0x400010), (4, 0x600000000000000F)])) (fun u =>
      ((u.strand 5 1).probe 3).live && ((u.strand 5 1).probe 3).lenm1 == 15 && SMap.get 0 u.pins 12 == 1) = true ∧
    after (exec (.punpin 0 0 0) { sys [] with pins := [(12, 1)] }) (fun u => !((u.strand 5 1).probe 0).live && u.pins == []) = true ∧
    Raises (.probe 3 2 4) (base [(2, 0x400010), (4, 0x600000010000000F)]) (illegalOperand 2 (encode (.probe 3 2 4))) :=
  ⟨by decide +kernel, by decide +kernel, raises_of (by decide +kernel)⟩

/-- TALLOC refused and not; a stale handle, one FILLING, and a FULL one that is freed, or set to a state that is allowed or not. -/
theorem witness_TileWords :
    let s := sys [(2, 0x703), (3, 0x704), (4, 2), (5, 1)]
    let t := sys [(2, 0x703)] .filling
    Acts s 5 1 ∧ nonzero 0x1000000000 63 36 = true ∧ (part 0x500000000 34 32 = 5 ∧ part 0x40003000F 34 32 = 4) ∧ s.handleOk 5 0x704 = false ∧
    s.handleOk 5 0x703 = true ∧ (s.tile 5 7).state = .full ∧ Drained s ∧ (t.handleOk 5 0x703 = true ∧ (t.tile 5 7).state = .filling) :=
  ⟨⟨rfl, rfl⟩, by decide, by decide, by decide +kernel, by decide +kernel, by decide +kernel, ⟨rfl, rfl, rfl, rfl⟩, by decide +kernel⟩

/-- R127, R130, R132: the lowest free slot and the lowest free run, behind the two tiles in line 4 and above; a freed slot's generation
rises; and a FILLING tile is not freed. -/
theorem test_tiles :
    after (exec (.talloc 1 2 0) (sys [(2, 0x3000F0003)])) (fun u => x1 u == 0x100 && (u.tile 5 1).base == 0 && (u.tile 5 1).lines == 4) = true ∧
    after (exec (.talloc 1 2 0) (sys [(2, 0x3000F0004)])) (fun u => x1 u == 0x100 && (u.tile 5 1).base == 6) = true ∧
    after (exec (.talloc 1 2 0) (sys [(2, 0x80000000F)])) (fun u => x1 u == 0x80000) = true ∧
    after (exec (.tfree 0 2 0) (sys [(2, 0x703)])) (fun u => !(u.tile 5 7).allocated && (u.tile 5 7).gen == 4) = true ∧
    after (exec (.tsetst 0 2 3) (sys [(2, 0x703)])) (fun u => (u.tile 5 7).state == .empty) = true ∧
    Raises (.tfree 0 2 0) (sys [(2, 0x703)] .filling) { cause := 48, stval := 0x703, vcause := 0x100000009, pages := [] } :=
  ⟨by decide +kernel, by decide +kernel, by decide +kernel, by decide +kernel, by decide +kernel, raises_of (by decide +kernel)⟩

/-- A row outside the probe and one in it: not in a row slot yet, at the quota; held; let go. -/
theorem witness_RowWords :
    let s := sys [(2, 0x400400), (3, 0x401000), (4, 0x90A), (5, 0x80A)]
    (Acts s 5 1 ∧ (probeFault probe 0 0 0x401000 1024 true false).isSome = true ∧ probeFault probe 0 0 0x400400 1024 true false = none ∧
      probe.phys 0x400400 = .dev 0x6400 ∧ (s.place 0x6400).isSome = true ∧ s.rowOf (.dev 0x6400) = some 25 ∧
      (SMap.get 0 s.lend (chanOf 25)).getLsbD 0 = false ∧ s.cur.rowOk 0x80A = false ∧ s.cur.rowOk 0x90A = true ∧ Drained s) ∧
    (s.jobOf 5 = some job ∧ ((s.strand 5 1).row 2).held = true ∧ s.rowOf (.dev ((s.strand 5 1).row 2).phys) = some 24 ∧
      (s.strand 5 1).freeRow = some 0 ∧ 25 ∉ s.rowsOf (s.core 5).jobid ∧ job.quota ≤ (s.rowsOf (s.core 5).jobid).length) :=
  ⟨⟨⟨rfl, rfl⟩, by decide +kernel, by decide +kernel, by decide +kernel, by decide +kernel, by decide +kernel, by decide +kernel,
    by decide +kernel, by decide +kernel, ⟨rfl, rfl, rfl, rfl⟩⟩, by decide +kernel⟩

/-- What ROWOPEN of row 25 asks of the row slots and the quota: a row that the strand holds; eight entries that are held; the quota; a row that
another strand of the job holds, or of another job; and a bank with a free slot and without one. -/
theorem witness_RowOpens :
    let held (n : Nat) : HeldRow := { held := true, epoch := 1, retired := false, vaddr := 0, w := true, phys := n, known := true }
    let quota (q : Nat) (s : State) : State := { s with jobs := [(1, some { job with quota := q })] }
    let s := quota 2 (sys [])
    let mine := s.onStrand 5 1 fun t => { t with rows := [(3, held 0x6400)] }
    let full := s.onStrand 5 1 fun t => { t with rows := (List.range 8).map fun n => (n, held 0x6000) }
    let helped (c : Nat) : State := s.onStrand c 2 fun t => { t with rows := [(0, held 0x6400)] }
    let taken (n : Nat) : State := { s with rowSlots := (List.range n).map fun i => (4 * 25 + i, { block := some (8192 * i), breaks := 0 }) }
    let slotFull (u : State) (n : Nat) : Bool := (SMap.get RowSlot.reset u.rowSlots (4 * (25 % 8192) + n)).block.isSome
    ((mine.strand 5 1).row 3).held = true ∧ mine.rowOf (.dev 0x6400) = some 25 ∧
    (∀ e, e < 8 → ((full.strand 5 1).row e).held = true ∧ full.rowOf (.dev ((full.strand 5 1).row e).phys) = some 24) ∧
    (∀ e, e < 8 → ¬ (((s.strand 5 1).row e).held = true ∧ s.rowOf (.dev ((s.strand 5 1).row e).phys) = some 25)) ∧
    ((s.strand 5 1).row 0).held = false ∧ ((s.strand 5 1).row 0).retired = false ∧
    ¬ JobHolds s 5 25 ∧ (s.rowsOf (s.core 5).jobid).length = 1 ∧ (quota 1 s).jobOf 5 = some job ∧ s.jobOf 5 = some { job with quota := 2 } ∧
    JobHolds (helped 5) 5 25 ∧ (25 ∈ (helped 6).rowsAll ∧ ¬ JobHolds (helped 6) 5 25) ∧ 25 ∉ s.rowsAll ∧
    (∀ n, n < 4 → slotFull (taken 4) n = true) ∧ (∀ n, n < 3 → slotFull (taken 3) n = true) ∧ slotFull (taken 3) 3 = false := by
  unfold JobHolds
  decide +kernel

/-- The last strand to hold a row, one of two, and an entry whose row lies in no fast-tier block. -/
theorem witness_releaseRow :
    let r : HeldRow := { held := true, epoch := 1, retired := false, vaddr := 0, w := true, phys := 0x6000, known := true }
    let s := sys []
    let two := s.onStrand 5 2 fun t => { t with rows := [(0, r)] }
    s.rowOf (.dev ((s.strand 5 1).row 2).phys) = some 24 ∧ 24 ∉ (s.releaseRow 5 1 2).rowsAll ∧ (s.rowSlot (24 % 8192) 0).block = some 24 ∧
    24 ∈ (two.releaseRow 5 1 2).rowsAll ∧ { s with interleave := [] }.rowOf (.dev 0x6000) = none := by
  decide +kernel

/-- R157, R158: the row held already; another one against the quota; a first one; and a release, which frees the row slot. -/
theorem test_rows :
    after (exec (.rowopen 1 2 0) (sys [(2, 0x400100)])) (fun u => x1 u == 0x90A) = true ∧
    Raises (.rowopen 1 2 0) (sys [(2, 0x400400)]) { cause := 48, stval := 0x400400, vcause := 0x10000000B, pages := [] } ∧
    after (exec (.rowopen 1 2 0) (sys [(2, 0x400400)] .full fun t => { t with rows := [] })) (fun u =>
      x1 u == 0x108 && (u.rowSlot (bankOf 25) 0).block == some 25) = true ∧
    after (exec (.rowrel 0 2 0) (sys [(2, 0x90A)])) (fun u => !((u.strand 5 1).row 2).held && u.rowSlots == []) = true :=
  ⟨by decide +kernel, raises_of (by decide +kernel), by decide +kernel, by decide +kernel⟩

/-! ## Copies, chains and stream ports: the words of a strand -/

/-- A state with doublewords in memory, from a tier address on. -/
def withWords (a : Nat) (ws : List Word) (s : State) : State :=
  { s with fast := ((List.range (8 * ws.length)).zip (wordBytes ws)).foldl (fun m x => SMap.set 0 m (a + x.1) x.2) s.fast }

/-- What `readWords` gives. -/
def got (r : Except Exc (List Word) × State) : Option (List Word) := r.1.toOption

/-- No entry of the copy table is FREE. -/
def copyTableFull (s : State) : State := s.onCore 5 fun r => { r with copies := (List.range 32).map fun n => (n, { Copy.reset with state := .waiting }) }

/-- 64 bytes from 0x400000 into tile 7. -/
def command (h : Word) : List Word := [0x40, 0x400000, 0, h, 0, 64]

theorem got_eq {r : Except Exc (List Word) × State} {ws : List Word} (h : got r = some ws) : ∃ t, r = (.ok ws, t) := by
  obtain ⟨r, t⟩ := r
  cases r with
  | error e => exact absurd h (by simp [got, Except.toOption])
  | ok v => simp only [got, Except.toOption, Option.some.injEq] at h; exact ⟨t, by rw [h]⟩

/-- Misaligned; read, and refused for a stale handle; read, accepted, with entry 0 the lowest FREE one; accepted with no FREE entry. -/
theorem witness_CopyIssue :
    let s := withWords 0x6100 (command 0x703) (sys [(2, 0x400100)] .empty)
    let bad := withWords 0x6100 (command 0x704) (sys [(2, 0x400100)] .empty)
    let r := State.readWords 5 1 6 0x400100 s []
    let rb := State.readWords 5 1 6 0x400100 bad []
    let x (h : Word) : Copy := { Copy.reset with cmd := command h }
    let full : State := r.2.onCore 5 fun y => { y with copies := (List.range 32).map fun n => (n, { Copy.reset with state := .waiting }) }
    Acts s 5 1 ∧ (0x400104#64).toNat % 8 ≠ 0 ∧ (got r = some (command 0x703) ∧ r.2.stop = none) ∧
    ((rb.2.commandFault 5 1 (encode (.acopy 1 2 0)) (x 0x704)).isSome = true) ∧
    (r.2.commandFault 5 1 (encode (.acopy 1 2 0)) (x 0x703) = none ∧ (r.2.copy 5 0).state = .free) ∧
    (∀ n ∈ List.range 32, (full.copy 5 n).state ≠ .free) :=
  ⟨⟨rfl, rfl⟩, by decide, by decide +kernel, by decide +kernel, by decide +kernel, by decide +kernel⟩

theorem test_acopy :
    after (exec (.acopy 1 2 0) (withWords 0x6100 (command 0x703) (sys [(2, 0x400100)] .empty))) (fun u =>
      x1 u == 0 && (u.copy 5 0).state == .waiting && (u.copy 5 0).strand == 1 && (u.tile 5 7).state == .filling) = true ∧
    Raises (.acopy 1 2 0) (sys [(2, 0x400104)]) { cause := 4, stval := 0x400104, vcause := 0, pages := [] } :=
  ⟨by decide +kernel, raises_of (by decide +kernel)⟩

/-- The copies of the tests: FREE, DONE, DONE with ERROR, and WAITING. -/
def copies : SMap Copy :=
  [(1, { Copy.reset with state := .done, moved := 64 }), (2, { Copy.reset with state := .done, moved := 64, status := 2, addr := 0x400040 }),
   (31, { Copy.reset with state := .waiting, cmd := [0, 0, 0, 0, 0, 8] })]

theorem witness_CopyAwaitAndCancel :
    let s := base [(2, 0), (3, 1), (4, 2), (5, 31), (6, 32)] id fun r => { r with copies := copies }
    Acts s 5 1 ∧ 31 < (s.cur.readX 6).toNat ∧ (s.copy 5 0).state = .free ∧ ((s.copy 5 1).state = .done ∧ (s.copy 5 1).status ≠ 2) ∧
    ((s.copy 5 2).state = .done ∧ (s.copy 5 2).status = 2) ∧ (s.copy 5 31).state = .waiting :=
  ⟨⟨rfl, rfl⟩, by decide +kernel⟩

theorem test_await :
    after (exec (.await 1 2 0) (base [(2, 1)] id fun r => { r with copies := copies })) (fun u => x1 u == 0x4000000001 && (u.copy 5 1).state == .free) = true ∧
    after (exec (.await 1 2 0) (base [(2, 2)] id fun r => { r with copies := copies })) (fun u =>
      x1 u == 0x4000000202 && (u.strand 5 1).sepc == 0x1004 && (u.strand 5 1).vcause == 0x20000000F && (u.strand 5 1).stval == 0x400040) = true ∧
    after (exec (.await 1 2 0) (base [(2, 31)] id fun r => { r with copies := copies })) (fun u => (u.strand 5 1).wait == some (.copy 31)) = true ∧
    after (exec (.acancel 0 2 0) (base [(2, 31)] id fun r => { r with copies := copies })) (fun u =>
      (u.copy 5 31).state == .done && (u.copy 5 31).status == 1) = true := by
  decide +kernel

/-- A copy with a completion token for q9: with room for it, without, with the queue latched, and claimed; a copy into a FILLING tile from a
DRAINING one; and loads of a w buffer and a codebook. -/
theorem witness_Cancelled :
    let x : Copy := { Copy.reset with state := .active, cmd := [0x980000 + 64 + 8, 0x803, 0, 0x703, 0, 8], srcHeld := true }
    let s (q : Queue) : State :=
      (sys [] .filling id fun r => { r with copies := [(0, x), (1, { x with kind := .mldw 2 }), (2, { x with kind := .vcbld 3 })],
                                            queues := [(9, q)] }).setTile 5 8 (tile .draining 1 4)
    let room (q : Queue) : Nat := (s q).roomIn { field := 57, core := 5, q := 9, entry := 0 }
    ((s .reset).copy 5 0).wantsToken = true ∧ ((s .reset).copy 5 0).tq = 9 ∧ ((s .reset).copy 5 0).dkind = 1 ∧ room .reset ≠ 0 ∧
    room { Queue.reset with items := List.replicate 64 (.tok (tVal 0)) } = 0 ∧ (s .reset).handleOk 5 0x803 = true ∧
    part 0x803 19 8 ≠ part 8 59 48 ∧ ((s .reset).tile 5 8).state = .draining ∧ ((s .reset).tile 5 7).state = .filling ∧
    ((s .reset).copy 5 1).kind = .mldw 2 ∧ ((s .reset).copy 5 2).kind = .vcbld 3 := by
  decide +kernel

/-- A queue entry of a record (R248), and a node entry (R249). -/
def qword (q d n prod cons : Nat) : Word := word (q * 2 ^ 60 + d * 2 ^ 53 + n * 2 ^ 49 + prod * 2 ^ 18 + cons * 2 ^ 12)
def nwords (w : BitVec 32) (kind unit param : Nat) : List Word := [word (w.toNat * 2 ^ 32 + kind * 2 ^ 28 + unit * 2 ^ 25 + 5 * 2 ^ 17), word param]
def rhead (nn nq : Nat) : Word := word (2 ^ 56 + (nn - 1) * 2 ^ 43 + nq * 2 ^ 38)

/-- Port 0 feeds an FSINK through q3. -/
def drainRecord : List Word := [rhead 2 1, qword 3 8 1 0 1] ++ nwords 0 3 0 0 ++ nwords (encode (.fsink 0 51 0)) 2 0 0

/-- One node, whose VADD writes v1. -/
def logicRecord : List Word := [rhead 1 0] ++ nwords (encode (.vadd 1 2 3)) 0 0 0

/-- Five bytes from 0x400008, through probe 0, into q3. -/
def descriptor : List Word := [0x400008, 0x3000, 5, 1, 1, 1, 0, 0]

/-- Lines of a tile that hold doublewords. -/
def lineOf (ws : List Word) (n : Nat) : BitVec 512 := BitVec.ofNat 512 (ofBytes (wordBytes ((ws.drop (8 * n)).take 8)))

/-- Slot 0 of core 5 in a state with a record, its queues claimed, and port 0 bound. -/
def chained (st : SlotState) (rec_ : List Word) (qs : SMap Queue) (xs : SMap Word := []) (f : Slot → Slot := id) (p : PortState := .bound) : State :=
  sys xs .full id fun r =>
    { r with
      slots := [(0, f { Slot.reset with state := st, owner := 1, record := rec_ })]
      queues := qs
      ports := [(0, { Port.reset with state := p, desc := descriptor, strand := 1 })]
      l0 := [(4, lineOf drainRecord 0), (5, lineOf drainRecord 1)] }

/-- q3 as the record claims it, with some tokens. -/
def q3 (ts : List Token) : SMap Queue := [(3, { Queue.reset with owner := some 20, d := 8, n := 1, items := ts.map .tok })]

/-- The record of the tile is accepted; a record of the wrong version is not; and the other checks of CHCFG. -/
theorem witness_ChainConfigure :
    let s := chained .idle drainRecord (q3 []) [(2, 0x803)]
    let r1 := State.readRecord 5 1 0x803 1 0 s []
    let r := State.readRecord 5 1 0x803 6 0 s []
    let e := chained .idle drainRecord (q3 []) [(2, 0x803)] id .unbound
    let filling : State := s.setTile 5 8 (tile .filling 1 4)
    Acts s 5 1 ∧ (0#5).toNat < 4 ∧ ((s.slot 5 0).state = .idle ∧ (s.slot 5 0).owner = 1) ∧ s.handleOk 5 0x804 = false ∧
    (s.handleOk 5 0x703 = true ∧ (s.tile 5 7).w ≠ 64) ∧ (s.handleOk 5 0x803 = true ∧ (s.tile 5 8).w = 64 ∧ (s.tile 5 8).state = .full ∧ (s.tile 5 8).res = 0) ∧
    (filling.tile 5 8).state = .filling ∧
    (got r1 = some (drainRecord.take 1) ∧ recordWords (drainRecord.headD 0) = 6 ∧ got r = some drainRecord) ∧
    (r.2.validate 5 1 0 0x803 drainRecord 16 r.2.cur.modes r.2.cur.vl.toNat = none ∧ Drained s) ∧
    ((State.readRecord 5 1 0x803 6 0 e []).2.validate 5 1 0 0x803 drainRecord 16 e.cur.modes e.cur.vl.toNat).isSome = true ∧
    drainRecord.length = min (recordWords (drainRecord.headD 0)) 16 :=
  ⟨⟨rfl, rfl⟩, by decide, by decide +kernel, by decide +kernel, by decide +kernel, by decide +kernel, by decide +kernel, by decide +kernel,
    ⟨by decide +kernel, rfl, rfl, rfl, rfl⟩, by decide +kernel, by decide +kernel⟩

theorem test_chcfg :
    after (exec (.chcfg 0 0 2) (chained .free [] [] [(2, 0x803)])) (fun u =>
      (u.slot 5 0).state == .idle && (u.slot 5 0).owner == 1 && (u.slot 5 0).record == drainRecord && (u.queue 5 3).owner == some 20 &&
        (u.queue 5 3).d == 8) = true ∧
    Raises (.chcfg 0 0 2) (chained .free [] [] [(2, 0x803)] id .unbound)
      { cause := 48, stval := 0x0080300000000002, vcause := 0xB0000000C, pages := [] } ∧
    Raises (.chcfg 0 0 2) (chained .spatial drainRecord (q3 []) [(2, 0x803)]) { cause := 48, stval := 0, vcause := 0x10000000C, pages := [] } :=
  ⟨by decide +kernel, raises_of (by decide +kernel), raises_of (by decide +kernel)⟩

/-- The same with a pass over in which no node fired, and nothing changed since. -/
def idled (s : State) : State := s.setSlot 5 0 { s.slot 5 0 with idleMark := s.waitMark 5 0 }

/-- A slot in each state, owned by the strand and by another; barrier words with and without an undefined bit, met and not. -/
theorem witness_ChainControlWords :
    let s (st : SlotState) := chained st drainRecord (q3 [])
    let met := chained .spatial drainRecord (q3 []) [] fun y => { y with nodes := [(1, { NodeState.reset with regs := [(16, 1)] })] }
    let ended_ := chained .spatial drainRecord (q3 []) [] fun y => { y with nodes := [(0, { NodeState.reset with finished := true }), (1, { NodeState.reset with finished := true })] }
    Acts (s .free) 5 1 ∧ (0#5).toNat < 4 ∧ (((s .spatial).slot 5 0).state = .spatial ∧ ((s .spatial).slot 5 0).owner = 1) ∧
    ((chained .idle drainRecord (q3 []) [] fun y => { y with owner := 2 }).slot 5 0).owner ≠ 1 ∧ (s .spatial).cur.tw = false ∧
    ((s .idle).slot 5 0).state = .idle ∧ nonzero 0x100000010 31 4 = true ∧ part 0x10000000F 3 0 = 15 ∧ (s .spatial).barrierMet 5 0 0x100000000 = false ∧
    (met.barrierMet 5 0 0x100000000 = true ∧ (met.flushSinks (met.slot 5 0).rec_).stop = none) ∧
    (((idled (s .temporal)).slot 5 0).passAt = 0 ∧ ((idled (s .temporal)).slot 5 0).idleMark ≠ [] ∧
      ((idled (s .temporal)).slot 5 0).idleMark = (idled (s .temporal)).waitMark 5 0) ∧
    ((s .temporal).slot 5 0).idleMark = [] ∧ ((chained .temporal drainRecord (q3 []) [] fun y => { y with passAt := 1 }).slot 5 0).passAt ≠ 0 ∧
    ((s .spatial).slot 5 0).breaking = none ∧ ended_.runOver 5 0 = true ∧ (s .spatial).runOver 5 0 = false :=
  ⟨⟨rfl, rfl⟩, by decide, by decide +kernel⟩

theorem test_chain_words :
    after (exec (.chrel 0 0 0) (chained .idle drainRecord (q3 []))) (fun u => (u.slot 5 0).state == .free && (u.queue 5 3).owner == none) = true ∧
    after (exec (.chwait 1 0 0) (chained .idle drainRecord (q3 []) [] fun y => { y with brec := { BreakRecord.reset with w0 := 0x3000000000000007 } }))
      (fun u => x1 u == 7) = true ∧
    after (exec (.chwait 1 0 0) (chained .spatial drainRecord (q3 []))) (fun u => (u.strand 5 1).wait == some (.chain 0)) = true ∧
    after (exec (.chbar 0 0 2) (chained .spatial drainRecord (q3 []) [(2, 0x100000000)])) (fun u =>
      (u.strand 5 1).wait == some (.barrier 0 0x100000000)) = true ∧
    after (exec (.chresp 0 0 0) (chained .temporal drainRecord (q3 []))) (fun u => (u.slot 5 0).respond) = true ∧
    after (exec (.chresp 0 0 0) (idled (chained .temporal drainRecord (q3 [])))) (fun u => (u.slot 5 0).state == .spatial) = true := by
  decide +kernel

/-- Queued words; a copy with accesses to perform; a run that starts; and a probe that is not live. -/
theorem witness_ChainRun :
    let s := chained .idle drainRecord (q3 [])
    let t := ((s.startRun 5 0).dropCache 5).orderStores 5 1
    let lg := chained .idle logicRecord [] []
    let busy : State := s.onCore 5 fun r => { r with copies := [(0, { Copy.reset with state := .active, strand := 1 })], copyOrder := 1 }
    let dead : State := s.onStrand 5 1 fun y => { y with probes := [] }
    let queued : State := s.onStrand 5 1 fun y => { y with lq := [{ word := .vpref 0 0 0, pos := 0, pc := 0, front := y.front }] }
    Acts s 5 1 ∧ (0#5).toNat < 4 ∧ ((s.slot 5 0).state = .idle ∧ (s.slot 5 0).owner = 1) ∧ Drained s ∧ s.copiesBusy 5 1 (s.core 5).copyOrder = false ∧
    t.runCheck 5 0 (t.slot 5 0).rec_.nodes.length 0 = none ∧ busy.copiesBusy 5 1 (busy.core 5).copyOrder = true ∧
    (∃ e, ((dead.startRun 5 0).dropCache 5).runCheck 5 0 2 0 = some (0, e)) ∧ ¬ Drained queued ∧
    ((s.slot 5 0).rec_.nodes.any (·.kind = 3)) = true ∧ ((s.slot 5 0).rec_.places.any fun x => x.2.1 = 5 && x.2.2 = 3) = true ∧
    (∀ x ∈ (lg.slot 5 0).rec_.nodes, x.kind = 0 ∨ x.kind = 1) ∧ (lg.slot 5 0).rec_.nodes.map (·.writesReg) = [some 1] :=
  ⟨⟨rfl, rfl⟩, by decide, by decide +kernel, ⟨rfl, rfl, rfl, rfl⟩, by decide +kernel, by decide +kernel, by decide +kernel,
    ⟨deviceFault 4 0 0x400008, by decide +kernel⟩, fun h => absurd h.1 (by decide +kernel), by decide +kernel, by decide +kernel, by decide +kernel,
    by decide +kernel⟩

theorem test_run :
    after (exec (.run 0 0 0) (chained .idle drainRecord (q3 [tVal 3]))) (fun u =>
      (u.slot 5 0).state == .spatial && (u.port 5 0).state == .active && (u.queue 5 3).items == []) = true ∧
    after (exec (.run 0 0 0) (chained .idle logicRecord [] [])) (fun u =>
      SMap.get false (u.strand 5 1).feClear 1 && !SMap.get false (u.strand 5 1).feClear 2) = true := by
  decide +kernel

/-- The descriptor in memory: read, and taken by a port that is UNBOUND, or the strand's own; refused for a reserved bit, another strand's port,
and another shape of a port that a chain names. -/
theorem witness_PortBinding :
    let s := withWords 0x6100 descriptor (base [(2, 0x400100)])
    let r := State.readWords 5 1 8 0x400100 s []
    let named := chained .idle drainRecord (q3 [])
    let q : Port := { Port.reset with state := .bound, desc := [0x400008, 0x3001, 5, 1, 1, 1, 0, 0], strand := 1 }
    Acts s 5 1 ∧ (0#5).toNat < 8 ∧ (0x400104#64).toNat % 8 ≠ 0 ∧ (got r = some descriptor ∧ r.2.stop = none) ∧ badDescriptor descriptor = false ∧
    badDescriptor [0x400008, 0x3800, 5, 1, 1, 1, 0, 0] = true ∧ ((r.2.port 5 0).state = .unbound ∧ r.2.portNamed 5 0 = false) ∧
    (named.portNamed 5 0 = true ∧ (named.port 5 0).state ≠ .active ∧ (named.port 5 0).strand = 1 ∧ q.esz ≠ (named.port 5 0).esz) ∧
    ((chained .spatial drainRecord (q3 []) [] id .active).port 5 0).state = .active :=
  ⟨⟨rfl, rfl⟩, by decide, by decide, by decide +kernel⟩

theorem test_ports :
    after (exec (.sbind 0 0 2) (withWords 0x6100 descriptor (base [(2, 0x400100)]))) (fun u =>
      (u.port 5 0).state == .bound && (u.port 5 0).strand == 1 && (u.port 5 0).count 0 == 5) = true ∧
    after (exec (.sunbind 0 0 0) (chained .free [] [])) (fun u => (u.port 5 0).state == .unbound) = true ∧
    Raises (.sunbind 0 0 0) (chained .idle drainRecord (q3 [])) { cause := 48, stval := 0, vcause := 0xB0000000C, pages := [] } :=
  ⟨by decide +kernel, by decide +kernel, raises_of (by decide +kernel)⟩

/-! ## Vector words under way, fences that wait, and words that have been read -/

/-- A vector word of the strand in LQ, and a state with that word older than the next instruction. -/
def queuedIn (w : Instr) (t : Strand) : Queued := { word := w, pos := 0, pc := 0, front := t.front }
def under (w : Instr) (s : State) : State := s.onStrand 5 1 fun t => { t with lq := [queuedIn w t], vpos := 1 }

/-- A fence of ordinary accesses that waits in the strand. -/
def fencing (s : State) : State := s.onStrand 5 1 fun t =>
  { t with fences := [{ pc := t.pc, front := t.front, pos := t.vpos, engine := false, order := 0, inval := true, clean := true }] }

/-- What the strand has read for the instruction at its pc. -/
def holding (ws : List Word) (s : State) : State := s.onStrand 5 1 fun t => { t with request := some { pc := t.pc, words := ws, place := .dev 0x6000 } }

/-- A sink of a record has gathered bytes. -/
def gathers (s : State) (r : Rec) : Bool := r.nodes.any fun x => x.kind = 3 && !(s.port x.core x.unit).gather.isEmpty

theorem sinksMapped_of {s : State} {r : Rec} (h : gathers s r = false) : SinksMapped s r := by
  intro x hx hk g hg
  simp only [gathers, List.any_eq_false, Bool.and_eq_true, decide_eq_true_eq, Bool.not_eq_true', List.isEmpty_eq_false_iff, not_and, Decidable.not_not] at h
  rw [h x hx hk] at hg
  exact absurd hg (List.not_mem_nil (a := g))

/-- An access to vflags that waits; a fence met at once, one that waits for an access, and one that stands before another. -/
theorem witness_waiting_fences :
    let s := base []
    let older := under (.vld 1 6 0) s
    let f : Fence := { pc := 0x1000, front := s.cur.front, pos := 1, engine := false, order := 0, inval := true, clean := true }
    (csrWriteOf (.vflagsWrite 1)).isSome = true ∧ ¬ Drained older ∧ Drained s ∧ stillOlder s 5 1 f = false ∧ stillOlder older 5 1 f = true ∧
    (fencing older).cur.fences.any (stillOlder (fencing older) 5 1) = true ∧ s.cur.priv = .u ∧ (3#5).toNat ≠ 0 ∧
    (csrOf older.cur (.csrrs 1 0x806 0)).isSome = true :=
  ⟨by decide +kernel, fun h => absurd h.1 (by decide +kernel), ⟨rfl, rfl, rfl, rfl⟩, by decide +kernel, by decide +kernel, by decide +kernel, rfl, by decide,
    by decide +kernel⟩

/-- R90, R180, R182, R322: a FENCE behind a queued load goes past it and waits in the strand, as does a second one; a CSR access to vflags stays. -/
theorem test_fence_waits :
    after (exec (.fence 0 0 0) (under (.vld 1 6 0) (base []))) (fun u => (u.strand 5 1).pc == 0x1004 && (u.strand 5 1).fences.length == 1) = true ∧
    after (exec (.fence 0 0 0) (under (.vld 1 6 0) (fencing (base [])))) (fun u => (u.strand 5 1).pc == 0x1004 && (u.strand 5 1).fences.length == 1) = true ∧
    nexts (exec (.csrrs 1 0x806 0) (under (.vld 1 6 0) (base []))) (under (.vld 1 6 0) (base [])) = true ∧
    after (exec (.fenceI 0 0 0) (under (.vld 1 6 0) (base []))) (fun u => (u.strand 5 1).pc == 0x1004) = true := by
  decide +kernel

/-- A load through probe 0 that is still queued, a tile's load of handle 0x703, a row's load of handle 0x90A, a pop of q3; and none of them. -/
theorem witness_waiting_words :
    let s := sys [(2, 0x703), (4, 0x90A)]
    ¬ Clear (under (.vld 1 6 0) s) (·.names .p 0) ∧ Clear s (·.names .p 0) ∧ ¬ Clear (under (.vldt 1 2 0) s) (·.namesHandle 0x703) ∧
    Clear s (·.namesHandle 0x703) ∧ ¬ Clear (under (.vldw 1 4 5) s) (·.namesHandle 0x90A) ∧ Clear s (·.namesHandle 0x90A) ∧
    ¬ Clear (under (.vadd 1 51 2) s) (·.namesQueue 3) ∧ Clear s (·.namesQueue 3) := by
  unfold Clear
  decide +kernel

/-- R121, R379, R381: what a queued word names waits for it. -/
theorem test_words_wait :
    let s (w : Instr) := under w (sys [(2, 0x703), (4, 0x90A)])
    nexts (exec (.punpin 0 0 0) (s (.vld 1 6 0))) (s (.vld 1 6 0)) = true ∧ nexts (exec (.tfree 0 2 0) (s (.vldt 1 2 0))) (s (.vldt 1 2 0)) = true ∧
    nexts (exec (.rowrel 0 4 0) (s (.vldw 1 4 5))) (s (.vldw 1 4 5)) = true := by
  decide +kernel

/-- An ACOPY and an ENQ that have read nothing yet, and ones that wait with what they have read. -/
theorem witness_read_once :
    Fresh (sys []).cur ∧ (∃ r, (holding (command 0x703) (sys [])).cur.request = some r ∧ r.pc = (holding (command 0x703) (sys [])).cur.pc) ∧
    (∀ n ∈ List.range 32, ((copyTableFull (holding (command 0x703) (sys []))).copy 5 n).state ≠ .free) ∧
    firstOf (handleChecks (sys []) 5 (fun j => (command 0x703).getD j 0) ++ stateChecks (sys []) 5 fun j => (command 0x703).getD j 0) =
      some (deviceFault 9 2 0x703) ∧
    firstOf (handleChecks (sys [] .empty) 5 (fun j => (command 0x703).getD j 0) ++ stateChecks (sys [] .empty) 5 fun j => (command 0x703).getD j 0) =
      none :=
  ⟨fun _ h => absurd h (by simp [sys, base, State.cur, State.who, State.strand, SMap.get, Strand.reset]), ⟨_, rfl, rfl⟩, by decide +kernel,
    by decide +kernel, by decide +kernel⟩

/-- A word that reads memory, and an older queued store that reaches what it reads, or none. -/
theorem witness_StoreBefore :
    let s := sys [(2, 0x400100)]
    let older := (sys [(6, 0x400000)]).onStrand 5 1 fun t =>
      let t := { t with vl := 16 }
      { t with sq := [queuedIn (.vst 1 6 0) t], vpos := 1 }
    StoreBefore older 5 1 0x400000 6 ∧ ¬ StoreBefore s 5 1 0x400100 6 ∧ ¬ StoreBefore s 5 1 0x400100 8 ∧
    ¬ StoreBefore s 5 1 0x400100 1 ∧ s.storeQueued 5 1 (s.recordSpan 5 1 0x400100) = false ∧
    older.storeQueued 5 1 (older.recordSpan 5 1 0x400000) = true ∧
    (∀ e ∈ s.cores, e.2.record = none) := by
  unfold StoreBefore
  decide +kernel

/-- R237, R383: an ACOPY without a FREE entry keeps the command that it has read, and takes the entry with it later. -/
theorem test_read_once :
    after (exec (.acopy 1 2 0) (copyTableFull (withWords 0x6100 (command 0x703) (sys [(2, 0x400100)] .empty)))) (fun u =>
      (u.strand 5 1).request.isSome && (u.strand 5 1).pc == 0x1000) = true ∧
    after (exec (.acopy 1 2 0) (holding (command 0x703) (sys [(2, 0x400104)] .empty))) (fun u =>
      x1 u == 0 && (u.copy 5 0).state == .waiting && (u.strand 5 1).request == none) = true := by
  decide +kernel

/-! ## Fences, hints, steps -/

/-- A scope that the job has and one that it does not; nothing queued, and a copy with accesses to perform; a completion word that is pending and
one that is not. -/
theorem witness_FencesHintsAndVisibility :
    let s := sys [(2, 0x400008)]
    let busy : State := s.onCore 5 fun r => { r with copies := [(0, { Copy.reset with state := .active, strand := 1 })], copyOrder := 1 }
    let pending := withWords 0x6008 [0xFFFFFFFFFFFFFFFF] s
    Acts s 5 1 ∧ (8#5).toNat < 9 ∧ s.scopeDenied 5 8 = true ∧ s.scopeDenied 5 5 = false ∧ Drained s ∧ busy.copiesBusy 5 1 (busy.core 5).copyOrder = true ∧
    s.copiesBusy 5 1 (s.core 5).copyOrder = false ∧ s.jobOf 5 = some job ∧ (base []).jobOf 5 = none ∧ (s.cur.readX 2).toNat % 8 = 0 ∧
    Reaches s 0x400008 8 .load (.dev 0x6008) (walked s 0x400008 .load) ∧ (s.place 0x6008).isSome = true ∧ s.poisonAt (.dev 0x6008) = false ∧
    s.numAt (.dev 0x6008) 8 ≠ 2 ^ 64 - 1 ∧ pending.numAt (.dev 0x6008) 8 = 2 ^ 64 - 1 ∧
    { s with poisonFast := [(0x180, true)] }.poisonAt (.dev 0x6008) = true ∧ (s.translate 5 1 0x403000 .load).1.toOption = none ∧
    s.scopeDenied 5 0 = false :=
  ⟨⟨rfl, rfl⟩, by decide, by decide +kernel, by decide +kernel, ⟨rfl, rfl, rfl, rfl⟩, by decide +kernel, by decide +kernel, by decide +kernel, by decide +kernel,
    by decide +kernel, reaches_of (by decide +kernel), by decide +kernel, by decide +kernel, by decide +kernel, by decide +kernel, by decide +kernel,
    by decide +kernel, by decide +kernel⟩

theorem test_fences :
    after (exec (.waitvis 1 2 0) (sys [(2, 0x400008)])) (fun u => x1 u == 0x8000000000002211) = true ∧
    after (exec (.waitvis 1 2 0) (withWords 0x6008 [0xFFFFFFFFFFFFFFFF] (sys [(2, 0x400008)]))) (fun u =>
      (u.strand 5 1).wait == some (.completion 0x400008)) = true ∧
    after (exec (.fenceo 3 0 0) (sys [] .full id fun r => { r with dcache := [(0x180, 5)] })) (fun u => (u.core 5).dcache == []) = true ∧
    after (exec (.fenceo 2 0 0) (sys [] .full id fun r => { r with dcache := [(0x180, 5)] })) (fun u => (u.core 5).dcache != []) = true ∧
    Raises (.fencex 6 0 0) (sys []) { cause := 48, stval := 0x3E00037B, vcause := 0x600000016, pages := [] } :=
  ⟨by decide +kernel, by decide +kernel, by decide +kernel, by decide +kernel, raises_of (by decide +kernel)⟩

/-- STRSTART refused, turned away and taken; STEPEND; and RLIMSET refused, in a region without and with a limit. -/
theorem witness_StepWords :
    let s := sys [(2, 0x400103), (3, 0x402)]
    let region : Region := { cores := [5], tenant := 0, satp := 0, running := none, limit := none, frozen := false, resets := [] }
    Acts s 5 1 ∧ (part 0x400103 1 0 = 3 ∧ nonzero 0x400103 3 2 = false) ∧ nonzero 0x400107 3 2 = true ∧ (0x402#64).toNat % 4 ≠ 0 ∧
    ((s.strand 5 3).status = .idle ∧ (s.strand 5 3).ctxSaved = false ∧ (s.strand 5 3).heldBy = none) ∧ Drained s ∧ s.cur.walks = [] ∧
    s.copiesBusy 5 1 (s.core 5).copyOrder = false ∧ ((s.core 5).slots.any fun x => x.2.owner = 1 && x.2.live) = false ∧
    ((part 0x10000 15 0 = 0) ∧ part 0x10000 31 16 ≠ 0) ∧ (part 0x10001 15 0 ≠ 0 ∧ part 0x10001 31 16 ≠ 0 ∧ nonzero 0x10001 63 32 = false) ∧
    SMap.get none s.regions ((s.core 5).region.getD 64) = none ∧
    SMap.get none { s with regions := [(0, some region)] }.regions ((s.core 5).region.getD 64) = some region :=
  ⟨⟨rfl, rfl⟩, by decide, by decide, by decide, by decide +kernel, ⟨rfl, rfl, rfl, rfl⟩, rfl, by decide +kernel⟩

theorem test_step_words :
    after (exec (.stepend 0 0 0) (sys [] .full fun t => { t with inStep := true })) (fun u => (u.strand 5 1).status == .idle && !(u.strand 5 1).inStep) = true ∧
    after (exec (.strstart 1 2 3) (sys [(2, 0x400100), (3, 0x8000)] .full id fun r => { r with args := [(1, 77)] })) (fun u =>
      x1 u == 1 && (u.strand 5 0).pc == 0x8000 && (u.strand 5 0).readX 2 == 0x400100 && (u.strand 5 0).readX 11 == 77 &&
        (u.strand 5 0).status == .active) = true ∧
    Raises (.strstart 1 2 3) (sys [(2, 0x400101), (3, 0x8000)]) (illegalOperand 1 (encode (.strstart 1 2 3))) :=
  ⟨by decide +kernel, by decide +kernel, raises_of (by decide +kernel)⟩

/-! ## Jobs and contexts -/

theorem witness_JobIdentifiers : (sys []).jobs.length + (sys []).cores.length + 2 ≤ 2 ^ 32 := by decide

/-- A region of core 5, and one without a core. -/
def region : Region :=
  { cores := [5], tenant := 0, satp := 0, running := some 1, limit := none, frozen := false, resets := [] }

/-- A record of one leaf on core 0 of its region, with three steps, at 0x100 (R260 to R262): the bytes of it that are not 0, with some bytes of
its completion address. Addresses from 2^48 on map memory from 0 on. -/
def queueing (done : SMap Byte) : State :=
  { sys [(2, 0x1000000000100), (3, 0), (4, 1), (5, 64)] with
    fast := [(0x100, 1), (0x104, 1)] ++ done ++ [(0x180, 3), (0x189, 0x80), (0x192, 1), (0x199, 0x02), (0x19E, 1), (0x200, 1), (0x208, 3), (0x20C, 1),
      (0x1008, 0x01), (0x1009, 0x24), (0x9000, 0xDF)]
    regions := [(0, some region), (1, some { region with cores := [] })] }

/-- What `readJob` gives satisfies `p`. -/
def readsWith (s : State) (p : Read → State → Bool) : Bool :=
  match State.readJob s 5 1 0x1000000000100 with
  | (.ok q, t) => t.stop.isNone && p q t
  | _ => false

/-- Misaligned. Read, and turned away for a region that does not exist; refused for a region without a core; accepted, by the queue, as a child
and with the queue full; and its completion address fails. -/
theorem witness_JobQueueWords :
    Acts (queueing []) 5 1 ∧ (0x1000000000104#64).toNat % 64 ≠ 0 ∧ (0x1000000000100#64).toNat % 64 = 0 ∧ 64 ≤ ((queueing []).cur.readX 5).toNat ∧
    readsWith (queueing [(0x108, 8), (0x10E, 1)]) (fun q t =>
      t.region 0 == some region && t.jobOf 5 == some job && !beyond job q.head && q.refused 0 == some 0 && q.refused 1 == none &&
      (match t.translate 5 1 (BitVec.ofNat 64 (areaNum q.head 8 8)) .store with
        | (.ok p, u) =>
          p == .dev 8 && u.entryFor 0 false == some false && u.entryFor 0 true == some true &&
          { u with jobs := (List.range 56).map fun n => (n + 1, some job) }.entryFor 0 false == none &&
          ((u.store (.strand 5 1) (piecesOf p (List.replicate 8 0xFF))).settle 2
            (jobOfRecord q.head ((q.nodes.zip q.nests).map fun y => treeNode y.1 y.2) 0 1 0 p 0)).stop.isNone
        | _ => false)) = true ∧
    readsWith (queueing [(0x108, 8)]) (fun q t =>
      t.region 0 == some region && !beyond job q.head && q.refused 1 == none &&
      (t.translate 5 1 (BitVec.ofNat 64 (areaNum q.head 8 8)) .store).1.toOption.isNone) = true :=
  ⟨⟨rfl, rfl⟩, by decide, by decide, by decide, by decide +kernel, by decide +kernel⟩

/-- One leaf whose nest has depth 1 with `steps` steps of stride `stride`. -/
def oneLeaf (steps stride : Nat) : Read :=
  { head := [1, 0, 0, 0, 1] ++ List.replicate 123 0
    nodes := [[3] ++ List.replicate 17 0 ++ [1] ++ List.replicate 13 0]
    nests := [[1, 0, 0, 0, 0, 0, 0, 0] ++ (List.range 8).map (fun j => BitVec.ofNat 8 ((steps + 2 ^ 32 * stride) / 2 ^ (8 * j))) ++ List.replicate 48 0] }

/-- A record that R263 takes, one whose nest has a negative stride, and one that asks for more than its issuer holds. -/
theorem witness_records :
    let q := oneLeaf 3 0
    let bad := oneLeaf 3 0x80000000
    (q.nests.length = q.nodes.length ∧ q.nodes.length ≤ 64) ∧ ¬ RecordInvalid q 1 ∧ ¬ RecordInvalid bad 1 ∧ LevelInvalid bad 0 0 ∧
    (∀ l, l < 6 → ¬ LevelInvalid q 0 l) ∧ AsksBeyond job (q.head.set 1 1) ∧ (RecordInvalid (oneLeaf 3 0) 0) := by
  have child : ∀ n d p i, ¬ ChildOf (oneLeaf n d).nodes p i := by
    intro n d p i h
    have hp : p = 0 := Nat.lt_one_iff.1 h.1
    subst hp
    exact h.2.1 rfl
  have valid : ∀ d, (∀ i, i < 8 → areaNum ((oneLeaf 3 d).nests.getD 0 []) 0 1 = 1 ∧ areaNum ((oneLeaf 3 d).nests.getD 0 []) 1 7 = 0 ∧
      areaNum ((oneLeaf 3 d).nests.getD 0 []) 56 8 = 0) → ¬ RecordInvalid (oneLeaf 3 d) 1 := by
    intro d hn
    obtain ⟨h0, h1, h2⟩ := hn 0 (by decide)
    rintro (h | h | h | h | h | h | h | h | ⟨i, hi, h⟩ | ⟨p, hp, h, _⟩ | ⟨i, h0, hi, _⟩ | ⟨a, b, _, _, _, h, _⟩ | ⟨i, hi, _, h⟩ | ⟨p, hp, h, _⟩ | ⟨p, i, _, h, _⟩)
    · exact h (by show areaNum (oneLeaf 3 0).head 0 1 = 1; decide +kernel)
    · exact absurd h (by show ¬ 32 ≤ areaNum (oneLeaf 3 0).head 2 1; decide +kernel)
    · exact absurd h (by show ¬ 2 ^ 20 ≤ areaNum (oneLeaf 3 0).head 5 3; decide +kernel)
    · exact h (by show areaNum (oneLeaf 3 0).head 8 8 % 8 = 0; decide +kernel)
    · exact absurd h (by show ¬ 2 ≤ areaNum (oneLeaf 3 0).head 74 1; decide +kernel)
    · exact h (by show areaNum (oneLeaf 3 0).head 75 53 = 0; decide +kernel)
    · exact absurd h (by show ¬ areaNum (oneLeaf 3 0).head 4 1 = 0; decide +kernel)
    · exact absurd h (by show ¬ 64 < areaNum (oneLeaf 3 0).head 4 1; decide +kernel)
    · have : i = 0 := Nat.lt_one_iff.1 hi
      subst this
      rcases h with h | h | h | ⟨_, h | h | h | h | h⟩ | ⟨h, _⟩
      · exact absurd h (by show ¬ 3 < areaNum ((oneLeaf 3 0).nodes.getD 0 []) 0 1; decide +kernel)
      · exact h (by show areaNum ((oneLeaf 3 0).nodes.getD 0 []) 3 5 = 0; decide +kernel)
      · exact h (by show areaNum ((oneLeaf 3 0).nodes.getD 0 []) 20 4 = 0; decide +kernel)
      · exact h (by show areaNum ((oneLeaf 3 0).nodes.getD 0 []) 1 1 = 0; decide +kernel)
      · dsimp only at h; omega
      · dsimp only at h; omega
      · exact h h1
      · exact h h2
      · exact h (by show areaNum ((oneLeaf 3 0).nodes.getD 0 []) 0 1 = 3; decide +kernel)
    · have : p = 0 := Nat.lt_one_iff.1 hp
      subst this
      exact h (by show areaNum ((oneLeaf 3 0).nodes.getD 0 []) 0 1 = 3; decide +kernel)
    · exact absurd (Nat.lt_one_iff.1 hi) (by omega)
    · exact child 3 d a b h
    · have : i = 0 := Nat.lt_one_iff.1 hi
      subst this
      exact absurd h (by show ¬ 1 < areaNum ((oneLeaf 3 0).nodes.getD 0 []) 16 2 + areaNum ((oneLeaf 3 0).nodes.getD 0 []) 18 2; decide +kernel)
    · have : p = 0 := Nat.lt_one_iff.1 hp
      subst this
      exact absurd h (by show ¬ (areaNum ((oneLeaf 3 0).nodes.getD 0 []) 0 1 = 1 ∨ areaNum ((oneLeaf 3 0).nodes.getD 0 []) 0 1 = 2); decide +kernel)
    · exact child 3 d p i h
  refine ⟨by decide, valid 0 (by decide +kernel), valid 0x80000000 (by decide +kernel), ?_, ?_, ?_, ?_⟩
  · exact ⟨by decide, by decide +kernel, by decide, by decide +kernel⟩
  · intro l hl h
    obtain ⟨_, _, _, h⟩ := h
    revert h
    revert l
    decide +kernel
  · exact .inl (by decide +kernel)
  · refine .inr (.inr (.inr (.inr (.inr (.inr (.inr (.inr (.inr (.inr (.inr (.inr (.inl ⟨0, by decide, by decide +kernel, by decide +kernel⟩))))))))))))

/-- A QUEUED job of the strand's own job; a running one, and no job. -/
theorem witness_DEQ :
    let s : State := { sys [(2, 2), (3, 1), (4, 0x100000002)] with jobs := [(1, some job), (2, some { job with state := .queued, issuer := 1 })] }
    s.job 2 = some { job with state := .queued, issuer := 1 } ∧ (s.core 5).jobid = 1 ∧
    ((s.freeSaved 2 { job with state := .queued, issuer := 1 }).endEntry 2 { job with state := .queued, issuer := 1 } 1).stop = none ∧
    s.job 1 = some job ∧ job.state = .running ∧ 2 ^ 32 ≤ (s.cur.readX 4).toNat ∧
    after (exec (.deq 1 2 0) s) (fun u => x1 u == 1 && u.job 2 == none && u.numAt (.dev 0x6000) 8 == 1) = true := by
  decide +kernel

/-- A probe of 32 pages from 0x100000, and one of 32 pages in host memory. -/
def areaProbe : Probe :=
  { base := 0x100000, live := true, w := true, r := true, lenm1 := 0x1FFFF, pages := (List.range 32).map fun n => .dev (256 + n) }

def hostProbe : Probe := { base := 0x100000, live := true, w := true, r := true, lenm1 := 0x1FFFF, pages := List.replicate 32 (.host 0 0) }

/-- Strand 1, the monitor, with a probe of 0x100000 for an area, and strand 2 as given, among the chains of slot 0. -/
def monitor (t : Strand) (y : Slot := Slot.reset) (m : SMap Byte := []) (xs : SMap Word := [(2, 2), (3, 0x100000), (4, 4), (5, 1), (6, 0x100020)]) :
    State :=
  let s := sys xs .full (fun z => { z with
      priv := .s
      probes := [(0, areaProbe), (1, hostProbe)] })
    fun r => { r with slots := [(0, y)] }
  { s with strands := s.strands ++ [(22, t)], fast := s.fast ++ m }

/-- Strand 2, ACTIVE. -/
def other : Strand := { Strand.reset with status := .active, x := [(7, 99)], pc := 0x8000 }

theorem witness_ContextChecks :
    let s := monitor other
    Acts s 5 1 ∧ (0#5).toNat < 8 ∧ (sys []).cur.priv = .u ∧ s.cur.priv = .s ∧ 3 < (s.cur.readX 4).toNat ∧ (s.cur.readX 5).toNat = 1 ∧
    ((s.cur.readX 2).toNat ≤ 3 ∧ (s.cur.readX 2).toNat ≠ 1) ∧ (s.cur.readX 6).toNat % 64 ≠ 0 ∧ (s.cur.readX 3).toNat % 64 = 0 ∧
    (probeFault (s.cur.probe 2) 2 (encode (.ctxsv 1 2 3)) 0x100000 103104 false true).isSome = true ∧
    probeFault (s.cur.probe 0) 0 (encode (.ctxsv 0 2 3)) 0x100000 103104 false true = none ∧
    (monitor { other with heldBy := some 3 }).contextBusy 5 1 2 = true := ⟨⟨rfl, rfl⟩, by decide +kernel⟩

/-- HALTED, IDLE; with a vector word; with a chain that breaks, and one that runs; without room for a watch's token; and standing still. -/
theorem witness_ContextSave :
    let s := monitor other
    let busy := monitor { other with lq := [{ word := .vpref 0 0 0, pos := 0, pc := 0, front := other.front }] }
    let chain (x : SlotState) := monitor other { Slot.reset with owner := 2, state := x, p := x = .broken }
    Acts s 5 1 ∧ s.cur.priv = .s ∧ (s.cur.readX 2 = 2 ∧ s.cur.readX 3 = 0x100000) ∧
    probeFault (s.cur.probe 1) 1 (encode (.ctxsv 1 2 3)) 0x100000 103104 false true = none ∧ s.contextBusy 5 1 2 = false ∧
    ((monitor { other with status := .halted }).strand 5 2).status = .halted ∧ ((monitor { other with status := .idle }).strand 5 2).status = .idle ∧
    ((s.strand 5 2).status = .active ∧ (s.strand 5 2).pending = [] ∧ (s.strand 5 2).walks = []) ∧ (busy.strand 5 2).pending ≠ [] ∧
    ((chain .broken).breakSlot 5 2).isSome = true ∧
    ((chain .spatial).breakSlot 5 2 = none ∧ (((chain .spatial).core 5).slots.any fun e => e.2.owner = 2 && e.2.state = .spatial) = true) ∧
    (s.breakSlot 5 2 = none ∧ ((s.core 5).slots.any fun e => e.2.owner = 2 && e.2.state = .spatial) = false) ∧ s.watchRoom 5 2 = true :=
  ⟨⟨rfl, rfl⟩, by decide +kernel⟩

/-- Vector words of a strand that waits at a QPOPX stand still, from the QPOPX on; a fence that is clean does, and one that is not does not. -/
theorem witness_stands_still :
    let t : Strand := { other with status := .waiting, wait := some (.queue 3), aq := [queuedIn (.qpopx 1 51 0) other] }
    let f : Fence := { pc := 0, front := other.front, pos := 0, engine := false, order := 0, inval := true, clean := true }
    (∃ q, t.waitingPop = some q ∧ q.pos = 0) ∧ (∀ g ∈ ({ other with fences := [f] } : Strand).fences, g.clean = true) ∧
    (({ other with fences := [{ f with clean := false }] } : Strand).fences.any fun g => !g.clean) = true :=
  ⟨⟨queuedIn (.qpopx 1 51 0) other, by decide +kernel⟩, by decide +kernel⟩

/-- R286, R288: the area begins with version 1 and the jobid, and register 7 and the pc stand in section 0. -/
theorem test_area :
    let a := (saveArea (monitor other) 5 2 false).1
    areaNum a 0 8 = 0x0000000102050001 ∧ areaNum a 8 8 = 4000 ∧ areaNum a (64 + 8 * 6) 8 = 99 ∧ areaNum a (64 + 8 * 31) 8 = 0x8000 := by
  decide +kernel

/-- The save of strand 2 to host memory stops nothing. -/
theorem witness_saveStrand :
    (((monitor other).onStrand 5 2 fun y => { y with heldBy := some 1 }).saveStrand 5 1 2 hostProbe 0x100000).stop = none := by
  refine (State.saveStrand_keeps ?_ (by decide +kernel)).1
  intro bs hl i hi j hj
  rw [List.length_take, List.length_drop] at hj
  have hn : (0x100000#64 + word (64 * i + j)).toNat = 0x100000 + (64 * i + j) := by
    rw [word, BitVec.toNat_add, BitVec.toNat_ofNat, BitVec.toNat_ofNat]
    omega
  have hp : hostProbe.phys (0x100000#64 + word (64 * i + j)) = (PPage.host 0 0).base.plus ((0x100000 + (64 * i + j)) % 4096) := by
    unfold Probe.phys
    dsimp only
    rw [hn, show hostProbe.base.toNat / 4096 = 256 from rfl, show hostProbe.pages = List.replicate 32 (.host 0 0) from rfl,
      List.getElem?_replicate, if_pos (by omega)]
  exact (congrArg (State.isPlaced _) hp).trans rfl

/-- The bytes of a save area of strand 2 of core 5 that are not 0, up to section 4: a head for version 1, job 1 and 4000 bytes, 99 in register 7,
and the pc 0x8000 (R287, R288). -/
def areaBytes (version : Byte := 1) : SMap Byte :=
  [(0, version), (2, 5), (3, 2), (4, 1), (8, 0xA0), (9, 0x0F), (16, 64), (20, 0x20), (21, 0x02), (24, 0xA0), (25, 0x02), (28, 0xA0), (29, 0x02),
   (32, 0xA0), (33, 0x0E), (36, 0x20), (37, 0x0F), (40, 0xA0), (41, 0x0F), (44, 0xA0), (45, 0x0F), (48, 0xA0), (49, 0x0F), (0x70, 99), (0x139, 0x80)]

/-- Strand 2 IDLE, and an area at device address 0x100000, which the monitor's probe 0 names page by page. -/
def restoring (b : SMap Byte) (t : Strand := { other with status := .idle, satp := 0xA000000000000001 }) : State :=
  monitor t .reset (b.map fun e => (0x100000 + e.1, e.2))

/-- What is read of the area, where no line is poisoned and every byte is placed. -/
def areaOf (s : State) (n : Nat) : List Byte :=
  (List.range n).map fun i => s.byteAt (.dev (0x100000 + i))

theorem witness_ContextLoad :
    let s := restoring areaBytes
    let a := areaOf s 4000
    Acts s 5 1 ∧ s.cur.probe 0 = areaProbe ∧ (s.core 5).jobid = 1 ∧ (s.strand 5 2).status = .idle ∧ areaNum (areaOf (restoring (areaBytes 2)) 64) 0 1 = 2 ∧
    (areaNum a 0 1 = 1 ∧ areaNum a 8 8 = 4000 ∧ areaNum a 4 4 = 1 ∧ areaNum a 1 1 % 2 = 0 ∧ areaNum a (areaNum a 16 4 + 248) 8 = 0x8000) ∧
    (match s.loadStrand 5 2 a (encode (.ctxld 0 2 3)) with
      | .ok (some v) => v.stop.isNone && (v.strand 5 2).status == .active && (v.strand 5 2).readX 7 == 99 && (v.strand 5 2).pc == 0x8000
      | _ => false) = true :=
  ⟨⟨rfl, rfl⟩, by decide +kernel, by decide +kernel, by decide +kernel, by decide +kernel, by decide +kernel, by decide +kernel⟩

/-- Every byte of the area is placed. -/
theorem area_phys (i : Nat) (hi : i < 4000) : areaProbe.phys (0x100000#64 + word i) = .dev (0x100000 + i) := by
  have hx : (0x100000#64 + word i).toNat = 0x100000 + i := by
    rw [word, BitVec.toNat_add, BitVec.toNat_ofNat, BitVec.toNat_ofNat]
    omega
  have hq : (0x100000 + i) / 4096 - 256 = 0 := by omega
  unfold Probe.phys
  dsimp only
  rw [hx, show areaProbe.base.toNat / 4096 = 256 from rfl, hq]
  show (PPage.dev 256).base.plus ((0x100000 + i) % 4096) = _
  simp only [PPage.base, Phys.plus, Phys.dev.injEq]
  omega

theorem area_placed {s : State} (h : s.interleave = [(0, (0x8000000000200000, 0))]) (i : Nat) (hi : i < 4000) :
    s.isPlaced (areaProbe.phys (0x100000#64 + word i)) = true := by
  rw [area_phys i hi]
  have hl : (placeAmong (0x100000 + i) [(0, (0x8000000000200000, 0))]).isSome = true := by
    simp only [placeAmong, placeIn, show bits (0x8000000000200000 : Word) 10 0 = 0 from by decide, show bits (0x8000000000200000 : Word) 21 11 = 1024 from by decide,
      show bits (0x8000000000200000 : Word) 47 44 = 0 from by decide, show bit (0x8000000000200000 : Word) 63 = true from by decide]
    rw [if_pos (by rw [decide_eq_true (by omega : 0 * 2 ^ 30 ≤ 0x100000 + i), decide_eq_true (by omega : 0x100000 + i < 0 * 2 ^ 30 + 1024 * 2 ^ 30)]; rfl),
      if_pos (Nat.mod_one _)]
    rfl
  rw [← h] at hl
  exact hl

/-- The area is read as it stands. -/
theorem witness_readArea (b : SMap Byte) (n : Nat) (hn : n ≤ 4000) :
    (restoring b).readArea 5 1 areaProbe 0x100000#64 n = (.ok (areaOf (restoring b) n), restoring b) := by
  have hz : ∀ a, (restoring b).poisonAt (.dev a) = false := by
    intro a
    simp only [State.poisonAt]
    split
    · next T o _ => cases T <;> rfl
    · rfl
  rw [State.readArea_placed (fun i hi => area_placed rfl i (by omega)) rfl]
  have hb : ((List.range ((n + 63) / 64)).filter fun i => (restoring b).poisonAt (areaProbe.phys (0x100000#64 + word (64 * i)))) = [] := by
    rw [List.filter_eq_nil_iff]
    intro i hi
    rw [area_phys _ (by have := List.mem_range.1 hi; omega), hz]
    simp
  have ha : ((List.range n).map fun i => if (restoring b).poisonAt (areaProbe.phys (0x100000#64 + word i)) then (0 : Byte)
      else (restoring b).byteAt (areaProbe.phys (0x100000#64 + word i))) = areaOf (restoring b) n :=
    List.map_congr_left fun i hi => by rw [area_phys i (by have := List.mem_range.1 hi; omega), hz]; rfl
  simp only [hb, ha, List.head?_nil, ite_self, List.foldl_nil]

/-- A byte of the area lies in the fast tier at its own address. -/
theorem area_place {s : State} (h : s.interleave = [(0, (0x8000000000200000, 0))]) (i : Nat) (hi : i < 4000) :
    s.place (0x100000 + i) = some (.fast, 0x100000 + i) := by
  have hl : placeAmong (0x100000 + i) [(0, (0x8000000000200000, 0))] = some (.fast, 0x100000 + i) := by
    simp only [placeAmong, placeIn, show bits (0x8000000000200000 : Word) 10 0 = 0 from by decide, show bits (0x8000000000200000 : Word) 21 11 = 1024 from by decide,
      show bits (0x8000000000200000 : Word) 47 44 = 0 from by decide, show bit (0x8000000000200000 : Word) 63 = true from by decide]
    rw [if_pos (by rw [decide_eq_true (by omega : 0 * 2 ^ 30 ≤ 0x100000 + i), decide_eq_true (by omega : 0x100000 + i < 0 * 2 ^ 30 + 1024 * 2 ^ 30)]; rfl),
      if_pos (Nat.mod_one _)]
    simp only [show bits (0 : Word) 31 0 = 0 from by decide, Option.some.injEq, Prod.mk.injEq]
    exact ⟨trivial, by omega⟩
  rw [← h] at hl
  exact hl

/-- The bytes of the area that CTXSV writes lie apart in device memory outside poisoned lines. -/
theorem witness_save_spots :
    let s := monitor other
    let held := s.onStrand 5 2 fun y => { y with heldBy := some 1 }
    let now := held.beforeTrap 5 2
    let quiet := (now.dropCache 5).onCore 5 fun r => { r with
      slots := r.slots.map fun e => (e.1, if e.2.owner = 2 ∧ e.2.state = .temporal then { e.2 with state := .broken, resume := false } else e.2)
      copies := r.copies.map fun e => (e.1, if e.2.strand = 2 ∧ (e.2.state = .waiting ∨ e.2.state = .active) then
        { e.2 with state := .suspended } else e.2) }
    (saveArea quiet 5 2 (((now.jobOf 5).map (·.drop)).getD false)).1.length = 4000 ∧
    (∀ j, j < 4000 → (∃ m, areaProbe.phys (0x100000#64 + BitVec.ofNat 64 j) = .dev m ∧ s.place m = some (.fast, 0x100000 + j)) ∧
      now.tierPoison .fast (0x100000 + j) = false) ∧
    ∀ j j', ((Tier.fast, 0x100000 + j) : Tier × Nat) = (.fast, 0x100000 + j') → j = j' := by
  refine ⟨by decide +kernel, fun j hj => ⟨⟨0x100000 + j, area_phys j hj, area_place rfl j hj⟩, ?_⟩, fun j j' h => ?_⟩
  · show SMap.get false (((monitor other).onStrand 5 2 fun y => { y with heldBy := some 1 }).beforeTrap 5 2).poisonFast ((0x100000 + j) / 64) = false
    rw [show (((monitor other).onStrand 5 2 fun y => { y with heldBy := some 1 }).beforeTrap 5 2).poisonFast = [] from by decide +kernel]
    rfl
  · have := congrArg Prod.snd h
    dsimp only at this
    omega

/-- The area of the restored strand, on the state alone: outside poisoned lines, of 4000 bytes, and asking for no probe, range or row. -/
theorem witness_load_completes :
    let s := restoring areaBytes
    let at_ (m : Nat) : List Byte := (List.range m).map fun j => s.byteAt (areaProbe.phys (0x100000#64 + BitVec.ofNat 64 j))
    (∀ m, m ≤ 4000 → at_ m = areaOf s m) ∧
    (∀ j, j < 4000 → (∃ m, areaProbe.phys (0x100000#64 + BitVec.ofNat 64 j) = .dev m ∧ (s.place m).isSome = true) ∧
      s.poisonAt (areaProbe.phys (0x100000#64 + BitVec.ofNat 64 j)) = false) ∧
    areaNum (areaOf s 64) 0 1 = 1 ∧ areaNum (areaOf s 64) 8 8 = 4000 ∧ AsksNothing (areaOf s 4000) ∧
    probeFault areaProbe 0 (encode (.ctxld 0 2 3)) 0x100000 4000 true false = none := by
  refine ⟨fun m hm => List.map_congr_left fun j hj => by rw [← area_phys j (by have := List.mem_range.1 hj; omega)]; rfl, fun j hj => ⟨⟨_, area_phys j hj, ?_⟩, ?_⟩,
    by decide +kernel, by decide +kernel, ?_, by decide +kernel⟩
  · rw [area_place rfl j hj]
    rfl
  · rw [show areaProbe.phys (0x100000#64 + BitVec.ofNat 64 j) = _ from area_phys j hj]
    unfold State.poisonAt
    dsimp only
    rw [area_place rfl j hj]
    rfl
  · unfold AsksNothing
    decide +kernel

/-- A poisoned line of the area, with the job's poison-trap setting. -/
theorem witness_readArea_poisoned :
    let s (line : Nat) : State := { restoring areaBytes with jobs := [(1, some { job with poisonTrap := true })], poisonFast := [(0x100000 / 64 + line, true)] }
    ((s 0).readArea 5 1 areaProbe 0x100000#64 64).1.toOption = none ∧ ((s 1).readArea 5 1 areaProbe 0x100000#64 64).1.toOption.isSome = true ∧
    ((s 1).readArea 5 1 areaProbe 0x100000#64 4000).1.toOption = none := by
  intro s
  refine ⟨?_, ?_, ?_⟩
  · rw [State.readArea_placed (fun i hi => area_placed rfl i (by omega)) rfl]
    decide +kernel
  · rw [State.readArea_placed (fun i hi => area_placed rfl i (by omega)) rfl]
    decide +kernel
  · rw [State.readArea_placed (fun i hi => area_placed rfl i (by omega)) rfl]
    decide +kernel

/-- A saved probe of a page that is not mapped, and a saved row without a free row slot. -/
theorem witness_loadStrand :
    let s := restoring (areaBytes ++ [(3745, 0x30), (3746, 0x40), (3759, 0xA0)])
    let t : State := { restoring (areaBytes ++ [(3873, 0x20), (3874, 0x40), (3887, 0x80)]) with
      jobs := [(1, some { job with quota := 2 })]
      rowSlots := (List.range 4).map fun n => (4 * bankOf 28 + n, { block := some (8220 + 8192 * n), breaks := 0 }) }
    (s.loadStrand 5 2 (areaOf s 4000) (encode (.ctxld 0 2 3))).toOption = none ∧
    (t.loadStrand 5 2 (areaOf t 4000) (encode (.ctxld 0 2 3))).toOption = some none :=
  ⟨by decide +kernel, by decide +kernel⟩

/-! ## Vector words -/

/-- The strand with a mode in every mode register, VL and VSTART, and vector registers of eight slots. -/
def vec (mode : BitVec 32) (vl vs : Nat) (v : SMap Word := []) (xs : SMap Word := []) (f : Strand → Strand := id) (g : Core → Core := id) : State :=
  sys xs .full (fun t => f { t with
    modes := { i := mode, f := mode, m := mode, x := mode }, vl := BitVec.ofNat 12 vl, vstart := BitVec.ofNat 11 vs, v := v
    hwm := [(0, 8), (1, 8), (2, 8), (3, 8)], m := [(0, 5), (1, 6)] }) g

/-- The strand's word passes its checks; every register that it reads is full, and nothing waits. -/
def passing (i : Instr) (s : State) : Bool :=
  (badField i.fields 0).isNone && match typesOf i with
    | some (g, ok) => ok (etype (modeFor s.cur g)) (stype (modeFor s.cur g))
    | none => false

theorem passes_of {i : Instr} {s : State} (h : passing i s = true) : Passes i s.cur := by
  unfold passing at h
  cases hf : badField i.fields 0 with
  | some n => rw [hf] at h; simp at h
  | none =>
    rw [hf] at h
    cases ht : typesOf i with
    | none => rw [ht] at h; simp at h
    | some p => rw [ht] at h; exact ⟨hf, p.1, p.2, ht, by simpa using h⟩

def opened (i : Instr) (s : State) : Bool :=
  s.cur.lq == [] && s.cur.aq == [] && s.cur.sq == [] && s.cur.full (footprint i s.cur.modes) && s.cur.fences == []

theorem open_of {i : Instr} {s : State} (h : opened i s = true) : Open i s.cur := by
  simp only [opened, Bool.and_eq_true, beq_iff_eq] at h
  exact ⟨h.1.1.1.1, h.1.1.1.2, h.1.1.2, h.1.2, fun ⟨f, hf, _⟩ => by rw [h.2] at hf; exact absurd hf (by simp)⟩

/-- No chain of strand 1 that runs shares a register or mask with the word. -/
def apart (i : Instr) (s : State) : Bool :=
  let own := footprint i s.cur.modes
  let chain := s.chainItems 5 1
  ((own.reads ++ own.writes).all fun x => !chain.writes.contains x) && own.writes.all fun x => !chain.reads.contains x

theorem apart_of {i : Instr} {s : State} (h : apart i s = true) : Apart i s 5 1 := by
  simp only [apart, Bool.and_eq_true, List.all_eq_true, Bool.not_eq_true', List.contains_eq_mem, decide_eq_false_iff_not] at h
  exact h

/-- A word that may run: it passes, is open, and stands apart from every chain. -/
def ready (i : Instr) (s : State) : Bool := passing i s && (opened i s && apart i s)

theorem ready_iff {i : Instr} {s : State} (h : ready i s = true) : Passes i s.cur ∧ Ready i s 5 1 := by
  simp only [ready, Bool.and_eq_true] at h
  exact ⟨passes_of h.1, open_of h.2.1, apart_of h.2.2⟩

/-- A reserved register number; a float word of an integer type, in mode 1; and a word of nodes. -/
theorem witness_VectorWordChecks :
    let s := vec 0xF002 4 0
    (∃ ok, typesOf (.vadd 1 2 3) = some (0, ok)) ∧ badField (Instr.vmand 1 12 3).fields 0 = some 1 ∧
    (badField (Instr.vfadd 1 2 3).fields 0 = none ∧ setF (etype (modeFor s.cur 1)) = false) ∧
    (passing (.fsink 0 51 0) s = true ∧ fibreWordOf (.fsink 0 51 0) = true) := ⟨⟨_, rfl⟩, by decide +kernel⟩

theorem test_vector_checks :
    Raises (.vfadd 1 2 3) (vec 0xF002 4 0) { cause := 48, stval := (encode (.vfadd 1 2 3)).setWidth 64, vcause := 0x10200000003, pages := [] } ∧
    Raises (.fsink 0 51 0) (vec 0xF002 4 0) (illegalOperand 0 (encode (.fsink 0 51 0))) :=
  ⟨raises_of (by decide +kernel), raises_of (by decide +kernel)⟩

/-- An older word waits, and with it 31 others; nothing waits; the word acts, stalls on a tile that is FILLING, and faults at its first
element; and a load of a buffer finds no FREE entry. -/
theorem witness_VectorDispatch :
    let s := vec 0xF002 4 0 [] [(3, 0x703), (6, 0x400002)]
    let older : State := s.onStrand 5 1 fun t => { t with aq := [{ word := .vadd 1 2 3, pos := 0, pc := 0, front := t.front }] }
    let filling : State := s.setTile 5 7 (tile .filling)
    let crowd : State := s.onStrand 5 1 fun t => { t with aq := List.replicate 32 { word := .vadd 1 2 3, pos := 0, pc := 0, front := t.front } }
    let busy : State := s.onCore 5 fun y => { y with copies := (List.range 32).map fun n => (n, { Copy.reset with state := .waiting }) }
    (32 ≤ (heldIn crowd.cur (queueFor (.vadd 1 2 3))).length ∧ opnOf (encode (.mldw 3 2 4)) = 0x98 ∧ (∀ n ∈ List.range 32, (busy.copy 5 n).state ≠ .free)) ∧
    (dispatched (.vadd 1 2 3) = true ∧ dispatched (.vldt 1 3 0) = true ∧ dispatched (.vld 1 6 0) = true) ∧ Acts s 5 1 ∧
    (ready (.vadd 1 2 3) s = true ∧ ready (.vldt 1 3 0) filling = true ∧ ready (.vld 1 6 0) s = true) ∧ older.cur.aq ≠ [] ∧
    (match s.wordOf 5 1 s.cur.vpos (.vadd 1 2 3) s.cur.front with
      | (.ok n, u) => n == 4 && u.stop.isNone
      | _ => false) = true ∧
    (match filling.wordOf 5 1 s.cur.vpos (.vldt 1 3 0) s.cur.front with
      | (.stall, _) => true
      | _ => false) = true ∧
    (match s.wordOf 5 1 s.cur.vpos (.vld 1 6 0) s.cur.front with
      | (.trap e _, u) => e == 0 && u.stop.isNone
      | _ => false) = true :=
  ⟨by decide +kernel, by decide, ⟨rfl, rfl⟩, by decide +kernel⟩

/-- R20: behind an older word, the word enters its queue, and the strand goes past it. -/
theorem test_dispatch :
    after (exec (.vadd 1 2 3) ((vec 0xF002 4 0).onStrand 5 1 fun t => { t with aq := [{ word := .vadd 1 2 3, pos := 0, pc := 0, front := t.front }] }))
      (fun u => (u.strand 5 1).aq.length == 2 && (u.strand 5 1).pc == 0x1004) = true := by
  decide +kernel

/-- Registers 2 and 3 with INT32 elements 3, 5, 7, 9 and −1, 2, 4, 8. -/
def ints : SMap Word := [(256, 0x0000000500000003), (257, 0x0000000900000007), (384, 0x00000002FFFFFFFF), (385, 0x0000000800000004)]

/-- A slot of vector register 1 after a word. -/
def v1 (u : State) (sl : Nat) : Word := SMap.get 0 (u.strand 5 1).v (128 + sl)

/-- Registers, a queue that feeds and one that takes; and VSTART at VL. -/
theorem witness_ElementWordResults :
    let s := vec 0xF002 4 0 ints [] id fun r => { r with queues := [(3, { Queue.reset with items := [.tok (tVal 1), .tok { kind := 1, data := 0 }] })] }
    ((elementOf (.vadd 1 2 3)).isSome = true ∧ (elementOf (.vadd 1 51 3)).isSome = true ∧ (elementOf (.vadd 52 2 3)).isSome = true) ∧ Acts s 5 1 ∧
    (ready (.vadd 1 2 3) s = true ∧ ready (.vadd 1 51 3) s = true ∧ ready (.vadd 52 2 3) s = true) ∧
    Feeds (s.queue 5 3) 4 ∧ Takes s 5 4 4 ∧ (vec 0xF002 4 4 ints).cur.vstart.toNat = min 4 (vlmax 2) :=
  ⟨by decide, ⟨rfl, rfl⟩, by decide +kernel, ⟨by decide +kernel, by decide +kernel, by decide +kernel, .inr ⟨{ kind := 1, data := 0 }, by decide +kernel, .inl rfl⟩⟩,
    ⟨by decide +kernel, by decide +kernel, by decide +kernel, by decide +kernel⟩, by decide +kernel⟩

/-- R339, R341, R345, R355, R361, R210 by hand. -/
theorem test_elements :
    after (exec (.vadd 1 2 3) (vec 0xF002 4 0 ints)) (fun u => v1 u 0 == 0x0000000700000002 && v1 u 1 == 0x000000110000000B) = true ∧
    after (exec (.vmin 1 2 3) (vec 0xF002 4 1 ints)) (fun u => v1 u 0 == 0x0000000200000000 && v1 u 1 == 0x0000000800000004) = true ∧
    after (exec (.vsrlx 1 2 5) (vec 0xF002 4 0 ints [(5, 1)])) (fun u => v1 u 0 == 0x0000000200000001 && v1 u 1 == 0x0000000400000003) = true ∧
    after (exec (.vcmplt 2 2 3) (vec 0xF002 4 0 ints)) (fun u => SMap.get 0 (u.strand 5 1).m 2 == 0) = true ∧
    after (exec (.vcvtif 1 2 0) (vec 0xF02D 4 0 ints)) (fun u => v1 u 0 == 0x40A0000040400000) = true ∧
    after (exec (.vadd 52 2 3) (vec 0xF002 2 0 ints)) (fun u => (u.queue 5 4).items == [.tok (tVal 2), .tok (tVal 7)]) = true := by
  decide +kernel

theorem witness_StripWordResults :
    let s := vec 0xF002 4 1 ints [(3, 1)]
    (stripOf (.vrev 1 2 0)).isSome = true ∧ Acts s 5 1 ∧ ready (.vrev 1 2 0) s = true ∧ (1#6).toNat < 48 ∧ s.cur.vstart.toNat < min 4 (vlmax 2) ∧
    ¬ (vec 0xF002 4 4 ints).cur.vstart.toNat < min 4 (vlmax 2) ∧ ready (.vrev 1 2 0) (vec 0xF002 4 4 ints) = true :=
  ⟨by decide, ⟨rfl, rfl⟩, by decide +kernel⟩

/-- R357 to R360: reversed; slid up by 1, which leaves element 0; a sum 3 + 5 + 7 + 9 − 1; compressed by mask 0, elements 0 and 2. -/
theorem test_strips :
    after (exec (.vrev 1 2 0) (vec 0xF002 4 0 ints)) (fun u => v1 u 0 == 0x0000000700000009 && v1 u 1 == 0x0000000300000005) = true ∧
    after (exec (.vslideup 1 2 3) (vec 0xF002 4 0 ints [(3, 1)])) (fun u => v1 u 0 == 0x0000000300000000 && v1 u 1 == 0x0000000700000005) = true ∧
    after (exec (.vredsum 1 2 3) (vec 0xF002 4 0 ints)) (fun u => v1 u 0 == 23) = true ∧
    after (exec (.vcompress 1 2 0) (vec 0xF002 4 0 ints)) (fun u => v1 u 0 == 0x0000000700000003) = true := by
  decide +kernel

/-- VMPOPC; VINSX of an element that the guard allows, and of one beyond VLMAX. -/
theorem witness_MaskCountsAndElements :
    let s := vec 0xF002 4 0 ints [(4, 77), (5, 1), (6, 10000)]
    Acts s 5 1 ∧ (intoX s 5 1 (.vmpopc 7 0 0)).isSome = true ∧ ready (.vmpopc 7 0 0) s = true ∧ ready (.vinsx 1 4 5) s = true ∧ ready (.vinsx 1 4 6) s = true ∧
    ((s.cur.x? 5).toNat < vlmax 2 ∧ (reading s 5 1 (modeFor s.cur 0) 0).on 1 = true) ∧ ¬ (s.cur.x? 6).toNat < vlmax 2 :=
  ⟨⟨rfl, rfl⟩, by decide +kernel⟩

theorem test_masks :
    after (exec (.vmpopc 1 0 0) (vec 0xF002 4 0)) (fun u => x1 u == 2) = true ∧
    after (exec (.vmfirst 1 1 0) (vec 0xF002 4 0)) (fun u => x1 u == 1) = true ∧
    after (exec (.vmfirst 1 0 0) (vec 0xF002 2 1)) (fun u => x1 u == 0xFFFFFFFFFFFFFFFF) = true ∧
    after (exec (.vextx 1 3 0) (vec 0xF002 4 0 ints)) (fun u => x1 u == 0xFFFFFFFFFFFFFFFF) = true ∧
    after (exec (.vinsx 1 4 5) (vec 0xF002 4 0 ints [(4, 77), (5, 1)])) (fun u => v1 u 0 == 0x0000004D00000000) = true := by
  decide +kernel

/-! ## Vector words of memory, queues, buffers and tables -/

/-- The kind of a word of memory, what its first checks give, whether the first element that fails its check is `e`, and the elements
below it lie where the memory map places them. -/
def memLike (i : Instr) (s : State) (kind : Nat) (first : Nat) (e : Option Nat) : Bool :=
  let mapped : Lies → Bool
    | .mem _ q => (List.range (elemBytes (modeFor s.cur 2).t)).all fun b => match q.plus b with
      | .dev a => (s.place a).isSome
      | .host .. => true
    | .tile .. => true
  ready i s && match memOf s 5 1 i with
    | some (k, f) =>
      (match k with
        | .load => kind == 0
        | .store _ => kind == 1
        | .atomic _ => kind == 2) &&
      (match f.first with
        | .ok => first == 0
        | .bad _ => first == 1
        | .stall => first == 2) && decide (f.d.toNat < 48) &&
      ((List.range f.L).find? fun j => s.cur.vstart.toNat ≤ j && (reading s 5 1 (modeFor s.cur 2) s.cur.vstart.toNat).on j &&
        (elementExc s 5 1 k f j).isSome) == e &&
      (List.range f.L).all fun j => e.any (· ≤ j) || mapped (f.spot j)
    | none => false

/-- The vector state of the memory words: page 6 at 0x400000, tile 7 with eight elements in lines 4 and 5, row 2, and 32-bit indices 2, 0 in
register 2. -/
def vmem (mode : BitVec 32) (vl vs : Nat) (st : HState := .full) : State :=
  (vec mode vl vs [(128, 0x0000000B0000000A), (129, 0x0000000D0000000C), (256, 0x0000000000000002)]
    [(3, 0x703), (4, 0x90A), (5, 8), (6, 0x400008), (7, 0x400FFC), (8, 0x704)] id fun r => { r with l0 := [(4, 0x0000000400000003000000020000000100000000)] }).setTile 5 7
    (tile st)

/-- A probed load, one that faults at its second element, a tile's load refused and waiting, a row's load, stores and atomics. -/
theorem witness_VectorMemoryWords :
    Acts (vmem 0xF002 2 0) 5 1 ∧ memLike (.vld 1 6 0) (vmem 0xF002 2 0) 0 0 none = true ∧ memLike (.vld 1 7 0) (vmem 0xF002 2 0) 0 0 (some 1) = true ∧
    memLike (.vldt 1 8 0) (vmem 0xF002 2 0) 0 1 none = true ∧ memLike (.vldt 1 3 0) (vmem 0xF002 2 0 .filling) 0 2 none = true ∧
    memLike (.vldw 1 4 5) (vmem 0xF002 2 0) 0 0 none = true ∧ memLike (.vst 1 6 0) (vmem 0xF002 2 0) 1 0 none = true ∧
    memLike (.vstt 1 3 5) (vmem 0xF002 2 0) 1 0 none = true ∧ memLike (.vstu 1 6 0) (vmem 0xF002 2 0) 1 0 none = true ∧
    memLike (.vataddx 1 2 0) (vmem 0xF022 2 0) 2 0 none = true ∧ memLike (.vtmaxx 1 2 3) (vmem 0xF022 2 0) 2 0 none = true ∧
    memLike (.vld 1 6 0) (vmem 0xF002 2 2) 0 0 none = true :=
  ⟨⟨rfl, rfl⟩, by decide +kernel⟩

/-- R367, R371 to R373 by hand: memory 0x400008 holds 0x2211 and 0x80000000; tile elements are 0, 1, 2, 3, 4. -/
theorem test_memory_words :
    after (exec (.vld 1 6 0) (vmem 0xF002 2 0)) (fun u => v1 u 0 == 0x8000000000002211) = true ∧
    after (exec (.vldw 1 4 5) (vmem 0xF002 2 0)) (fun u => v1 u 0 == 0x8000000000002211) = true ∧
    after (exec (.vldtx 1 2 3) (vmem 0xF022 2 0)) (fun u => v1 u 0 == 0x0000000000000002) = true ∧
    after (exec (.vst 1 6 0) (vmem 0xF002 2 0)) (fun u => u.numAt (.dev 0x6008) 8 == 0x0000000B0000000A) = true ∧
    after (exec (.vtaddx 1 2 3) (vmem 0xF022 2 0)) (fun u => v1 u 0 == 0x0000000000000002 && u.tileBits 5 7 (u.tile 5 7) 2 == 12 &&
      u.tileBits 5 7 (u.tile 5 7) 0 == 11) = true ∧
    after (exec (.vld 1 7 0) (vmem 0xF002 2 0)) (fun u => (u.strand 5 1).vstart == 1 && (u.strand 5 1).sepc == 0x1000 &&
      (u.strand 5 1).vcause == 0x5 && (u.strand 5 1).stval == 0x401000) = true := by
  decide +kernel

/-- Queues of the tests: 3 has a VAL; 4 is claimed; 5 has had its DONE; 6 is full; 7 has a STOP of level 15; 8 is claimed by a
chain that runs. -/
def queues : SMap Queue :=
  [(3, { Queue.reset with items := [.tok (tVal 9)] }), (4, { Queue.reset with owner := some 22 }), (5, { Queue.reset with doneLatch := true }),
   (6, { Queue.reset with d := 1, items := [.tok (tVal 9)] }), (7, { Queue.reset with items := [.tok { kind := 1, data := 15 }] }), (8, { Queue.reset with owner := some 20 })]

def vqueues (xs : SMap Word := [(4, 14), (5, 15)]) (f : Strand → Strand := id) : State :=
  vec 0xF002 4 0 ints xs f fun r => { r with queues := queues, slots := [(0, { Slot.reset with state := .spatial, owner := 1, record := drainRecord })] }

/-- Each clause of each word. -/
theorem witness_QueueWords :
    let s := vqueues
    let n (f : BitVec 6) : Queue := s.queue 5 (f.toNat - 48)
    Acts s 5 1 ∧ ((pushedBy s.cur (.qpushx 57 4 0)).isSome = true ∧ ready (.qpushx 57 4 0) s = true ∧ ready (.qstopx 57 5 0) s = true ∧ ready (.qdone 53 0 0) s = true ∧
      ready (.qpushx 52 4 0) s = true ∧ ready (.qpushx 54 4 0) s = true) ∧
    ((n 52).owner ≠ none ∧ (n 57).owner = none ∧ (n 57).doneLatch = false ∧ (n 57).d - (n 57).held - airborne (s.core 5).flights 9 ≠ 0) ∧
    (14 < (s.cur.x? 5).toNat ∧ (n 53).doneLatch = true ∧ (n 53).owner = none ∧ (n 54).d - (n 54).held - airborne (s.core 5).flights 6 = 0) ∧
    (ready (.qpopx 1 51 0) s = true ∧ ready (.qpopx 1 52 0) s = true ∧ ready (.qpopx 1 57 0) s = true ∧ ready (.qpopx 1 55 0) s = true) ∧
    ((n 57).held = 0 ∧ (n 55).violation false = some 2 ∧ (n 55).owner = none ∧ (n 51).violation false = none ∧ (n 51).head = some (tVal 9)) ∧
    (ready (.qpeek 1 51 0) s = true ∧ ready (.qdrain 1 51 0) s = true ∧ ready (.qdrain 1 56 0) s = true) ∧
    ((n 56).owner = some 20 ∧ (s.slot 5 0).state ≠ .idle ∧ (s.slot 5 0).state ≠ .free ∧ (n 51).owner = none) :=
  ⟨⟨rfl, rfl⟩, by decide +kernel⟩

/-- R430 to R433 by hand. -/
theorem test_queue_words :
    after (exec (.qpushx 51 4 0) vqueues) (fun u => (u.queue 5 3).items == [.tok (tVal 9), .tok (tVal 14)]) = true ∧
    after (exec (.qpopx 1 51 0) vqueues) (fun u => x1 u == 9 && (u.queue 5 3).items == []) = true ∧
    after (exec (.qpopx 1 57 0) vqueues) (fun u => (u.strand 5 1).status == .waiting) = true ∧
    after (exec (.qpeek 1 51 0) vqueues) (fun u => x1 u == 64) = true ∧
    after (exec (.qpeek 1 52 0) vqueues) (fun u => x1 u == 0x80003) = true ∧
    after (exec (.qdrain 1 51 0) vqueues) (fun u => x1 u == 1 && (u.queue 5 3).items == []) = true := by
  decide +kernel

/-- Targets near and far; queues as above, here and at the neighbour; and a watch refused and armed. -/
theorem witness_PushArmAndPrefetch :
    let s : State := (vqueues [(4, 5), (5, 200), (6, 0x400008), (7, 0x40000C), (8, 0x400108), (9, 6)]).setCore 6 { Core.reset with region := some 0 }
    let more : State := { s with strands := s.strands.map fun e => (e.1, { e.2 with vl := 65, modes := { i := 0xF000, f := 0xF000, m := 0xF000, x := 0xF000 } }) }
    let four : State := s.onStrand 5 1 fun t => { t with watches := List.replicate 4 { unit := .dev 0x6008, q := 3, v0 := 0 } }
    let bad : State := { s with poisonFast := [(0x180, true)] }
    Acts s 5 1 ∧ (ready (.vpush 2 4 57) s = true ∧ ready (.vpush 2 5 57) s = true ∧ ready (.vpush 2 4 52) s = true ∧ ready (.vpush 2 4 54) s = true ∧
      ready (.vpush 2 4 53) s = true ∧ ready (.vpush 2 9 57) s = true ∧ ready (.vpush 2 4 57) more = true) ∧
    ((s.cur.x? 4).toNat = 5 ∧ neighbours 5 200 = false ∧ neighbours 5 6 = true ∧ (s.core 6).region = (s.core 5).region) ∧
    ((s.queue 5 4).owner ≠ none ∧ (s.queue 5 9).owner = none ∧ (s.queue 5 5).doneLatch = true ∧ (s.queue 5 6).d - (s.queue 5 6).held < 4) ∧
    64 < min more.cur.vl.toNat (vlmax 0) ∧
    (ready (.varm 57 6 0) s = true ∧ ready (.varm 52 6 0) s = true ∧ ready (.varm 57 7 0) s = true ∧ ready (.varm 57 6 0) four = true) ∧
    ((s.cur.x? 7).toNat % 8 ≠ 0 ∧ probeFault (s.cur.probe 1) 1 (encode (.varm 57 6 1)) 0x400008 8 true false ≠ none ∧
      probeFault (s.cur.probe 0) 0 (encode (.varm 57 6 0)) 0x400008 8 true false = none) ∧
    ((s.cur.probe 0).phys 0x400008 = .dev 0x6008 ∧ s.touch (.dev 0x6008) = s ∧ s.poisonAt (.dev 0x6008) = false ∧ bad.poisonAt (.dev 0x6008) = true ∧
      s.poisonTrap 5 = false ∧ { bad with jobs := [(1, some { job with poisonTrap := true })] }.poisonTrap 5 = true) ∧
    (4 ≤ four.cur.watches.length ∧ s.cur.watches.length < 4) ∧ ready (.vpref 0 6 0) s = true :=
  ⟨⟨rfl, rfl⟩, by decide +kernel⟩

theorem test_push_arm :
    after (exec (.vpush 2 4 57) (vqueues [(4, 5)])) (fun u => (u.queue 5 9).items == [.tok (tVal 3), .tok (tVal 5), .tok (tVal 7), .tok (tVal 9)]) = true ∧
    after (exec (.varm 57 6 0) (vqueues [(6, 0x400008)])) (fun u =>
      (u.strand 5 1).watches == [{ unit := .dev 0x6008, q := 9, v0 := 0x8000000000002211 }]) = true := by
  decide +kernel

/-- Tile 7 of 8-bit elements, in a state; tile 8 of 64-bit ones, or EMPTY ones for scales; a w buffer 3, a table 2, and copies. -/
def loading (st : HState := .full) (w : WBuf := .reset) (x : Codebook := .reset) (mode : BitVec 32 := 0xF000) (cs : SMap Copy := [])
    (xs : SMap Word := [(2, 0x703), (3, 0), (4, 5), (6, 0x704), (7, 0), (8, 0x703), (9, 0x804), (10, 0x703), (11, 0x903), (12, 0x803)]) (wc : BitVec 3 := 1) : State :=
  (((vec mode 4 0 ints xs id fun r => { r with wbufs := [(3, w)], cbs := [(2, x)], copies := cs }).setTile 5 7 (tile st 1 wc)).setTile 5 8 (tile .full 1 4)).setTile 5 9
    (tile .empty 1 1)

def allCopies : SMap Copy := (List.range 32).map fun n => (n, { Copy.reset with state := .waiting })

/-- MLDW: an odd register, a type of no class, a position too high, stale handles, wrong widths, states of the tiles, a busy buffer and no
FREE copy; and VCBLD likewise. -/
theorem witness_BufferAndTableLoads :
    let s := loading
    let wide := loading (xs := [(2, 0x703), (3, 0), (4, 0x1000000000000)])
    let t32 := loading (xs := [(2, 0x703)]) (wc := 3)
    Acts s 5 1 ∧ (ready (.mldw 3 3 4) s = true ∧ (3#6).toNat % 2 = 1) ∧
    (ready (.mldw 3 2 4) (loading (mode := 0xF050)) = true ∧ classOf (modeFor (loading (mode := 0xF050)).cur 3).s = none) ∧ classOf (modeFor s.cur 3).s ≠ none ∧
    (ready (.mldw 3 2 4) wide = true ∧ nonzero (wide.cur.x? 4) 63 48 = true ∧ nonzero (s.cur.x? 4) 63 48 = false) ∧
    (s.handleOk 5 0x704 = false ∧ s.handleOk 5 0x703 = true ∧ s.handleOk 5 0x804 = false ∧ ready (.mldw 3 6 4) s = true ∧ ready (.mldw 3 8 4) s = true) ∧
    (t32.tile 5 7).w ≠ width 0 ∧ (s.tile 5 7).w = width 0 ∧ (s.tile 5 8).w ≠ 8 ∧ (s.tile 5 9).w = 8 ∧
    ((loading .empty).tile 5 7).state = .empty ∧ ((loading .filling).tile 5 7).state = .filling ∧
    ((s.tile 5 7).res = 0 ∧ (s.tile 5 7).state = .full ∧ (s.tile 5 7).drains ≠ 63) ∧ ((s.tile 5 9).state = .empty ∧ s.handleOk 5 0x903 = true) ∧
    (s.freeCopy 5 = some 0 ∧ (s.wbuf 5 3).state = .empty) ∧ (loading (cs := allCopies)).freeCopy 5 = none ∧
    (ready (.vcbld 2 2 4) s = true ∧ ready (.vcbld 2 6 4) s = true ∧ ready (.vcbld 2 2 4) t32 = true ∧ (t32.tile 5 7).w = 32) ∧
    (t32.cb 5 2).filling = false ∧ ((loading (x := { Codebook.reset with filling := true })).cb 5 2).filling = true :=
  ⟨⟨rfl, rfl⟩, by decide +kernel⟩

theorem test_mldw :
    after (exec (.mldw 3 2 4) loading) (fun u => (u.wbuf 5 3).state == .filling && (u.copy 5 0).kind == .mldw 3 && (u.copy 5 0).cmd == [0x703, 0, 5, 0] &&
      (u.tile 5 7).drains == 1) = true ∧
    after (exec (.vcbld 2 2 4) (loading (wc := 3))) (fun u => (u.cb 5 2).filling && (u.copy 5 0).state == .waiting) = true := by
  decide +kernel

/-- A FULL buffer of class 1 (INT8) with weight 2 in row 0 of every even column, and a FP8 one. -/
def fullBuf (ty : BitVec 4) : WBuf := { WBuf.reset with state := .full, type := ty, elems := [(0, 2)], scales := [(0, 0x81)] }

/-- Each state of the buffer for each word. -/
theorem witness_WeightBufferWords :
    let s := loading .full (fullBuf 0)
    let e := loading
    let f := loading .full { WBuf.reset with state := .filling }
    let bad := loading .full { WBuf.reset with load := 2, entry := 6, addr := 0x400000 }
    Acts s 5 1 ∧ (ready (.mrelw 3 0 0) s = true ∧ (s.wbuf 5 3).state = .full ∧ (e.wbuf 5 3).state ≠ .full ∧ ready (.mrelw 3 0 0) e = true) ∧
    (passing (.mwaitw 3 0 0) s = true ∧ s.cur.lq ++ s.cur.aq ++ s.cur.sq = [] ∧ (f.wbuf 5 3).state = .filling ∧
      (bad.wbuf 5 3).state = .empty ∧ (bad.wbuf 5 3).load = 2 ∧ (e.wbuf 5 3).load ≠ 2) ∧
    ready (.mstat 1 3 0) s = true ∧ (ready (.vbscale 1 4 3) s = true ∧ ready (.vbscale 1 4 3) e = true) ∧
    (ready (.mrow 1 2 3) s = true ∧ ready (.mrow 1 2 3) e = true ∧ ready (.mrow 52 2 3) s = true ∧ (2#6).toNat < 48) ∧
    (classOf (modeFor s.cur 3).t = classOf (s.wbuf 5 3).type ∧ classOf (modeFor s.cur 3).t ≠ classOf ((loading .full (fullBuf 8)).wbuf 5 3).type) :=
  ⟨⟨rfl, rfl⟩, by decide +kernel⟩

/-- R396: MSTAT of a FULL INT8 buffer reads 2; R392: VBSCALE pairs scale 0x81 with 5; R393: the sum of column 0 is 3 · 2. -/
theorem test_weight_buffers :
    after (exec (.mstat 1 3 0) (loading .full (fullBuf 0))) (fun u => x1 u == 2) = true ∧
    after (exec (.mrelw 3 0 0) (loading .full (fullBuf 0))) (fun u => (u.wbuf 5 3).state == .empty) = true ∧
    after (exec (.vbscale 1 4 3) (loading .full (fullBuf 0))) (fun u => v1 u 0 == 0x0000000000008105) = true ∧
    after (exec (.mrow 1 2 3) (loading .full (fullBuf 0))) (fun u => v1 u 0 == 6 && v1 u 1 == 0) = true ∧
    after (exec (.mwaitw 3 0 0) (loading .full { WBuf.reset with load := 2, entry := 6, addr := 0x400000 })) (fun u =>
      (u.strand 5 1).sepc == 0x1004 && (u.strand 5 1).vcause == 0x60000000F && (u.strand 5 1).stval == 0x400000 && (u.wbuf 5 3).load == 0) = true := by
  decide +kernel

/-- A table that fills, one whose load failed, and one to read; elements below and at VL; and an accumulator. -/
theorem witness_DecodeAndReadOut :
    let s := loading (mode := 0xF008)
    let t := loading (mode := 0xF00D)
    Acts s 5 1 ∧ (ready (.vcbdec 1 2 2) s = true ∧ (1#6).toNat < 48 ∧ (s.cb 5 2).filling = false ∧ (s.cb 5 2).load ≠ 2) ∧
    (ready (.vcbdec 1 2 2) (loading (x := { Codebook.reset with filling := true }) (mode := 0xF008)) = true) ∧
    (ready (.vcbdec 1 2 2) (loading (x := { Codebook.reset with load := 2 }) (mode := 0xF008)) = true) ∧ ready (.vaccrd 1 2 4) t = true :=
  ⟨⟨rfl, rfl⟩, by decide +kernel⟩

/-- R401: the accumulators 3 and −2 as INT32 times 2^5 are 96 and −64, and they are cleared. -/
theorem test_vaccrd :
    after (exec (.vaccrd 1 2 4) ((loading (mode := 0xF002)).onStrand 5 1 fun t =>
        { t with vl := 2, v := [(256, 3), (257, 0xFFFFFFFFFFFFFFFE)] })) (fun u =>
      v1 u 0 == 0xFFFFFFC000000060 && (u.strand 5 1).v.all fun e => e.1 != 256 && e.1 != 257) = true := by
  decide +kernel

/-! ## Nodes at work -/

/-- Slot 0 of core 5 runs a chain of a node and an FSINK: q3 goes into node 0, and q4 comes out of it, or they stand at other ends. -/
def node (w : Instr) (kind : Nat) (ts : List Token) (q4 : Queue := { Queue.reset with owner := some 20, d := 8, n := 1 }) (x : NodeState := .reset)
    (ins : Nat := 0) (outs : Nat := 0) (param : Nat := 0) (g : Core → Core := id) (f : Slot → Slot := id) : State :=
  let s := chained .spatial ([rhead 2 2, qword 3 8 1 1 ins, qword 4 8 1 outs 1] ++ nwords (encode w) kind 0 param ++ nwords (encode (.fsink 0 52 0)) 2 0 0) (q3 ts ++ [(4, q4)]) []
    fun y => f { y with nodes := [(0, x)], modes := { i := 0xF002, f := 0xF00D, m := 0xF002, x := 0xF000 }, vl := 4 }
  { s.onCore 5 g with agent := .node 5 0 0 }

/-- What a node's token word is asked for gives a step. -/
def steps (s : State) (i : Instr) (b : Bool) : Bool :=
  let e := s.nodeEnv 5 0 0 false 0 0
  let nd := (s.slot 5 0).rec_.node 0
  match i.fields.map (·.1) with
  | [_, a, b'] =>
    ((tokenMove (modeOf (nd.modesIn (s.slot 5 0).modes).i) (encode i) (5, (s.slot 5 0).owner) nd.param ((s.slot 5 0).node 0)
      (tokensAt s (fieldQ e.ins (BitVec.ofNat 6 a))) (tokensAt s (if b = true then fieldQ e.ins (BitVec.ofNat 6 b') else none)) i).map (·.1)) == some b
  | _ => false

/-- FSINK and FREPT with a token, and without one. -/
theorem witness_FibreTokenWords :
    let s := node (.fsink 0 51 0) 2 [tVal 3]
    AtNode (.fsink 0 51 0) s 5 0 0 ∧ (Instr.fsink 0 51 0).fields.map (·.1) = [0#6, 51#6, 0#6].map BitVec.toNat ∧ steps s (.fsink 0 51 0) false = true ∧
    steps (node (.fsink 0 51 0) 2 []) (.fsink 0 51 0) false = true ∧
    AtNode (.fdrop 52 51 0) (node (.fdrop 52 51 0) 2 [tVal 3]) 5 0 0 ∧ steps (node (.fdrop 52 51 0) 2 [tVal 3]) (.fdrop 52 51 0) false = true :=
  ⟨⟨rfl, rfl, by decide +kernel, by decide +kernel, by decide +kernel, by decide +kernel, by decide +kernel, by decide +kernel⟩, by decide, by decide +kernel, by decide +kernel,
    ⟨rfl, rfl, by decide +kernel, by decide +kernel, by decide +kernel, by decide +kernel, by decide +kernel, by decide +kernel⟩, by decide +kernel⟩

/-- FSINK takes its token; FCRD counts them out; both by hand from R423 and R426. -/
theorem test_fibre_tokens :
    after (exec (.fsink 0 51 0) (node (.fsink 0 51 0) 2 [tVal 3, tDone])) (fun u => (u.queue 5 3).items == [.tok tDone]) = true ∧
    after (exec (.fsink 0 51 0) (node (.fsink 0 51 0) 2 [tDone])) (fun u => ((u.slot 5 0).node 0).finished) = true ∧
    after (exec (.fsink 0 51 0) (node (.fsink 0 51 0) 2 [])) (fun u => (u.queue 5 3).items == []) = true := by
  decide +kernel

/-- FVAL on tile 7 with reference 2. -/
def fval : State := (node (.fval 52 51 0) 2 [tVal 2] (param := 0x703) (g := fun r => { r with l0 := [(4, 0x0000000400000003000000020000000100000000)] })).setTile 5 7 (tile .full)

theorem witness_FibreTargetWords :
    let s := fval
    AtNode (.fval 52 51 0) s 5 0 0 ∧ (Instr.fval 52 51 0).fields.map (·.1) = [52#6, 51#6, 0#6].map BitVec.toNat ∧
    (let y := s.slot 5 0
     let nd := y.rec_.node 0
     (targetMove { s := s, c := 5, k := y.owner, place := nd.core, m := modeOf (nd.modesIn y.modes).i, param := nd.param,
                   phys := (y.rec_.ins 0).any fun j => y.rec_.physical j, user := y.user, vl := nd.vlIn y.vl, w := encode (.fval 52 51 0) }
       (decide ((s.queue nd.core 3).d ≤ (s.queue nd.core 3).held)) (y.node 0) (tokensAt s (fieldQ (s.nodeEnv 5 0 0 false 0 0).ins 51)) [] (.fval 52 51 0)).map (·.1)) =
      some false :=
  ⟨⟨rfl, rfl, by decide +kernel, by decide +kernel, by decide +kernel, by decide +kernel, by decide +kernel, by decide +kernel⟩, by decide, by decide +kernel⟩

theorem test_fval : after (exec (.fval 52 51 0) fval) (fun u => (u.queue 5 4).items == [.tok (tVal 2)] && (u.queue 5 3).items == []) = true := by
  decide +kernel

/-- A node that may fire. -/
def fires (s : State) (kind : Nat) : Bool :=
  s.stop.isNone && (s.slot 5 0).state == .spatial && (s.slot 5 0).breaking.isNone && 0 < (s.slot 5 0).rec_.nodes.length && !((s.slot 5 0).node 0).finished &&
    ((s.slot 5 0).rec_.node 0).kind == kind

theorem fires_iff {s : State} {kind : Nat} (h : fires s kind = true) : MayFire s 5 0 0 kind := by
  simp only [fires, Bool.and_eq_true, beq_iff_eq, decide_eq_true_eq, Bool.not_eq_true', Option.isNone_iff_eq_none] at h
  exact ⟨h.1.1.1.1.1, h.1.1.1.1.2, h.1.1.1.2, h.1.1.2, h.1.2, h.2⟩

/-- What a node's word does: 0 stall, 1 trap, 2 no element, 3 elements. -/
def acts (w : Instr) (s : State) (start base : Nat) : Nat :=
  match wordEffect w (s.nodeEnv 5 0 0 false start base) s with
  | (.stall, _) => 0
  | (.trap _ _, u) => if u.stop.isNone then 1 else 9
  | (.ok 0, u) => if u.stop.isNone then 2 else 9
  | (.ok _, u) => if u.stop.isNone then 3 else 9

/-- A full output queue, and one that has had its DONE. -/
def fullQ : Queue := { Queue.reset with owner := some 20, d := 1, n := 1, items := [.tok (tVal 1)] }
def doneQ : Queue := { Queue.reset with owner := some 20, d := 8, n := 1, doneLatch := true }

/-- Room in q4 of core 5, as the node finds it. -/
def room (s : State) : Nat := ((s.nodeEnv 5 0 0 false 0 0).outs.head?.map s.roomIn).getD 99

/-- Without a token; with a stop, one that its grammar refuses, and outputs with and without room or after DONE; with VALs that go through, wait
and find the output's DONE; without an input; and without an output. -/
theorem witness_LogicNodeFirings :
    let w : Instr := .vaddx 52 51 3
    let nd (ts : List Token) := node w 0 ts
    let src (x : NodeState) := node (.vaddx 52 2 3) 0 [] (x := x) (ins := 1)
    (fires (nd []) 0 = true ∧ ((nd []).slot 5 0).rec_.ins 0 = [0] ∧ (((nd []).slot 5 0).rec_.node 0).instr = some w ∧ ((nd []).queue 5 3).head = none) ∧
    (((nd [tStop 0]).queue 5 3).head = some (tStop 0) ∧ ((nd [tStop 0]).queue 5 3).violation false = none ∧ isE (tStop 0) ∧
      ((nd [tStop 3]).queue 5 3).violation false = some 3) ∧
    (room (nd [tStop 0]) ≠ 0 ∧ room (node w 0 [tStop 0] fullQ) = 0 ∧ ((node w 0 [tStop 0] doneQ).queue 5 4).doneLatch = true) ∧
    (acts w (nd [tVal 3]) 0 0 = 3 ∧ acts w (node w 0 [tVal 3] fullQ) 0 0 = 0 ∧ acts w (node w 0 [tVal 3] doneQ) 0 0 = 1) ∧
    (fires (src .reset) 0 = true ∧ ((src .reset).slot 5 0).rec_.ins 0 = [] ∧ acts (.vaddx 52 2 3) (src .reset) 0 0 = 3) ∧
    (at_ ((src { NodeState.reset with regs := [(1, 1)] }).slot 5 0 |>.node 0) 1 = 1 ∧
      acts (.vaddx 52 2 3) (src { NodeState.reset with regs := [(0, 4)] }) 4 0 = 2) ∧
    (((node (.vaddx 1 2 3) 0 [] (ins := 1) (outs := 1)).slot 5 0).rec_.outs 0 = [] ∧ acts (.vaddx 1 2 3) (node (.vaddx 1 2 3) 0 [] (ins := 1) (outs := 1)) 0 0 = 3) := by
  decide +kernel

theorem test_logic_node :
    after (exec (.lgNodeFire 5 0 0) (node (.vaddx 52 51 3) 0 [tStop 0])) (fun u => (u.queue 5 4).items == [.tok (tStop 0)] && (u.queue 5 3).items == []) = true ∧
    after (exec (.lgNodeFire 5 0 0) (node (.vneg 52 51 0) 0 [tVal 3, tVal 1])) (fun u => (u.queue 5 4).items == [.tok (tVal 0xFFFFFFFD), .tok (tVal 0xFFFFFFFF)]) = true := by
  decide +kernel

/-- A row of 32 VALs with its scale, at the head of q3. -/
def row : SMap Queue := [(3, { Queue.reset with owner := some 20, d := 64, n := 1, items := .scale 0x1F81 :: (List.range 32).map fun n => .tok (tVal (n % 3)) }),
  (4, { Queue.reset with owner := some 20, d := 256, n := 1 })]

def matrix (w : WBuf) (ts : List Token) (x : NodeState := .reset) (qs : Option (SMap Queue) := none) : State :=
  node (.mrow 52 51 0) 1 ts (x := x) (g := fun r => { r with wbufs := [(0, w)], queues := qs.getD r.queues })

/-- A row being pushed, with the output after DONE and not; without a token; a stop, and one that its grammar refuses; less than a row; a row
without its scale; a row, with the buffer EMPTY, of another class, and of its class. -/
theorem witness_MatrixNodeFirings :
    let s := matrix (fullBuf 0) [] (qs := some row)
    let ref (u : State) : Option QRef := (u.nodeEnv 5 0 0 false 0 0).ins.head?
    let at0 (u : State) : Nat := (ref u).elim 9 fun r => match u.rowAt r with
      | .none => 0
      | .bad _ => 1
      | .row => 2
    (fires (matrix (fullBuf 0) [] { NodeState.reset with toks := [tVal 1] }) 1 = true ∧ ((matrix (fullBuf 0) []).nodeEnv 5 0 0 false 0 0).outs.length = 1 ∧
      ((matrix (fullBuf 0) []).queue 5 4).doneLatch = false ∧ ((node (.mrow 52 51 0) 1 [] doneQ).queue 5 4).doneLatch = true) ∧
    (fires (matrix (fullBuf 0) []) 1 = true ∧ ((matrix (fullBuf 0) []).queue 5 3).head = none ∧ ((matrix (fullBuf 0) [tStop 0]).queue 5 3).violation true = none ∧
      ((matrix (fullBuf 0) [tStop 3]).queue 5 3).violation true = some 3) ∧
    (fires s 1 = true ∧ at0 s = 2 ∧ at0 (matrix (fullBuf 0) [tVal 1]) = 0 ∧ at0 (matrix (fullBuf 0) (List.replicate 32 (tVal 1))) = 1) ∧
    ((s.wbuf 5 0).state = .full ∧ (s.nodeEnv 5 0 0 false 0 0).outs.all (fun q => s.roomIn q ≠ 0 && s.bandIn q ≠ 0) = true ∧
      ((matrix .reset [] (qs := some row)).wbuf 5 0).state ≠ .full) ∧
    (classOf (modeOf (((s.slot 5 0).rec_.node 0).modesIn (s.slot 5 0).modes).x).t = some 1 ∧ classOf (fullBuf 0).type = some 1 ∧ classOf (fullBuf 8).type = some 0) := by
  decide +kernel

/-- R393: the row 0, 1, 2, 0, … against weight 2 in element 0 of column 0 gives 0 in every column. -/
theorem test_matrix_node :
    after (exec (.mnNodeFire 5 0 0) (matrix (fullBuf 0) [] (qs := some row))) (fun u =>
      (u.queue 5 4).held == 128 && tokensOf (u.queue 5 3).items == [] && SMap.get 0 (u.core 5).events 0x10 == 1) = true := by
  decide +kernel

/-- A source port on node 0, and the drain record's chain with a sink on node 1: a state of the port, and tokens. -/
def sourcing (p : PortState) (ts : List Token) (f : Port → Port := id) (q : Queue → Queue := id) : State :=
  let s := chained .spatial drainRecord [] [] id p
  s.onCore 5 fun r => { r with
    ports := [(0, f { Port.reset with state := p, desc := descriptor, strand := 1 })]
    queues := [(3, q { Queue.reset with owner := some 20, d := 1, n := 1, items := ts.map .tok })] }

/-- q3 feeds a DRAM sink of five bytes. -/
def sinking (p : PortState) (ts : List Token) (f : Port → Port := id) : State :=
  let s := chained .spatial ([rhead 2 1, qword 3 8 1 1 0] ++ nwords 0 3 0 0 ++ nwords (encode (.fdrop 51 52 0)) 2 0 0) (q3 ts) [] id p
  s.onCore 5 fun r => { r with ports := [(0, f { Port.reset with state := p, desc := [0x400008, 0x3004, 5, 1, 1, 1, 0, 0], strand := 1 })] }

/-- Sources: not ACTIVE, without room, after DONE, and with room for one token. Sinks: without a token, with one that its grammar refuses, with one
that the pattern does not call for, and with an element. -/
theorem witness_PortNodeFirings :
    let s := sourcing .active []
    let r : QRef := { field := 51, core := 5, q := 3, entry := 0 }
    (fires s 3 = true ∧ (s.nodeEnv 5 0 0 false 0 0).ins = [] ∧ (s.nodeEnv 5 0 0 false 0 0).outs = [r]) ∧
    ((portOf s 5 0 0).state = .active ∧ (portOf (sourcing .bound []) 5 0 0).state ≠ .active ∧ (sourcing .active [tVal 1]).roomIn r = 0 ∧ s.roomIn r = 1) ∧
    ((s.queue 5 3).doneLatch = false ∧ ((sourcing .active [] id fun q => { q with doneLatch := true }).queue 5 3).doneLatch = true) ∧
    ((sourceStep s 5 0 0 (s.nodeEnv 5 0 0 false 0 0) 0 r).any fun t => t.stop.isNone && t.roomIn r == 0) = true ∧
    (let k := sinking .active [tVal 7]
     fires k 3 = true ∧ (k.nodeEnv 5 0 0 false 0 0).ins = [r] ∧ (portOf k 5 0 0).state = .active ∧ ((sinking .active []).queue 5 3).head = none ∧
      ((sinking .active [tStop 3]).headFault r false).isSome = true ∧ k.headFault r false = none ∧ (sinking .active [tStop 0]).headFault r false = none ∧
      ((sinkStep k 5 0 0 (k.nodeEnv 5 0 0 false 0 0) 0 r (tVal 7)).any fun t => t.stop.isNone && (t.queue 5 3).head.isNone) = true) := by
  decide +kernel

/-- R214, R215: the first byte at 0x400008 is 0x11; R216: a port that is past its pattern ends with DONE. -/
theorem test_ports_work :
    after (exec (.sourcePortPush 5 0 0) (sourcing .active [])) (fun u => (u.queue 5 3).items == [.tok (tVal 0x11)] && (u.port 5 0).i0 == 1) = true ∧
    after (exec (.sourcePortPush 5 0 0) (sourcing .active [] fun p => { p with past := true })) (fun u =>
      (u.queue 5 3).items == [.tok tDone] && (u.port 5 0).state == .ended) = true := by
  decide +kernel

/-! ## Events of chains and copies -/

/-- A token of another core's node under way to q3. -/
def flight (t : Token) : Flight := { q := 3, item := .tok t, slot := some 20, node := 1, via := none }

/-- The drain chain with a core changed, and a slot. -/
def ev (st : SlotState) (g : Core → Core) (f : Slot → Slot := id) : State := (chained st drainRecord (q3 []) [] f).onCore 5 g

theorem witness_ChainEvents :
    let land := ev .spatial fun r => { r with flights := [flight (tVal 4)] }
    let full : State := ev .spatial fun r =>
      { r with flights := [{ flight (tVal 4) with slot := none, node := 63 }], limit := some (2, 100), admitted := [(3, 2)] }
    let latched := ev .spatial fun r => { r with flights := [flight (tVal 4)], queues := [(3, { Queue.reset with doneLatch := true })] }
    let b (c : BitVec 4) : Breaking := { cause := c, node := 0, queue := 0, vcause := 4, stval := 0x400000, pages := [], time := 7 }
    let brk (c : BitVec 4) := ev .spatial id fun y => { y with breaking := some (b c) }
    let ringFull : State := (brk 1).setDie 0 { (brk 1).die 0 with ringW := 4096 }
    let fired (ts : List Token) : Nat :=
      let u := (ev .temporal id fun y => { y with passAt := 1 }).onCore 5 fun r => { r with queues := q3 ts }
      match u.fire 5 0 1 true with
      | (.stall, _) => 0
      | (.ok m, v) => if v.stop.isNone then m else 9
      | (.trap _ _, v) => if v.stop.isNone && (u.strand 5 1).fences.isEmpty then 3 else 9
    let pastRun := ev .temporal id fun y => { y with nodes := [(0, { NodeState.reset with finished := true }), (1, { NodeState.reset with finished := true })] }
    let temp (x : NodeState) := ev .temporal id fun y => { y with nodes := [(1, x), (0, x)], passAt := 1 }
    let ended_ := ev .spatial id fun y => { y with nodes := [(0, { NodeState.reset with finished := true }), (1, { NodeState.reset with finished := true })] }
    (land.stop = none ∧ (land.core 5).flights.find? (fun f => f.q = 3) = some (flight (tVal 4)) ∧ land.fromOutside 5 (flight (tVal 4)) = false) ∧
    (full.fromOutside 5 { flight (tVal 4) with slot := none, node := 63 } = true ∧ (full.core 5).limit = some (2, 100) ∧ 2 ≤ SMap.get 0 (full.core 5).admitted 3 ∧ (latched.queue 5 3).doneLatch = true) ∧
    (((brk 3).slot 5 0).breaking = some (b 3) ∧ gathers (brk 3) ((brk 3).slot 5 0).rec_ = false) ∧
    ((brk 1).ringRoom (dieOf 5) 1 = true ∧ ringFull.ringRoom (dieOf 5) 1 = false) ∧
    ((ev .broken id fun y => { y with resume := true }).slot 5 0).resume = true ∧
    ((temp .reset).mayRemain 5 0 = true ∧ (((temp { NodeState.reset with finished := true }).slot 5 0).node 1).finished = true) ∧
    (fired [] = 0 ∧ fired [tVal 1] = 1 ∧ fired [{ kind := 3, data := 0 }] = 3) ∧
    (((temp .reset).slot 5 0).passAt = 1 ∧ ended_.runOver 5 0 = true ∧ (land.slot 5 0).state = .spatial ∧ (land.slot 5 0).breaking = none) ∧
    ((pastRun.slot 5 0).passAt = 0 ∧ pastRun.runOver 5 0 = true ∧ pastRun.mayRemain 5 0 = false) ∧
    (SMap.get 0 { land with advSent := [(9, 1)] }.advSent 9 = 1 ∧ (land.core 5).flights.all (fun f => f.via = none) = true) := by
  decide +kernel

/-- A slot whose nodes have all finished. -/
def finishedSlot (st : SlotState) : State :=
  ev st id fun y => { y with nodes := [(0, { NodeState.reset with finished := true }), (1, { NodeState.reset with finished := true })] }

/-- A run that is over, and one that is not; a pass that goes on, and none to begin. -/
theorem witness_RunOver :
    RunOver (finishedSlot .spatial) 5 0 ∧ ¬ RunOver (ev .spatial id) 5 0 ∧ Remains (ev .temporal id fun y => { y with passAt := 1 }) 5 0 ∧
    Remains (ev .temporal id) 5 0 ∧ ¬ Remains (finishedSlot .temporal) 5 0 := by
  refine ⟨?_, ?_, ?_, ?_, ?_⟩ <;> simp only [Remains, RunOver] <;> decide +kernel

theorem test_chain_events :
    after (exec (.tokenLand 5 3) (ev .spatial fun r => { r with flights := [flight (tVal 4)] })) (fun u => (u.queue 5 3).items == [.tok (tVal 4)] && (u.core 5).flights == []) = true ∧
    after (exec (.slotEnterTemporal 5 0) (ev .broken id fun y => { y with resume := true })) (fun u => (u.slot 5 0).state == .temporal) = true ∧
    after (exec (.runComplete 5 0) (ev .spatial id fun y => { y with nodes := [(0, { NodeState.reset with finished := true }), (1, { NodeState.reset with finished := true })] }))
      (fun u => (u.slot 5 0).state == .idle) = true ∧
    after (exec (.advancePass 3 9) { ev .spatial id with advSent := [(9, 1)] }) (fun u => u.phase 3 9 == 1) = true := by
  decide +kernel

/-- A copy of the tests, in entry 3: 64 bytes from memory to tile 7. -/
def copying (st : CopyState) (h : Word := 0x703) (t : HState := .filling) (f : Copy → Copy := id) (g : Core → Core := id) : State :=
  sys [] t id fun r => g { r with copies := [(3, f { Copy.reset with state := st, cmd := command h ++ [0x400000, 0xE000000000000FFF], srcPages := [.dev 6], strand := 1 })] }

/-- The same from tile 7 to memory. -/
def copyingOut (t : HState) (k : Tile → Tile := id) : State :=
  let s := copying .waiting 0x703 t fun x => { x with cmd := [0x8, 0x703, 0, 0x400000, 0, 64] }
  s.setTile 5 7 (k (tile t))

theorem witness_CopyEvents :
    let s := copying .waiting
    let tok (f : Copy → Copy) := copying .active 0x703 .filling fun x => f { x with cmd := [0x380040, 0x400000, 0, 0x703, 0, 64], beatsDone := true }
    let w (v : Word) (q : Queue) : State := sys [] .full (fun t => { t with watches := [{ unit := .dev 0x6008, q := 3, v0 := v }] }) fun r => { r with queues := [(3, q)] }
    (s.stop = none ∧ (s.copy 5 3).state = .waiting ∧ s.copiesBusy 5 1 0 = false ∧ (s.copy 5 3).handles = [0x703] ∧ s.handleOk 5 0x703 = true ∧ s.handleOk 5 0x704 = false) ∧
    (copying .active).copiesBusy 5 1 1 = true ∧ ((s.tile 5 7).res = 0 ∧ (s.copy 5 3).skind = 0 ∧ (s.copy 5 3).form = 0) ∧
    (((copyingOut .full).copy 5 3).skind = 1 ∧ ((copyingOut .full).copy 5 3).srcHeld = false ∧ ((copyingOut .full).tile 5 7).state = .full ∧
      ((copyingOut .filling).tile 5 7).state = .filling ∧ ((copyingOut .empty).tile 5 7).state = .empty) ∧
    (((copyingOut .draining fun t => { t with drains := 63 }).tile 5 7).drains = 63 ∧ ((copyingOut .full fun t => { t with res := 1 }).tile 5 7).res ≠ 0) ∧
    (((copying .active).copy 5 3).beatsDone = false ∧ ((copying .active).acopyBeat 5 3 ((copying .active).copy 5 3)).stop = none ∧ ((copying .active).copy 5 3).kind = .acopy) ∧
    ((copying .active 0x703 .filling fun x => { x with kind := .mldw 2, cmd := [0x703, 0, 0, 0] }).copy 5 3).offset < 32 ∧
    ((copying .active 0x703 .filling fun x => { x with kind := .vcbld 2, cmd := [0x703, 0] }).copy 5 3).offset = 0 ∧
    (((tok id).copy 5 3).arrived = false ∧ ((tok fun x => { x with arrived := true }).copy 5 3).wantsToken = true) ∧
    ((w 5 .reset).numAt (.dev 0x6008) 8 ≠ 5 ∧ (w 0x8000000000002211 .reset).numAt (.dev 0x6008) 8 = 0x8000000000002211 ∧
      ((w 5 { Queue.reset with d := 1, items := [.tok (tVal 0)] }).queue 5 3).held = 1) := by
  decide +kernel

theorem test_copy_events :
    after (exec (.copyActivate 5 3) (copying .waiting)) (fun u => (u.copy 5 3).state == .active) = true ∧
    after (exec (.copyActivate 5 3) (copying .waiting 0x704)) (fun u => (u.copy 5 3).state == .done && (u.copy 5 3).status == 2) = true ∧
    after (exec (.copyBeat 5 3) (copying .active)) (fun u => (u.copy 5 3).moved == 64 && (u.copy 5 3).beatsDone && u.tileBits 5 7 (u.tile 5 7) 2 == 0x2211) = true ∧
    after (exec (.arrivalToken 5 3) (copying .active 0x703 .filling fun x => { x with beatsDone := true })) (fun u =>
      (u.copy 5 3).state == .done && (u.tile 5 7).state == .full) = true ∧
    after (exec (.watchFire 5 1 0) (sys [] .full fun t => { t with watches := [{ unit := .dev 0x6008, q := 3, v0 := 5 }] })) (fun u =>
      (u.queue 5 3).items == [.tok (tVal 0x8000000000002211)] && (u.strand 5 1).watches == []) = true := by
  decide +kernel

/-! ## Events of strands, jobs and the device -/

/-- Interrupts of each kind, pending and enabled, in U mode; a break trap; and a strand that a context word holds. -/
theorem witness_StrandEvents :
    let s (e : Word) : State := base [] fun t => { t with sie := e, ssip := true, stimecmp := 0, notices := [{ kind := 4, arg := 7 }] }
    let brk := ev .broken id fun y => { y with p := true }
    let wt (w : Wait) : State := base [(17, 0x4E0)] fun t => { t with status := .waiting, wait := some w, notices := [{ kind := 4, arg := 7 }] }
    let q : Queued := { word := .vadd 1 2 3, pos := 0, pc := 0x1000, front := (base []).cur.front }
    let queued (v : SMap Bool) : State := vec 0xF002 4 0 ints [] fun t => { t with aq := [{ q with front := t.front }], feClear := v }
    (((s 0).strand 5 1).status = .active ∧ ((s 0).strand 5 1).lq = [] ∧ ((s 0).strand 5 1).aq = [] ∧ ((s 0).strand 5 1).sq = [] ∧ ((s 0).strand 5 1).walks = [] ∧
      ((s 0).strand 5 1).fault = none ∧ ((s 0).strand 5 1).fences = []) ∧ (s 0).inContext 5 1 = false ∧
    (Pending (s 512) 5 1 9 = true ∧ Pending (s 2) 5 1 1 = true ∧ Pending (s 2) 5 1 9 = false ∧ Pending (s 32) 5 1 5 = true ∧ Pending (s 32) 5 1 1 = false) ∧
    ((brk.slot 5 0).state = .broken ∧ (brk.slot 5 0).owner = 1 ∧ (brk.slot 5 0).p = true ∧ (brk.strand 5 1).tw = false ∧ (brk.strand 5 1).status = .active) ∧
    (((wt (.copy 3)).strand 5 1).wait = some (.copy 3) ∧ ((wt (.copy 3)).copy 5 3).state = .free ∧ ((wt (.queue 3)).queue 5 3).held = 0 ∧
      ((wt (.queue 3)).queue 5 3).owner = none) ∧
    (((wt .titania).strand 5 1).readX 17 = 0x4E0 ∧ ((wt .titania).strand 5 1).notices.length = 1) ∧
    (((queued []).cur.heads.map (·.word)) = [.vadd 1 2 3] ∧ (queued []).cur.fences = [] ∧ (queued []).undos = []) ∧
    (match (queued []).wordOf 5 1 0 (.vadd 1 2 3) (queued []).cur.front with
      | (.ok _, u) => u.stop.isNone
      | _ => false) = true ∧
    ((elementOf (.vadd 1 2 3)).isSome = true ∧ ((queued []).core 5).slots = []) ∧
    ([4] : List Nat).contains 4 = true := by
  decide +kernel

/-- A strand of a vector state with a VADD queued, and behind it a VMUL of its result, or of other registers. -/
def adding (younger : Option Instr) (f : Strand → Strand := id) : State := vec 0xF002 4 0 ints [] fun t =>
  f { t with aq := { word := .vadd 1 2 3, pos := 0, pc := 0x1000, front := t.front } ::
                (younger.map fun w => ({ word := w, pos := 1, pc := 0x1004, front := t.front } : Queued)).toList }
def queuedAt (s : State) (n : Nat) : Queued := s.cur.aq.getD n { word := .ebreak, pos := 0, pc := 0, front := s.cur.front }

/-- A word that the sequencer may look at, and ones that it may not: behind a hazard, and with a register that is empty. -/
theorem witness_Open_ :
    Open_ (adding none) 5 1 (queuedAt (adding none) 0) ∧ Open_ (adding (some (.vmul 4 2 3))) 5 1 (queuedAt (adding (some (.vmul 4 2 3))) 1) ∧
    ¬ Open_ (adding (some (.vmul 4 1 3))) 5 1 (queuedAt (adding (some (.vmul 4 1 3))) 1) ∧
    ¬ Open_ (adding none fun t => { t with feClear := [(2, true)] }) 5 1 (queuedAt (adding none) 0) ∧
    TrapsNow (adding none).cur (queuedAt (adding none) 0) ∧
    ¬ TrapsNow (adding (some (.vmul 4 2 3))).cur (queuedAt (adding (some (.vmul 4 2 3))) 1) ∧ ¬ HasRunning (adding none) 5 1 := by
  refine ⟨?_, ?_, ?_, ?_, ?_, ?_, ?_⟩ <;> simp only [Open_, TrapsNow, HasRunning] <;> decide +kernel

/-- A strand that waits at a QPOPX stands at a boundary, and goes back to it. -/
theorem witness_Boundary_ :
    let t : Strand := { other with status := .waiting, wait := some (.queue 3), aq := [queuedIn (.qpopx 1 51 0) other] }
    (∃ q, waitedPop t = some q ∧ ∀ o ∈ t.lq ++ t.aq ++ t.sq, q.pos ≤ o.pos) ∧ waitedPop { t with wait := some (.queue 4) } = none :=
  ⟨⟨queuedIn (.qpopx 1 51 0) other, by decide +kernel⟩, by decide +kernel⟩

theorem test_strand_events :
    after (exec (.interruptEntry 5 1) (base [] fun t => { t with sie := 2, ssip := true, stimecmp := 0, stvec := 0x8000 })) (fun u =>
      (u.strand 5 1).scause == 0x8000000000000001 && (u.strand 5 1).sepc == 0x1000 && (u.strand 5 1).priv == .s && (u.strand 5 1).pc == 0x8000) = true ∧
    after (exec (.waitEnd 5 1) (base [] fun t => { t with status := .waiting, wait := some (.copy 3) })) (fun u => (u.strand 5 1).status == .active) = true ∧
    after (exec (.titaniaReply 5 1 0 9) (base [(17, 0x4E0)] fun t => { t with status := .waiting, wait := some .titania })) (fun u =>
      (u.strand 5 1).readX 11 == 9 && (u.strand 5 1).pc == 0x1004) = true ∧
    after (exec (.vectorAdmission 5 1) (vec 0xF002 4 0 ints [] fun t => { t with aq := [{ word := .vadd 1 2 3, pos := 0, pc := 0x1000, front := t.front }] })) (fun u =>
      v1 u 0 == 0x0000000700000002 && (u.strand 5 1).aq == []) = true ∧
    after (exec (.vectorWalkComplete 5 1 4) (base [] fun t => { t with walks := [4], feClear := [(4, true)] })) (fun u => (u.strand 5 1).walks == []) = true := by
  decide +kernel

/-- A job of one leaf on core 0 of region 0, with three steps. -/
def leaf : TreeNode :=
  { kind := .leaf, nchild := 0, first := 0, entry := 0x8000, coreFirst := 0, coreCount := 1, nest := { depth := 1, bounds := [3], steps := [8] } }

def working (f : Job → Job := id) (g : Region → Region := id) (more : SMap (Option Job) := []) : State :=
  { base [] with jobs := [(1, some (f { job with tree := [leaf] }))] ++ more, regions := [(0, some (g region))] }

theorem witness_JobEvents :
    let s := working
    let steps_ (w : Walker) := working fun j => { j with walkers := [(0, w)] }
    let queued (v : Word) : State := withWords 0x6010 [v] (working fun j => { j with state := .queued, preds := [0x400010, 0, 0, 0], root := 0xA000000000000001 })
    (s.stop = none ∧ s.region 0 = some region ∧ region.running = some (BitVec.ofNat 32 1) ∧ s.job 1 = some { job with tree := [leaf] } ∧ s.anyHalted region = false) ∧
    (((queued 2).depend (((queued 2).job 1).getD job) = .failed ∧ ((queued 0).depend (((queued 0).job 1).getD job) = .met) ∧
      ((queued 0xFFFFFFFFFFFFFFFF).depend (((queued 0xFFFFFFFFFFFFFFFF).job 1).getD job) = .unmet))) ∧
    ({ job with tree := [leaf] }.mayStep 0 = true ∧ { job with tree := [leaf] }.mayStep 1 = false) ∧
    ((((steps_ { Walker.reset with c := [0], running := true }).job 1).getD job).walker 0).running = true ∧ s.coreOver 5 = true ∧
      (base [] fun t => { t with inStep := true }).coreOver 5 = false ∧
    (bestOf ((working (fun j => { j with state := .ready }) fun r => { r with running := none }).jobsOf 0)).map (·.1) = some 1 ∧
    (∀ e ∈ [(1, { job with tree := [leaf] })], e.2.walkers = []) ∧ s.time = 0 ∧ (s.core 6).region = none ∧ (s.core 6).slots = [] := by
  decide +kernel

/-- A job with a failed predecessor, one that draws from the account beyond its reserve, a window that is over and one that is not yet, and a core
alone that nothing names. -/
theorem witness_accounts :
    let s := base []
    let spent : Job := { job with reserve := 30 }
    (working.jobs.map (·.1)).Nodup ∧ drawn [(0, 50)] spent = 20 ∧ drawn [(0, 10)] spent = 0 ∧ drawn [(0, 50)] { spent with state := .ready } = 0 ∧
    HasRegion working 0 1 { job with tree := [leaf] } region ∧ ({ job with tree := [leaf] } : Job).region = 0 ∧ (100 ≤ 99 + 1 ∧ ¬ 100 ≤ 98 + 1) ∧
    ((s.core 6).region = none ∧ (s.core 6).ports = [] ∧ (∀ k, k < 4 → (s.strand 6 k).sq = []) ∧
      (∀ e ∈ s.cores, e.1 ≠ 6 → ∀ f ∈ e.2.flights, f.src ≠ 6) ∧
      ∀ e ∈ s.cores, ∀ y ∈ e.2.slots, y.2.state ≠ .spatial ∨ ∀ n, n < y.2.rec_.nodes.length → (y.2.rec_.node n).core ≠ 6) :=
  ⟨by decide +kernel, by decide +kernel, by decide +kernel, by decide +kernel, ⟨rfl, rfl, by decide, rfl⟩, rfl, by decide,
    by decide +kernel, by decide +kernel, by decide +kernel, by decide +kernel, by decide +kernel⟩

/-- R233, R484: the reserve pays before the account, and 115 °C freezes. -/
theorem test_energy :
    after (exec (.energyAccountTick [(0, 50)] 0 90) { working (fun j => { j with reserve := 30 }) with account := 1000, powerCap := 2400 }) (fun u =>
      ((u.job 1).getD job).reserve == 0 && u.account == 1000 + 2400 - 20 && u.frozen == none) = true ∧
    after (exec (.energyAccountTick [] 0 115) working) (fun u => u.frozen == some .onyx && u.temp == 115) = true := by
  decide +kernel

/-- The region's tables map nothing, so that the step record has no place; the leaf's step starts. -/
theorem witness_stepEntry (j : Job) (hj : j.region = 0) : (working.enterCore j 0 0 5).stop = none := by
  have hw : ∀ va, working.walk 0 va = none := fun va => by
    unfold State.walk
    rw [show bits (0 : Word) 63 60 = 0 from by decide]
    simp
  have ht : ∀ d : List (Word × Byte), d.foldl (fun (u : State) x => u.walkTouch 0 x.1) working = working := fun d => by
    induction d with
    | nil => rfl
    | cons x d ih => rw [List.foldl_cons, State.walkTouch_same working 0 x.1 rfl, ih]
  have hp : ∀ d, (working.placeData 0 d).stop = none := fun d => by
    unfold State.placeData
    simp only [hw, Option.map_none, List.filterMap_eq_nil_iff.2 fun _ _ => rfl, List.foldl_nil, ht]
    exact (State.store_keeps (s := working) (.other 0) (ps := []) (by simp)).1
  unfold State.enterCore
  simp only [State.onStrand_stop, State.onCore_stop]
  rw [show ((working.region j.region).elim 0 fun x => x.satp) = 0 from by rw [hj]; rfl]
  exact hp _

theorem test_job_events :
    after (exec (.dependenceMet 1) (withWords 0x6010 [2] (working fun j => { j with state := .queued, preds := [0x400010, 0, 0, 0], root := 0xA000000000000001 })))
      (fun u => u.job 1 == none && u.numAt (.dev 0x6000) 8 == 3) = true ∧
    after (exec (.jobSelection 0) (working (fun j => { j with state := .ready, tree := [{ leaf with nest := { leaf.nest with bounds := [0] } }] })
      fun r => { r with running := none })) (fun u => u.job 1 == none && u.numAt (.dev 0x6000) 8 == 0) = true ∧
    after (exec (.quantumExpiry 0) (working (fun j => { j with quantum := 5 }) id [(2, some { job with state := .ready })])) (fun u =>
      ((u.job 1).getD job).state == .stopping && ((u.job 1).getD job).grace == 20000) = true := by
  decide +kernel

/-- Tiles of the tests in each state, a region without jobs, a channel, an interleave entry, and watchdogs. -/
theorem witness_MemoryAndTableEvents :
    let s := sys []
    let wd (n : Nat) : State := base [] (fun t => { t with wdRun := n }) fun r => { r with queues := [(3, { Queue.reset with wdRun := n })], circuits := [(6, n)] }
    let free : State := { s with regions := [(2, some { region with cores := [6], running := none })] }
    (s.stop = none ∧ (15 : Nat) < 31 ∧ (255 : Nat) < 256) ∧ (((wd (2 ^ 24)).strand 5 1).wdRun = 2 ^ 24 ∧ ((wd (2 ^ 24 - 1)).strand 5 1).wdRun < 2 ^ 24) ∧
    ((s.rowSlot (bankOf 24) 0).block = some 24 ∧ (s.rowSlot (bankOf 24) 1).block = none ∧ (s.rowSlot 7 0).block = none ∧ (s.rowSlot (bankOf 24) 0).breaks ≠ BitVec.allOnes 16) ∧
    ((SMap.get 0 s.lend 9).toNat % 4 = 0 ∧ s.holdsRow 9 = false ∧ (SMap.get 0 { s with lend := [(9, 1), (8, 2)] }.lend 9).toNat % 4 = 1) ∧
    (s.region 2 = none ∧ (s.core 6).region = none ∧ free.region 2 = some { region with cores := [6], running := none } ∧ free.jobsOf 2 = []) ∧
    ((0x200000#64).getLsbD 63 = false ∧ s.badInterleave 0 0x8000000000200000 0 = true) ∧
    ((∀ c ∈ s.cores, c.2.slots = []) ∧ part 0xE000000000000001 60 45 = 0 ∧ part 0xE000000000000001 39 32 = 0) ∧
    (((s.tile 5 7).allocated = true ∧ (s.tile 5 7).state = .full ∧ (s.tile 5 7).res = 0 ∧ (s.tile 5 9).allocated = false) ∧ freeRun (s.levelRuns true 5) 40 1 = true) ∧
    ((s.core 5).jobid = (s.tile 5 7).job ∧ (s.core 5).copies = []) := by
  decide +kernel

/-- A window over a page that the device does not have, and none. -/
theorem witness_Exposed :
    Exposed { sys [] with devWindows := [(0, some { base := 0, page := 0x12000000, pages := 1, stream := none })] } ∧ ¬ Exposed (sys []) :=
  ⟨.inl ⟨_, List.mem_singleton.2 rfl, _, rfl, 0, by decide, .inl (by decide)⟩,
    fun h => h.elim (fun ⟨_, h, _⟩ => absurd h List.not_mem_nil) fun ⟨_, h, _⟩ => absurd h List.not_mem_nil⟩

/-- A page of DRAM that no window may not cover, where Titania's memory and the rings lie elsewhere. -/
theorem witness_unguarded (ht : Config.titaniaPage 6 = false) (hr : ∀ d, d < 4 → 0x8000 ≤ ringSlot d 0) : ¬ GuardedIn (sys []) 6 1 := by
  have hp : ∀ i, i < 64 → (sys []).place (4096 * 6 + 64 * i) = some (.fast, 4096 * 6 + 64 * i) := by decide +kernel
  rintro ⟨n, hn, h⟩
  obtain rfl : n = 0 := by omega
  rcases h with h | h | h | ⟨i, o, d, hi, hd, ho, hl, _⟩
  · omega
  · exact absurd h (by rw [ht]; decide)
  · exact absurd h (by decide +kernel)
  · rw [show 4096 * (6 + 0) + 64 * i = 4096 * 6 + 64 * i from rfl, hp i hi] at ho
    have := congrArg (·.map Prod.snd) ho
    simp only [Option.map_some, Option.some.injEq] at this
    have := hr d hd
    omega

/-- Cores of a rectangle and of none; a bank with a row that a strand holds; and copies that the revocation of their handle ends: one that moves,
and one whose last beat has come and whose arrival has not. -/
theorem witness_tables :
    let x : Copy := { Copy.reset with state := .active, cmd := command 0x703 }
    Rect [64, 65] ∧ ¬ Rect [64, 66] ∧ rowsHeldIn (sys []) (bankOf 24) 0 ((sys []).strand 5 1) = 1 ∧
    RevokedCopy 0x703 x = true ∧ RevokedCopy 0x703 { x with beatsDone := true } = true ∧
    RevokedCopy 0x703 { x with beatsDone := true, arrived := true } = false ∧ (sys []).keptTags = [] := by
  simp only [Rect]
  decide +kernel

theorem test_memory_events :
    after (exec (.dramUncorrectableError .fast 384) (sys [])) (fun u => u.poisonAt (.dev 0x6008)) = true ∧
    after (exec (.channelLend 9) (sys [])) (fun u => SMap.get 0 u.lend 9 == 0x101 && SMap.get 0 u.lend 8 == 2) = true ∧
    after (exec (.tileDemote 5 7 40) (sys [])) (fun u => (u.tile 5 7).res == 1 && (u.tile 5 7).base == 40) = true ∧
    after (exec (.regionCreate 2 0 [6] 7) (sys [])) (fun u => (u.core 6).region == some 2) = true ∧
    after (exec (.handleRevocation 5 7) (sys [])) (fun u => !(u.tile 5 7).allocated && (u.tile 5 7).gen == 4) = true := by
  decide +kernel

/-- The machine up and running, with a device window of port 1 over page 6, and a channel with a request. -/
def hosted : State :=
  { sys [] with
    boot := .running 3
    devWindows := [(256, some { base := 0x10000, page := 6, pages := 1, stream := none })]
    channels := [(2, { tail := 1, head := 0 })]
    fabricWindows := [(4, some { tag := 9, page := 6, pages := 1 })]
    herez := [(0, { Herez.reset with link := .up, drops := 16 }), (1, { Herez.reset with link := .retrain })] }

theorem witness_HostAndFabricEvents :
    (hosted.stop = none ∧ (sys []).booted = false ∧ hosted.booted = true ∧ hosted.checkpoint = .none) ∧
    (hosted.windowFor 1 0x10008 8 0 = some { base := 0x10000, page := 6, pages := 1, stream := none } ∧ hosted.windowFor 1 0x20000 8 0 = none) ∧
    ((SMap.get { tail := 0, head := 0 } hosted.channels 2).head ≠ (SMap.get { tail := 0, head := 0 } hosted.channels 2).tail) ∧
    SMap.get none hosted.devWindows 256 = some { base := 0x10000, page := 6, pages := 1, stream := none } ∧
    (hosted.hostMaps = [] ∧ hosted.images = [] ∧ hosted.liveTags = [] ∧ (∀ e ∈ hosted.herez, e.2.retry = [])) ∧
    ((SMap.get Herez.reset hosted.herez 0).link = .up ∧ 16 ≤ (SMap.get Herez.reset hosted.herez 0).drops ∧ (SMap.get Herez.reset hosted.herez 1).link = .retrain) ∧
    (SMap.get none hosted.fabricWindows 4 = some { tag := 9, page := 6, pages := 1 } ∧ 8 + 8 ≤ 4096 * 1) ∧
    { hosted with checkpoint := .copying }.checkpoint ≠ .none ∧ (∀ e ∈ hosted.regions, ∀ r, e.2 = some r → r.resets = []) := by
  refine ⟨by decide +kernel, by decide +kernel, by decide +kernel, by decide +kernel, by decide +kernel, by decide +kernel, by decide +kernel, by decide +kernel, ?_⟩
  intro e he
  exact absurd he (List.not_mem_nil (a := e))

/-- A host window with a pinned page that a change drops, down to the page itself, and one that keeps it. -/
theorem witness_DropsPinned :
    let s : State := { hosted with hostWindows := [(7, some { port := 0, pages := 4 })], pins := [(2 * (7 * 2 ^ 32 + 3) + 1, 1)] }
    DropsPinned s 7 none ∧ DropsPinned s 7 (some { port := 0, pages := 3 }) ∧ DropsPinned s 7 (some { port := 1, pages := 4 }) ∧
    ¬ DropsPinned s 7 (some { port := 0, pages := 4 }) := by
  refine ⟨⟨_, rfl, _, List.mem_singleton.2 rfl, by decide, by decide, by decide, fun _ h => nomatch h⟩,
    ⟨_, rfl, _, List.mem_singleton.2 rfl, by decide, by decide, by decide, fun n h _ => by cases h; decide⟩,
    ⟨_, rfl, _, List.mem_singleton.2 rfl, by decide, by decide, by decide, fun n h hp => by cases h; exact absurd hp (by decide)⟩, ?_⟩
  rintro ⟨old, h, e, he, _, _, _, hn⟩
  cases h
  obtain rfl := List.mem_singleton.1 he
  exact absurd (hn _ rfl rfl) (by decide)

/-- A body of 240 bytes and its parity make a flit as it was sent. -/
theorem sent_flit (b : List Byte) (hb : b.length = 240) :
    ∃ bs : List Byte, bs.length = 256 ∧ bs.take 240 = b ∧ bs.drop 240 = (Config.fecParity (bs.take 240) ++ List.replicate 16 0).take 16 := by
  refine ⟨b ++ (Config.fecParity b ++ List.replicate 16 0).take 16, ?_, List.take_left' hb, ?_⟩
  · rw [List.length_append, hb, List.length_take, List.length_append, List.length_replicate]
    omega
  · rw [List.drop_left' hb, List.take_left' hb]

/-- The ports that the checkpoint engine can use; a port's circuit with another port to go to; key slots that a valid entry names, and no other;
and a flit as it was sent, which needs no correction. -/
theorem witness_links :
    let e (n : Nat) : List (Nat × Herez) := [15, 33, 51, 69, 87, 105, 123, 141].map fun p => (p, { Herez.reset with link := if p = n then .down else .up })
    let b : List Byte := List.replicate 240 0
    (∀ g, g < 8 → enginePorts { hosted with herez := e 0 } g ≠ []) ∧ enginePorts { hosted with herez := e 33 } 1 = [] ∧
    (IsUp hosted 0 ∧ ¬ IsUp hosted 1 ∧ ¬ IsUp hosted 144) ∧ KeysFit hosted [(5, 7)] ∧ ¬ KeysFit hosted [(0, 7)] ∧
    ∃ bs : List Byte, bs.length = 256 ∧ bs.take 240 = b ∧ bs.drop 240 = (Config.fecParity (bs.take 240) ++ List.replicate 16 0).take 16 := by
  refine ⟨by decide +kernel, by decide +kernel, by unfold IsUp; decide +kernel, ?_, ?_, ?_⟩
  · rintro i - ⟨e, he, -, hi⟩
    obtain rfl := List.mem_singleton.1 he
    subst hi
    decide +kernel
  · intro h
    exact absurd (h 0 (by decide) ⟨_, List.mem_singleton.2 rfl, by decide, by decide⟩) (by decide +kernel)
  · exact sent_flit _ List.length_replicate

/-- A safe tier with an image, the last with its contents, and one that no contents name. -/
theorem witness_Contents :
    let x := hosted.image
    (∃ older newer, { hosted with images := [x] }.images = older ++ x :: newer ∧ Contents x x.fast x.cap x.poisonFast x.poisonCap x.keys ∧
      ∀ y ∈ newer, ¬ Contents y x.fast x.cap x.poisonFast x.poisonCap x.keys) ∧
    ∀ y ∈ hosted.images, ¬ Contents y x.fast x.cap x.poisonFast x.poisonCap x.keys :=
  ⟨⟨[], [], rfl, ⟨rfl, rfl, rfl, rfl, rfl⟩, fun _ h => absurd h List.not_mem_nil⟩, fun _ h => absurd h List.not_mem_nil⟩

theorem test_doorbell :
    exec (.hostDoorbellWrite 2 3) (sys []) = .next ((sys []).emit (.requestRetry (channelHost 2))) ∧
    after (exec (.hostDoorbellWrite 2 4097) hosted) (fun u => (SMap.get { tail := 0, head := 0 } u.channels 2).tail == 1) = true := by
  have hp : ¬ 2 ≤ channelHost 2 := Nat.not_le.2 (Nat.mod_lt _ (by decide))
  refine ⟨?_, ?_⟩ <;> simp only [exec, execHostDoorbellWrite, State.fromHost, if_neg hp]
  · rfl
  · decide +kernel

theorem test_host_events :
    after (exec (.hostWindowWrite 1 0x10010 0 [5, 6]) hosted) (fun u => u.numAt (.dev 0x6010) 2 == 0x605) = true ∧
    after (exec (.hostWindowRead 1 0x10008 0 2) hosted) (fun u => u.out.getLast? == some (.hostCompletion 1 [0x11, 0x22])) = true ∧
    after (exec (.herezPortRetrain 0) hosted) (fun u => (SMap.get Herez.reset u.herez 0).link == .retrain) = true ∧
    after (exec (.hostWindowMap 7 0 3) { hosted with hostWindows := [(7, some { port := 0, pages := 4 })], pins := [(2 * (7 * 2 ^ 32 + 3) + 1, 1)] })
      (fun u => u.hostMaps == [(7, some { port := 0, pages := 3 })] && u.hostWindows == [(7, some { port := 0, pages := 4 })]) = true := by
  decide +kernel

theorem witness_BootAndPowerEvents :
    (State.reset.stop = none ∧ State.reset.boot = .fetching 0 ∧ hosted.boot = .running 3 ∧ { hosted with boot := .backoff 2 }.boot = .backoff 2) ∧
    (hosted.booted = true ∧ hosted.powerCap < 2401 ∧ ({ hosted with powerCap := 1000 }.powerCap = 1000 ∧ 95 * 1000 ≤ 100 * 950 ∧ 100 * 949 < 95 * 1000)) ∧
    (({ hosted with frozen := some .titania }.frozen = some .titania) ∧ (hosted.interleave.any fun e => e.2.1.getLsbD 63 && part e.2.1 53 48 = 0) = true ∧
      (hosted.interleave.any fun e => e.2.1.getLsbD 63 && part e.2.1 53 48 = 5) = false) :=
  ⟨⟨rfl, by decide +kernel, by decide +kernel, rfl⟩, by decide +kernel, by decide +kernel⟩

theorem test_boot_events :
    after (exec .bootFetchFailure State.reset) (fun u => u.boot == .backoff 1) = true ∧
    after (exec .securityVersionRaise hosted) (fun u => u.securityVersion == 3) = true ∧
    after (exec (.powerCapSet 599) { hosted with powerCap := 1000 }) (fun u => u.powerCap == 1000) = true ∧
    after (exec (.clockStep 1001) { hosted with powerCap := 1000 }) (fun u => u.powerLimited && (u.die 3).clock == (State.reset.die 3).clock - 100) = true ∧
    after (exec (.thermalFreeze 115) hosted) (fun u => u.frozen == some .onyx) = true := by
  decide +kernel

/-! ## The machine as a whole -/

theorem witness_DecodeEncodeAgree :
    encode? (.vadd 1 2 3) = some 0x0018408B ∧ encode? (.reservedEncoding 0) = some 0 ∧ decode? 0 = none := by decide +kernel

theorem witness_MemoryCanonicalKept : Memory.wf (base []) = true ∧ Memory.wf State.reset = true := by decide +kernel

/-- Core 5 runs, its strand's turn is next, and 0x400008 holds its word. -/
def turning (ts : List Turn) : State :=
  { base [] (fun t => { t with pc := 0x400008 }) with turns := ts, regions := [(0, some region)], boot := .running 0 }

theorem witness_StepRunsDecodedInstruction :
    let s : State := { turning [.strand 5 1] with turns := [], agent := .strand 5 1 }
    (turning [.strand 5 1]).frozen = none ∧ (turning [.strand 5 1]).turns = .strand 5 1 :: [] ∧ (turning [.strand 5 1]).clocked 5 = true ∧
    ((s.strand 5 1).status = .active ∧ (s.strand 5 1).heldBy = none ∧ (s.strand 5 1).pc.toNat % 4 = 0 ∧ s.inContext 5 1 = false ∧ s.breakSlot 5 1 = none ∧ s.emptyPop 5 1 = none ∧
      (s.strand 5 1).fences = [] ∧ (s.strand 5 1).fault = none) ∧
    (match s.fetch 5 1 with
      | (.ok w, u) => w == 0x2211 && u.mayIssue 5 1 (decode w) w && u.inContext 5 1 == false
      | _ => false) = true ∧
    ((s.translate 5 1 0x400008 .fetch).1.toOption = some (.dev 0x6008) ∧ ((s.core 5).icache.find? fun e => e.1 = 0x6008 / 64) = none ∧
      s.poisonAt (.dev 0x6008) = false ∧ s.numAt (.dev 0x6008) 4 = 0x2211) ∧
    (((ev .spatial id).slot 5 0).rec_.node 1).kind = 2 ∧ eventCore (.waitEnd 5 1) = some 5 ∧ named (.waitEnd 5 1) = true ∧
    ofTitania (.waitEnd 5 1) = false ∧ s.booted = true ∧ named (.waitEnd 256 1) = false ∧ beforeBoot .bootRetry = true ∧ whileFrozen .thaw = true := by
  decide +kernel

/-! ## What waits, in which order, and where bounds lie -/

/-- A QPOPX and an MWAITW behind a queued load: with a token in the queue the pop waits, and without one the strand does. -/
theorem witness_pops_wait :
    let s := vqueues
    ¬ Drained (under (.vld 1 6 0) s) ∧ passing (.qpopx 1 51 0) (under (.vld 1 6 0) s) = true ∧ ((under (.vld 1 6 0) s).queue 5 3).held = 1 ∧
    passing (.qpopx 1 57 0) (under (.vld 1 6 0) s) = true ∧ ((under (.vld 1 6 0) s).queue 5 9).held = 0 ∧
    passing (.mwaitw 3 0 0) (under (.vld 1 6 0) loading) = true ∧ ¬ Drained (under (.vld 1 6 0) loading) ∧
    ¬ Drained (under (.vld 1 6 0) (base [])) ∧ ¬ Open (.qpopx 1 51 0) (under (.vld 1 6 0) s).cur ∧
    (∃ q ∈ (under (.mrow 1 2 3) loading).cur.lq, q.names .w 3 = true) ∧ (∀ q ∈ (under (.vld 1 6 0) loading).cur.lq, q.names .w 3 = false) ∧
    CopyWaits (loading.setTile 5 7 { tile .draining 1 1 with drains := 62 }) 5 0x703 1 ∧ MayCopy (loading.setTile 5 7 { tile .draining 1 1 with drains := 61 }) 5 0x703 1 := by
  unfold Drained Open CopyWaits MayCopy
  refine ⟨?_, ?_, ?_, ?_, ?_, ?_, ?_, ?_, fun h => absurd h.1 ?_, ?_, ?_, ?_, ?_⟩ <;> decide +kernel

/-- R18, R431: a pop of a queue with tokens goes behind the older words; the pop of an empty queue stops the strand. -/
theorem test_pops_wait :
    after (exec (.qpopx 1 51 0) (under (.vld 1 6 0) vqueues)) (fun u => (u.strand 5 1).aq.length == 1 && (u.strand 5 1).pc == 0x1004) = true ∧
    after (exec (.qpopx 1 57 0) (under (.vld 1 6 0) vqueues)) (fun u => (u.strand 5 1).status == .waiting && (u.strand 5 1).lq.length == 1) = true := by
  decide +kernel

/-- The bytes of a unit that a watch looks at lie in DRAM that the memory map places; so do those of two ports' elements; and the word of a
node writes registers alone. -/
theorem witness_places :
    Mapped (vqueues []) 3 (.mem 0x400008 (.dev 0x6008)) ∧
    AtMapped (sourcing .active []) ((sourcing .active []).nodeEnv 5 0 0 false 0 0) (portOf (sourcing .active []) 5 0 0) ∧
    AtMapped (sinking .active [tVal 7]) ((sinking .active [tVal 7]).nodeEnv 5 0 0 false 0 0) (portOf (sinking .active [tVal 7]) 5 0 0) ∧
    (elementOf (.vadd 1 2 3)).any (fun f => f.d.toNat < 48 && f.srcs.all fun r => decide (r.toNat < 48)) = true := by
  have h (s : State) (e : Env) (p : Port) (a : Nat) (h0 : p.tiled = false) (h1 : p.gather = []) (h2 : ((s.strand e.c e.k).probe p.probe).phys p.addr = .dev a)
      (h3 : (s.place a).isSome = true) : AtMapped s e p :=
    ⟨.inr fun b hb => by rw [h2] at hb; cases hb; exact h3, fun g hg => by rw [h1] at hg; exact absurd hg (List.not_mem_nil (a := g))⟩
  refine ⟨fun b a hb ha => ?_, h _ _ _ 0x6008 ?_ ?_ ?_ ?_, h _ _ _ 0x6008 ?_ ?_ ?_ ?_, ?_⟩
  · cases ha
    exact (show ∀ b < 8, ((vqueues []).place (0x6008 + b)).isSome = true from by decide +kernel) b hb
  all_goals decide +kernel

/-- An ADVANCE behind a token that goes ahead of it, and one behind tokens that follow it; a token behind another of its circuit and one that is
not; a break whose record has waited; and a node's trap while a fence waits. -/
theorem witness_ChainEvents_order :
    let s (n : Nat) : State := { (ev .spatial fun r => { r with flights := [{ flight (tVal 4) with via := some 9, adv := n }] }) with advSent := [(9, 1)] }
    let via (q : Nat) : Flight := { flight (tVal 4) with via := some 9, q := q }
    let two := ev .spatial fun r => { r with flights := [via 4, via 3] }
    let b : Breaking := { cause := 1, node := 0, queue := 0, vcause := 4, stval := 0x400000, pages := [], time := 7, since := some 3 }
    let late := ev .spatial id fun y => { y with breaking := some b }
    let kept := fencing ((ev .temporal id fun y => { y with passAt := 1 }).onCore 5 fun r => { r with queues := q3 [{ kind := 3, data := 0 }] })
    (((s 0).core 5).flights.any (fun f => f.via = some 9 && f.adv ≤ SMap.get 0 (s 0).advPassed (256 * 5 + 9)) = true ∧
      ((s 1).core 5).flights.any (fun f => f.via = some 9 && f.adv ≤ SMap.get 0 (s 1).advPassed (256 * 5 + 9)) = false ∧
      SMap.get 0 (s 1).advPassed (256 * 5 + 9) < SMap.get 0 (s 1).advSent 9) ∧
    ((late.slot 5 0).breaking = some b ∧ late.ringRoom (dieOf 5) 1 = true) ∧
    (Behind two 5 3 (via 3) ∧ ¬ Behind two 5 4 (via 4)) ∧
    (Remains kept 5 0 ∧ (kept.strand 5 1).fences ≠ [] ∧
      (match kept.fire 5 0 1 true with
        | (.trap .., u) => u.stop.isNone
        | _ => false) = true) := by
  unfold Behind Remains RunOver
  decide +kernel

/-- R195, R257: the ADVANCE goes after the token that was sent before it, and so does a younger token of the circuit. -/
theorem test_advance_order :
    let s (n : Nat) : State := { (ev .spatial fun r => { r with flights := [{ flight (tVal 4) with via := some 9, adv := n }] }) with advSent := [(9, 1)] }
    nexts (exec (.advancePass 5 9) (s 0)) (s 0) = true ∧ after (exec (.advancePass 5 9) (s 1)) (fun u => u.phase 5 9 == 1) = true ∧
    (let two := ev .spatial fun r => { r with flights := [{ flight (tVal 4) with via := some 9, q := 4 }, { flight (tVal 4) with via := some 9 }] }
     nexts (exec (.tokenLand 5 3) two) two = true) := by
  decide +kernel

/-- A copy from 0x400000 to tile 7 behind a FENCEE, WAITING; with an older one beside it, and under a queued word. -/
def young : Copy :=
  { Copy.reset with state := .waiting, cmd := command 0x703 ++ [0x400000, 0xE000000000000FFF], srcPages := [.dev 6], strand := 1, order := 8, after := 1 }
def crowd (old : Copy) : State := sys [] .filling id fun r => { r with copies := [(3, young), (4, old)] }

/-- A U-mode copy to 0x400000, and a step record at a place. -/
def into : Copy :=
  { Copy.reset with state := .active, cmd := [0x8, 0x703, 0, 0x400000, 0, 64, 0, 0, 0x400000, 0xE000000000000FFF, 0, 0, 0, 0, 1], dstPages := [.dev 6], strand := 1 }
def recordAt (a : Nat) : State := sys [] .full id fun r => { r with copies := [(3, into)], record := some (.dev a) }

/-- A copy behind a FENCEE that an older one, or a queued load of a buffer, holds back, and one behind an older copy that can start; a U-mode
copy that meets the record of a step, and one that does not; and an end that the memory map places. -/
theorem witness_CopyEvents_order :
    (FencedCopy (crowd { young with state := .active, after := 0 }) 5 young ∧ FencedCopy (under (.mldw 3 2 4) (crowd .reset)) 5 young ∧
      ¬ FencedCopy (crowd { young with order := 7 }) 5 young) ∧
    (Startable (crowd { young with order := 7 }) 5 { young with order := 7 } ∧ ((crowd { young with order := 7 }).core 5).copies.any (fun e => e.2.order < young.order) = true) ∧
    (MeetsRecord (recordAt 0x6020) into 0 64 ∧ ¬ MeetsRecord (recordAt 0x6040) into 0 64) ∧ (EndMapped (sys []) young.src 0 64 ∧ young.src.kind ≠ 1) := by
  refine ⟨⟨?_, ?_, ?_⟩, ⟨⟨by decide +kernel, ?_, .inr ⟨?_, fun _ => ⟨fun h => absurd h (by decide +kernel), fun h => absurd (show young.form = 0 from by decide +kernel) h⟩⟩⟩, by decide +kernel⟩, ⟨?_, ?_⟩,
    ⟨.inr fun i a hi ha => ?_, by decide +kernel⟩⟩
  · unfold FencedCopy
    decide +kernel
  · unfold FencedCopy
    decide +kernel
  · unfold FencedCopy
    decide +kernel
  · unfold FencedCopy
    decide +kernel
  · rintro ⟨h, hh, hr⟩
    have hl : young.handles.all (fun h => decide (((crowd { young with order := 7 }).tile 5 (part h 19 8)).res = 0)) = true := by decide +kernel
    exact hr (of_decide_eq_true (List.all_eq_true.1 hl h hh))
  · exact ⟨by decide +kernel, by decide +kernel, (5, (recordAt 0x6020).core 5), by decide +kernel, .dev 0x6020, by decide +kernel, 0, by decide, by decide +kernel⟩
  · rintro ⟨-, -, e, he, r, hr, i, hi, h⟩
    have hc : ∀ e ∈ (recordAt 0x6040).cores, e.2.record = some (.dev 0x6040) := by decide +kernel
    rw [hc e he, Option.some.injEq] at hr
    subst hr
    have hw : ∀ i < 64, into.dst.within 0 64 ((Phys.dev 0x6040).plus i) = none := by decide +kernel
    exact h (hw i hi)
  · rw [(show ∀ i < 64, young.src.phys (0 + i) = .dev (0x6000 + i) from by decide +kernel) i hi] at ha
    cases ha
    exact (show ∀ i < 64, ((sys []).place (0x6000 + i)).isSome = true from by decide +kernel) i hi

/-- R181, R238: the younger copy stays WAITING behind the older one; R44: one into a step record ends with ERROR. -/
theorem test_copy_order :
    let s := crowd { young with order := 7 }
    nexts (exec (.copyActivate 5 3) s) s = true ∧ after (exec (.copyActivate 5 4) s) (fun u => (u.copy 5 4).state == .active) = true ∧
    after (exec (.copyBeat 5 3) (recordAt 0x6020)) (fun u => (u.copy 5 3).state == .done && (u.copy 5 3).status == 2) = true := by
  decide +kernel

/-- Whether the word of a queued load traps. -/
def loadTraps (s : State) : Bool :=
  match s.wordOf 5 1 0 (.vld 1 6 1) (s.strand 5 1).front with
  | (.trap .., u) => u.stop.isNone
  | _ => false

/-- A load that a waiting fence holds back; one that faults, after a walk that has not ended and after none; one that stalls; and a reply of
Titania to a call for which it has a service, or has none. -/
theorem witness_StrandEvents_order :
    let s := under (.vld 1 6 1) (vec 0xF002 4 0 ints [(6, 0x400008)])
    let held := under (.vld 1 6 1) (fencing (vec 0xF002 4 0 ints [(6, 0x400008)]))
    let walking : State := s.onStrand 5 1 fun t => { t with walks := [4] }
    let called := base [(17, 5)] fun t => { t with status := .waiting, wait := some .titania }
    FencedWord held.cur (queuedIn (.vld 1 6 1) held.cur) ∧ ¬ FencedWord s.cur (queuedIn (.vld 1 6 1) s.cur) ∧
    (s.cur.heads = [queuedIn (.vld 1 6 1) s.cur] ∧ loadTraps s = true ∧ TrapsNow s.cur (queuedIn (.vld 1 6 1) s.cur)) ∧
    (loadTraps walking = true ∧ ¬ TrapsNow walking.cur (queuedIn (.vld 1 6 1) walking.cur)) ∧
    (match (under (.qpushx 54 4 0) vqueues).wordOf 5 1 0 (.qpushx 54 4 0) vqueues.cur.front with
      | (.stall, _) => true
      | _ => false) = true ∧
    (Boundary_ (fencing (base [])).cur ∧ (fencing (base [])).cur.fences ≠ []) ∧
    ((called.strand 5 1).readX 17 ≠ 0x4E0 ∧ (Config.osService ((called.strand 5 1).readX 17) = true ∨ Config.osService ((called.strand 5 1).readX 17) = false)) := by
  refine ⟨⟨_, List.mem_singleton.2 rfl, by decide +kernel, by decide +kernel⟩, fun ⟨f, h, _⟩ => ?_, ⟨by decide +kernel, by decide +kernel, ?_⟩,
    ⟨by decide +kernel, ?_⟩, by decide +kernel, ⟨⟨.inl rfl, fun o h => ?_, rfl, rfl, ?_⟩, by decide +kernel⟩, by decide +kernel, by cases Config.osService _ <;> simp⟩
  · rw [show (under (.vld 1 6 1) (vec 0xF002 4 0 ints [(6, 0x400008)])).cur.fences = [] from rfl] at h
    exact absurd h List.not_mem_nil
  · simp only [TrapsNow]
    decide +kernel
  · simp only [TrapsNow]
    decide +kernel
  · rw [show (fencing (base [])).cur.lq ++ (fencing (base [])).cur.aq ++ (fencing (base [])).cur.sq = [] from rfl] at h
    exact absurd h List.not_mem_nil
  · decide +kernel

/-- R87, R225: the fault waits for the walk, and is taken without one. R320: an interrupt finds the fence not yet executed. -/
theorem test_fault_order :
    let s := under (.vld 1 6 1) (vec 0xF002 4 0 ints [(6, 0x400008)])
    after (exec (.vectorAdmission 5 1) (s.onStrand 5 1 fun t => { t with walks := [4] })) (fun u => (u.strand 5 1).lq.length == 1 && (u.strand 5 1).priv == .u) = true ∧
    after (exec (.vectorAdmission 5 1) s) (fun u => (u.strand 5 1).lq == [] && (u.strand 5 1).priv == .s && (u.strand 5 1).scause == 48) = true ∧
    after (exec (.interruptEntry 5 1) ((fencing (base [] fun t => { t with sie := 2, ssip := true, stimecmp := 0 })).onStrand 5 1 fun t => { t with pc := 0x1004 }))
      (fun u => (u.strand 5 1).sepc == 0x1000 && (u.strand 5 1).fences == []) = true := by
  decide +kernel

/-- A READY job whose predecessor has failed; requests for energy before another's, for want of energy, and with nothing before it; a HALTED strand of
a leaf's core; a window that is over; and a core that stands alone. -/
theorem witness_JobEvents_order :
    let idle (f : Job → Job := id) : State := working (fun j => f { j with state := .ready }) fun r => { r with running := none }
    let failed : State := withWords 0x6010 [2] (idle fun j => { j with preds := [0x400010, 0, 0, 0], root := 0xA000000000000001 })
    let two : State := { idle id with
      regions := [(0, some { region with running := none }), (1, some { region with cores := [7], running := none })]
      jobs := [(1, some { job with tree := [leaf], state := .ready }), (2, some { job with state := .ready, region := 1 })] }
    let poor : State := { idle (fun j => { j with eclass := 7 }) with account := 100 }
    let halted : State := (working id).onStrand 5 0 fun t => { t with status := .halted }
    let metered : State := (working id).onCore 5 fun r => { r with limit := some (2, 100), window := 100 }
    PredFailed failed ((failed.job 1).getD job) ∧ ((failed.job 1).getD job).resume = .fresh ∧ ((failed.job 1).getD job).state = .ready ∧
    (Asks { two with draws := [1] } 1 ∧ 1 ∈ { two with draws := [1] }.draws ∧ (0 : Nat) ∉ { two with draws := [1] }.draws) ∧
    poor.account < startEnergy 7 ∧ (startEnergy 0 ≤ (idle).account ∧ (idle).draws = []) ∧
    ((∃ x ∈ region.leafCores leaf, (halted.strand x.2 0).status = .halted) ∧ ((working id).strand 5 0).status ≠ .halted) ∧
    (metered.core 5).limit = some (2, 100) ∧ (metered.core 5).window = 100 ∧
    ((base []).core 6).copies = [] ∧ (base []).cores.all (fun e => e.2.flights.isEmpty) = true := by
  refine ⟨⟨0, by decide, by decide +kernel, by decide +kernel, by decide +kernel⟩, by decide +kernel, by decide +kernel,
    ⟨⟨_, rfl, rfl, rfl, (2, { job with state := .ready, region := 1 }), by decide +kernel, rfl⟩, by decide +kernel, by decide +kernel⟩, by decide +kernel, by decide +kernel,
    ⟨⟨(0, 5), by decide +kernel, by decide +kernel⟩, by decide +kernel⟩, by decide +kernel⟩

/-- R232, R233: a region whose request stands behind waits, and a job that the account does not cover waits. -/
theorem test_draw_order :
    let two : State := { working (fun j => { j with state := .ready }) (fun r => { r with running := none }) with
      regions := [(0, some { region with running := none }), (1, some { region with cores := [7], running := none })]
      jobs := [(1, some { job with tree := [leaf], state := .ready }), (2, some { job with state := .ready, region := 1 })]
      draws := [1] }
    nexts (exec (.jobSelection 0) two) { two with draws := [1, 0] } = true ∧
    nexts (exec (.rateWindowBoundary 0) ((working id).onCore 5 fun r => { r with limit := some (2, 100), window := 99, admitted := [(3, 2)] }))
      ((working id).onCore 5 fun r => { r with limit := none, window := 0, admitted := [] }) = true := by
  decide +kernel

/-- A device's last line of each memory and the first that it has not; a reserved bit of an interleave entry; a port and a window that the
machine has not; a machine that runs and one that is frozen; a strand that has no fence. -/
theorem witness_bounds :
    let s := sys []
    let frozen : State := { hosted with frozen := some .titania }
    (lineCount false = 23808 ∧ lineCount true = 1040384) ∧ (part 0x4000000000000000 62 54 ≠ 0 ∧ part 0x8000000000200000 62 54 = 0 ∧ part 0x8000000000200000 43 22 = 0) ∧
    ((s.regions.filter fun e => e.2.any fun r => r.cores.any fun x => dieOf x = dieOf 6).length < 16 ∧
      (({ s with regions := (List.range 16).map fun n => (n + 1, some { region with cores := [6] }) } : State).regions.filter fun e =>
        e.2.any fun r => r.cores.any fun x => dieOf x = dieOf 6).length = 16) ∧
    (hosted.frozen = none ∧ frozen.frozen = some .titania ∧ FreezeSource.titania ≠ .onyx) ∧ (s.strand 5 1).fences = [] ∧ (s.strand 5 1).fault = none ∧
    named (.waitEnd 5 1) = true ∧ (match (turning []).boundary 5 1 with | .nothing => true | _ => false) = true := by
  decide +kernel

/-- R8, R151: a reserved bit leaves the entry; R3: no port 144; R295: Onyx's freeze is not thawed. -/
theorem test_bounds :
    nexts (exec (.interleaveTableWrite 1 0x4000000000000000 0) (sys [])) (sys []) = true ∧ nexts (exec (.herezPortDown 144) hosted) hosted = true ∧
    nexts (exec .thaw { hosted with frozen := some .onyx }) { hosted with frozen := some .onyx } = true ∧
    after (exec .thaw { hosted with frozen := some .titania }) (fun u => u.frozen == none && (SMap.get Herez.reset u.herez 0).link == .retrain) = true := by
  decide +kernel

/-! ## Encodings and operand classes -/

/-- R304: for each class with values that its field can hold and it does not admit, an ill-formed word and a well-formed one at the boundary:
Vn, Q, X, M, P, W, C, S, G, K and Z, in that order; every value of a six-bit field is in V. -/
theorem test_well_formed :
    (¬ (Instr.vmac 48 1 2).WellFormed ∧ (Instr.vmac 47 63 2).WellFormed) ∧ (¬ (Instr.qpopx 1 47 0).WellFormed ∧ (Instr.qpopx 1 48 0).WellFormed) ∧
    (¬ (Instr.vaddx 1 2 32).WellFormed ∧ (Instr.vaddx 1 2 31).WellFormed) ∧ (¬ (Instr.vmand 12 0 0).WellFormed ∧ (Instr.vmand 11 0 0).WellFormed) ∧
    (¬ (Instr.vld 1 2 8).WellFormed ∧ (Instr.vld 1 2 7).WellFormed) ∧ (¬ (Instr.mstat 1 16 0).WellFormed ∧ (Instr.mstat 1 15 0).WellFormed) ∧
    (¬ (Instr.vcbdec 1 2 4).WellFormed ∧ (Instr.vcbdec 1 2 3).WellFormed) ∧ (¬ (Instr.sbind 0 8 1).WellFormed ∧ (Instr.sbind 0 7 1).WellFormed) ∧
    (¬ (Instr.getmode 1 0 4).WellFormed ∧ (Instr.getmode 1 0 3).WellFormed) ∧ (¬ (Instr.fenceo 9 0 0).WellFormed ∧ (Instr.fenceo 8 0 0).WellFormed) ∧
    (¬ (Instr.vneg 1 2 1).WellFormed ∧ (Instr.vneg 1 2 0).WellFormed) := by
  decide +kernel

/-- R302, R306: words of the vector space, OPN over 7 bits, b, a and d over 6, and the opcode; one of each family of the table. -/
theorem test_decode_vector :
    decode 0b0000000_000011_000010_000001_0001011 = .vadd 1 2 3 ∧
    decode 0b0100001_000110_000101_000110_0001011 = .vsrarx 6 5 6 ∧
    decode 0b0111100_000011_110000_110001_0001011 = .vfmul 49 48 3 ∧
    decode 0b1011111_000000_000010_000001_0001011 = .vrev 1 2 0 ∧
    decode 0b1111000_000111_000110_000001_0001011 = .vld 1 6 7 ∧
    decode 0b0000110_000011_000010_000001_0101011 = .vtaddx 1 2 3 ∧
    decode 0b0001101_111001_000100_000010_0101011 = .vpush 2 4 57 ∧
    decode 0b0011000_000100_000010_000011_0101011 = .mldw 3 2 4 ∧
    decode 0b0011001_000011_000010_000001_0101011 = .mrow 1 2 3 ∧
    decode 0b0100001_000010_000010_000001_0101011 = .vcbdec 1 2 2 ∧
    decode 0b0110000_000000_110010_110001_0101011 = .fscan 49 50 0 ∧
    decode 0b0111101_000000_110000_110001_0101011 = .fxlate 49 48 0 ∧
    decode 0b1001000_000000_110011_000001_0101011 = .qpopx 1 51 0 := by
  decide +kernel

/-- R303, R307: words of the system space, F7 over 7 bits, rs2, rs1, funct3 0, rd and the opcode. -/
theorem test_decode_system :
    decode 0b0000000_00010_00101_000_00000_1111011 = .setmode 0 5 2 ∧
    decode 0b0000100_01011_01010_000_00001_1111011 = .probe 1 10 11 ∧
    decode 0b0000111_00000_00101_000_01010_1111011 = .talloc 10 5 0 ∧
    decode 0b0001100_00011_00010_000_00001_1111011 = .rowopen 1 2 3 ∧
    decode 0b0010110_00000_00001_000_01010_1111011 = .chwait 10 1 0 ∧
    decode 0b0011011_00011_00010_000_00000_1111011 = .sbind 0 2 3 ∧
    decode 0b0011100_00000_00010_000_00000_1111011 = .sunbind 0 2 0 ∧
    decode 0b0100001_00000_01011_000_01010_1111011 = .waitvis 10 11 0 ∧
    decode 0b0100010_00011_00010_000_00001_1111011 = .enq 1 2 3 ∧
    decode 0b0100101_00011_00010_000_00001_1111011 = .ctxsv 1 2 3 ∧
    decode 0b0101010_00000_00000_000_00000_1111011 = .stepend 0 0 0 := by
  decide +kernel

/-- R315: words of the RISC-V subset, in each of its formats; immediates of branches and jumps count halfwords. -/
theorem test_decode_riscv :
    decode 0b111111111111_00010_000_00001_0010011 = .addi 1 2 0xFFF ∧
    decode 0b000000001000_00100_011_00011_0000011 = .ld 3 4 8 ∧
    decode 0b0000000_00101_00110_011_10000_0100011 = .sd 6 5 16 ∧
    decode 0b0_000000_00010_00001_001_0100_0_1100011 = .bne 1 2 4 ∧
    decode 0b1_1111111110_1_11111111_00001_1101111 = .jal 1 0xFFFFE ∧
    decode 0b10000000000000000001_00111_0110111 = .lui 7 0x80001 ∧
    decode 0b100000000000_00010_001_00001_1110011 = .csrrw 1 0x800 2 ∧
    decode 0b0000001_00011_00010_100_00001_0111011 = .divw 1 2 3 ∧
    decode 0b0010000_00011_00010_010_00001_0110011 = .sh1add 1 2 3 ∧
    decode 0b00010_1_0_00000_00010_011_00001_0101111 = .lrD 1 2 1 0 ∧
    decode 0b00000_0_0_00010_00001_010_00011_0101111 = .amoaddW 3 1 2 0 0 ∧
    decode 0b001010000111_00010_101_00001_0010011 = .orcB 1 2 ∧
    decode 0b0001000_00010_00000_000_00000_1110011 = .sret := by
  decide +kernel

/-- R305: words that no row names decode to the row of the reserved encodings. -/
theorem test_decode_reserved :
    decode 0b0001000_00010_00000_000_00001_1110011 = .reservedEncoding 0x102000F3 ∧ decode 0b1111111_000000_000000_000000_1111011 = .reservedEncoding 0xFE00007B := by
  decide +kernel

/-- The encoder gives the same words. -/
theorem test_encode :
    encode (.vadd 1 2 3) = 0x0018408B ∧ encode (.probe 1 10 11) = 0x08B500FB ∧ encode (.sd 6 5 16) = 0x00533823 ∧ encode (.jal 1 0xFFFFE) = 0xFFDFF0EF := by
  decide +kernel

end Sys2Proof.Tests
end

/-! PROOFS. What the scope of the model rests on: the machine at reset, its control and status registers, and the events around the cores. -/

/-! ## The machine after device reset (R9) -/

namespace Sys2Proof.Machine

open Sys2Proof.Claims

theorem State.reset_strand (c k : Nat) : State.reset.strand c k = Strand.reset := rfl

theorem State.reset_die (d : Nat) (h : d < 4) : State.reset.die d = Die.reset := by
  match d, h with
  | 0, _ | 1, _ | 2, _ | 3, _ => rfl

theorem State.reset_tile (c n : Nat) (h : c < 256) : State.reset.tile c n = Tile.reset := by
  unfold State.tile
  split
  · rfl
  · rw [State.reset_die _ (by unfold dieOf; omega)]
    rfl

/-- R117: what the four mode registers hold at reset. -/
theorem modeFor_reset (g : Nat) (h : g < 4) :
    modeFor Strand.reset g = { t := 0, s := 0, rnd := 0, sat := false, guard := 15, ginv := false } := by
  match g, h with
  | 0, _ | 1, _ | 2, _ | 3, _ => decide

/-- Settles O58: only the dies are listed at reset, each at its reset value, and every other entry reads as its default. -/
theorem resetState : Obligations.ResetState := by
  unfold Obligations.ResetState
  refine ⟨Memory.wf_reset, rfl, rfl, rfl, rfl, fun c k => ?strand, fun c => ⟨rfl, rfl, rfl, rfl⟩,
    fun c n => ⟨rfl, rfl, rfl, rfl, rfl, rfl, rfl⟩, fun c n h => ?tile, fun d h => ?die,
    fun n => ⟨rfl, rfl, rfl, rfl, rfl, rfl, rfl, rfl, rfl, rfl⟩⟩
  case strand =>
    simp only [State.reset_strand]
    refine ⟨rfl, rfl, rfl, rfl, rfl, rfl, rfl, rfl, rfl, rfl, rfl, rfl, rfl, rfl, rfl, fun r => ⟨rfl, rfl⟩,
      fun p => ⟨rfl, rfl, rfl⟩, fun g h => ?_, fun i => rfl⟩
    rw [modeFor_reset g h]
    exact ⟨rfl, rfl, rfl, rfl, rfl, rfl⟩
  case tile =>
    rw [State.reset_tile c n h]
    exact ⟨rfl, rfl, rfl⟩
  case die =>
    rw [State.reset_die d h]
    exact ⟨rfl, rfl⟩

end Sys2Proof.Machine

/-! ## Control and status registers (R83, R84, R319) -/

namespace Sys2Proof.Machine

open Sys2Proof.Claims

/-! ### What an access and a write of a CSR come to -/

/-- The refusals that R83, R94 and R319 list are those of the model. -/
theorem csrRefusal_eq (t : Strand) (w : BitVec 32) (a : Nat) (writes present : Bool) :
    csrRefusal t w a writes present = csrDenied t w a writes present := by
  have hu : ∀ p : Priv, (p == Priv.u) = decide (p = Priv.u) := fun p => by cases p <;> rfl
  unfold csrRefusal csrDenied
  simp only [hu]
  by_cases h1 : t.priv = .u ∧ 0x5C0 ≤ a ∧ a ≤ 0x5FF
  · obtain ⟨hp, h1, h2⟩ := h1
    simp [hp, h1, h2, devFault, fPrivilege, word]
  · have h1' : ¬ (0x5C0 ≤ a ∧ a ≤ 0x5FF ∧ t.priv = .u) := fun h => h1 ⟨h.2.2, h.1, h.2.1⟩
    have h2' : ¬ (t.priv = .u ∧ 0x5C0 ≤ a ∧ a ≤ 0x5FF) := h1
    simp only [Bool.and_eq_true, decide_eq_true_eq, and_assoc, h1', h2', if_false, Bool.or_eq_true, Bool.not_eq_true', beq_iff_eq, bit]
    by_cases hx : present = false
    · simp [hx, exc, word]
    · by_cases hw : writes = true ∧ a / 1024 = 3
      · simp [hx, hw, exc, word]
      · by_cases hs : t.priv = .u ∧ a / 256 % 4 = 1
        · simp [hx, hw, hs, exc, word]
        · simp [hx, hw, hs, exc, word]

theorem badCsr_eq (w : BitVec 32) : badCsr w = illegalOperand 5 w := rfl

theorem badMode_eq (v : Word) :
    badMode v = (nonzero v 63 17 || (12 ≤ (v.extractLsb' 12 4).toNat && (v.extractLsb' 12 4).toNat ≤ 14) || 4 < (v.extractLsb' 8 3).toNat) := by
  simp only [badMode, nonzero, part, bits, BitVec.extractLsb'_toNat, Nat.shiftRight_eq_div_pow]
  rfl

/-- A write's outcome by what the CSR's map says: the strand that it leaves, or ILLEGAL_OPERAND detail 5 of the word. -/
def csrOutcome (w : BitVec 32) : Option Strand → Except Exc Strand
  | some t => .ok t
  | none => .error (illegalOperand 5 w)

/-- A refusal under a condition, as an outcome of a write. -/
theorem csrOutcome_ite (w : BitVec 32) (p : Prop) [Decidable p] (t : Strand) :
    csrOutcome w (if p then none else some t) = if p then .error (illegalOperand 5 w) else .ok t := by
  by_cases h : p
  · rw [if_pos h, if_pos h]
    rfl
  · rw [if_neg h, if_neg h]
    rfl

/-- The CSRs whose writes change something of their strand. -/
def csrMapped : List Nat :=
  [0x100, 0x104, 0x105, 0x106, 0x140, 0x141, 0x142, 0x143, 0x144, 0x14D, 0x5C0, 0x5C5, 0x800, 0x801, 0x802, 0x803, 0x804, 0x805,
    0x806, 0x807, 0x808]

theorem csrPut_unmapped (t : Strand) (w : BitVec 32) {a : Nat} (h : a ∉ csrMapped) (v : Word) : csrPut t w a v = .ok t := by
  unfold csrPut
  split
  case h_22 => rfl
  all_goals exact absurd (by decide) h

theorem csrLeaves_unmapped (t : Strand) {a : Nat} (h : a ∉ csrMapped) (v : Word) : csrLeaves t a v = some t := by
  unfold csrLeaves
  simp only
  split
  case h_22 => rfl
  all_goals exact absurd (by decide) h

/-- A write of a CSR that stands in its strand alone leaves what the CSR's map says, or is refused (R8, R119, R319). -/
theorem csrPut_eq (t : Strand) (w : BitVec 32) (a : Nat) (v : Word) : csrPut t w a v = csrOutcome w (csrLeaves t a v) := by
  have hbit : (2 ≤ bits v 1 0) ↔ v.getLsbD 1 = true := by
    simp only [bits, BitVec.getLsbD, Nat.testBit_eq_decide_div_mod_eq, decide_eq_true_eq]
    omega
  have hzero : (v = 0) ↔ v.toNat < 1 := by
    rw [← BitVec.toNat_inj]
    simp
  by_cases h : a ∈ csrMapped
  · unfold csrPut csrLeaves
    simp only [badMode_eq, badCsr_eq, hbit, hzero, bit]
    simp only [csrMapped, List.mem_cons, List.not_mem_nil, or_false] at h
    obtain rfl | rfl | rfl | rfl | rfl | rfl | rfl | rfl | rfl | rfl | rfl | rfl | rfl | rfl | rfl | rfl | rfl | rfl | rfl | rfl | rfl := h
    -- Ten CSRs refuse no value; each of the others refuses a value under the same condition as its map.
    iterate 10 exact rfl
    all_goals exact (csrOutcome_ite w _ _).symm
  · rw [csrPut_unmapped t w h, csrLeaves_unmapped t h]
    rfl

/-- A write of a CSR that stands in its strand alone leaves the pc where it is. -/
theorem csrLeaves_pc {t t1 : Strand} {a : Nat} {v : Word} (h : csrLeaves t a v = some t1) : t1.pc = t.pc := by
  unfold csrLeaves at h
  simp only at h
  split at h <;> (try split at h) <;> cases h
  all_goals (try split) <;> rfl

/-- vflags, voorva and vslip stand at 0x806 to 0x808 (R89, R91, R92). -/
theorem afterVectorCsr_iff (a : Nat) : afterVectorCsr a = true ↔ 0x806 ≤ a ∧ a ≤ 0x808 := by
  simp only [afterVectorCsr, Bool.or_eq_true, decide_eq_true_eq]
  omega

theorem drained_iff (s : State) : s.drained = true ↔ Drained s := by
  simp only [State.drained, Strand.drained, Drained, Bool.and_eq_true, decide_eq_true_eq, and_assoc]

/-- No access to vflags, voorva or vslip is refused: they exist, and are neither read-only nor S-mode CSRs. -/
theorem csrRefusal_afterVector (t : Strand) (w : BitVec 32) {a : Nat} (h : 0x806 ≤ a ∧ a ≤ 0x808) (writes : Bool) :
    csrRefusal t w a writes true = none := by
  obtain ⟨h1, h2⟩ := h
  have e1 : ¬ a ≤ 0x5FF := by omega
  have e2 : ¬ a / 1024 = 3 := by omega
  have e3 : ¬ a / 256 % 4 = 1 := by omega
  have e4 : ¬ 0xC00 ≤ a := by omega
  simp [csrRefusal, e1, e2, e3, e4]

theorem csrValue_afterVector (s : State) (c k : Nat) {a : Nat} (h : 0x806 ≤ a ∧ a ≤ 0x808) : (s.csrValue c k a).isSome = true := by
  obtain ⟨h1, h2⟩ := h
  obtain rfl | rfl | rfl : a = 0x806 ∨ a = 0x807 ∨ a = 0x808 := by omega
  all_goals rfl

/-! ### What changes -/

theorem onlyStrand_refl (c k : Nat) (s : State) : OnlyStrand c k s s := ⟨rfl, fun _ _ => rfl⟩

theorem onlyStrand_trans {c k : Nat} {s t u : State} (h : OnlyStrand c k s t) (g : OnlyStrand c k t u) : OnlyStrand c k s u := by
  obtain ⟨h1, h2⟩ := h
  obtain ⟨g1, g2⟩ := g
  refine ⟨?_, fun j hj => (g2 j hj).trans (h2 j hj)⟩
  rw [g1, h1]

theorem onlyStrand_setStrand (s : State) (c k : Nat) (t : Strand) : OnlyStrand c k s (s.setStrand c k t) :=
  ⟨rfl, fun j hj => by simp [SMap.get_put, Ne.symm hj]⟩

theorem onlyStrand_scalar {s : State} {c k : Nat} (ha : s.agent = .strand c k) (rd : BitVec 5) (v : Word) : OnlyStrand c k s (scalar rd v s) := by
  have h := scalar_frame rd v s
  rw [State.who_strand ha] at h
  exact h

/-- A scalar result retires one instruction: rd, pc, instret and event counter 0x01 change, and nothing else of the strand. -/
theorem retired_scalar (rd : BitVec 5) (v : Word) (s : State) : Retired (s.cur.pc + 4) rd v s.cur (scalar rd v s).cur := by
  refine ⟨scalar_readX rd v s, ?_, scalar_events rd v s⟩
  simp only [scalar, State.cur_onCur]
  unfold Strand.writeX
  split <;> rfl

/-! ### One Zicsr instruction -/

section
variable {s : State} {c k a : Nat} {w : BitVec 32} {rd : BitVec 5} {csr : BitVec 12} {f : Option (Word → Word)}

/-- What a Zicsr instruction means: its word, rd, CSR and written value, through the one operation that they share. -/
theorem exec_csr {i : Instr} (h : csrOf s.cur i = some (w, rd, a, f)) :
    ∃ csr : BitVec 12, csr.toNat = a ∧ exec i s = finish (csrInstr w rd csr f s) := by
  unfold csrOf at h
  split at h <;> cases h <;> exact ⟨_, rfl, rfl⟩

/-- A denied access raises its exception. -/
theorem csrInstr_refused (ha : s.agent = .strand c k) {e : Exc}
    (h : csrRefusal s.cur w csr.toNat f.isSome (s.csrValue c k csr.toNat).isSome = some e) : csrInstr w rd csr f s = s.raise e := by
  unfold csrInstr
  simp only [State.who_strand ha, h]

/-- An access that must wait for older vector words changes nothing. -/
theorem csrInstr_waits (ha : s.agent = .strand c k) (hc : 0x806 ≤ csr.toNat ∧ csr.toNat ≤ 0x808) (hd : ¬ Drained s) :
    csrInstr w rd csr f s = s := by
  unfold csrInstr
  simp only [State.who_strand ha, csrValue_afterVector s c k hc, csrRefusal_afterVector _ _ hc, (afterVectorCsr_iff _).2 hc,
    Bool.eq_false_iff.2 (mt (drained_iff s).1 hd)]
  rfl

/-- The strand as an access of CSR `a` finds it: a read of time is remembered (R274). -/
def afterRead (s : State) (c k a : Nat) : State := if a = 0xC01 then s.noteTime c k else s

theorem afterRead_agent : (afterRead s c k a).agent = s.agent := by
  unfold afterRead
  split <;> rfl

theorem afterRead_stop : (afterRead s c k a).stop = s.stop := by
  unfold afterRead
  split <;> rfl

theorem afterRead_only : OnlyStrand c k s (afterRead s c k a) := by
  unfold afterRead
  split
  · exact onlyStrand_setStrand s c k _
  · exact onlyStrand_refl c k s

theorem afterRead_strand :
    (afterRead s c k a).strand c k = if a = 0xC01 then { s.strand c k with lastTime := s.timeFor c k } else s.strand c k := by
  unfold afterRead
  split
  · simp [State.noteTime]
  · rfl

/-- A write of a CSR but vtsafe changes its strand as the CSR's map says, or is refused (R8, R319). -/
theorem csrWrite_eq (u : State) (hne : a ≠ 0x5C4) (v : Word) :
    u.csrWrite c k w a v = match csrLeaves (u.strand c k) a v with
      | some t1 => (.ok (), u.setStrand c k t1)
      | none => (.error (illegalOperand 5 w), u) := by
  unfold State.csrWrite
  rw [if_neg hne, csrPut_eq]
  cases csrLeaves (u.strand c k) a v <;> rfl

/-- An access that need not wait: vflags, voorva and vslip once the older vector words have completed, and every other CSR (R90 to R92). -/
theorem csr_goes (h : a < 0x806 ∨ 0x808 < a ∨ Drained s) : (afterVectorCsr a && !s.drained) = false := by
  rw [Bool.eq_false_iff, Ne, Bool.and_eq_true, afterVectorCsr_iff, Bool.not_eq_true', Bool.eq_false_iff, Ne, drained_iff]
  rintro ⟨⟨h1, h2⟩, h3⟩
  rcases h with h | h | h
  · omega
  · omega
  · exact h3 h

/-- A permitted read gives the CSR's value to rd. -/
theorem csrInstr_reads (ha : s.agent = .strand c k) {old : Word} (hv : s.csrValue c k csr.toNat = some old)
    (hr : csrRefusal s.cur w csr.toNat false true = none) (hd : csr.toNat < 0x806 ∨ 0x808 < csr.toNat ∨ Drained s) :
    csrInstr w rd csr none s = scalar rd old (afterRead s c k csr.toNat) := by
  unfold csrInstr
  simp only [State.who_strand ha, hv, Option.isSome_some, Option.isSome_none, hr, csr_goes hd]
  rfl

/-- A permitted write gives the old value to rd and leaves what the CSR's map says, or is refused. -/
theorem csrInstr_writes (ha : s.agent = .strand c k) {old : Word} (hv : s.csrValue c k csr.toNat = some old) {g : Word → Word}
    (hr : csrRefusal s.cur w csr.toNat true true = none) (hd : csr.toNat < 0x806 ∨ 0x808 < csr.toNat ∨ Drained s)
    (hne : csr.toNat ≠ 0x5C4) :
    csrInstr w rd csr (some g) s =
      let s0 := afterRead s c k csr.toNat
      match csrLeaves (s0.strand c k) csr.toNat (g old) with
      | some t1 => scalar rd old (s0.setStrand c k t1)
      | none => s0.raise (illegalOperand 5 w) := by
  unfold csrInstr
  simp only [State.who_strand ha, hv, Option.isSome_some, hr, csr_goes hd]
  change (match (afterRead s c k csr.toNat).csrWrite c k w csr.toNat (g old) with
    | (.ok (), s') => scalar rd old s'
    | (.error e, s') => s'.raise e) = _
  rw [csrWrite_eq _ hne]
  cases csrLeaves ((afterRead s c k csr.toNat).strand c k) csr.toNat (g old) <;> rfl

/-! ### The rows of a CSR write alone -/

/-- What such a row means, through the one operation that they share. -/
theorem exec_csrWrite {i : Instr} {v : Word} (h : csrWriteOf i = some (a, v)) : exec i s = finish (csrEvent a v s) := by
  unfold csrWriteOf at h
  split at h <;> cases h <;> rfl

theorem csrEvent_waits (ha : s.agent = .strand c k) (v : Word) (hc : 0x806 ≤ a ∧ a ≤ 0x808) (hd : ¬ Drained s) : csrEvent a v s = s := by
  unfold csrEvent
  simp only [State.who_strand ha, csrValue_afterVector s c k hc, csrRefusal_afterVector _ _ hc, (afterVectorCsr_iff _).2 hc,
    Bool.eq_false_iff.2 (mt (drained_iff s).1 hd)]
  rfl

theorem csrEvent_writes (ha : s.agent = .strand c k) (v : Word) (hv : (s.csrValue c k a).isSome = true)
    (hr : csrRefusal s.cur (csrWord a) a true true = none) (hd : a < 0x806 ∨ 0x808 < a ∨ Drained s) (hne : a ≠ 0x5C4) :
    csrEvent a v s = match csrLeaves s.cur a v with
      | some t1 => s.setStrand c k t1
      | none => s.raise (illegalOperand 5 (csrWord a)) := by
  rw [State.cur_strand ha] at hr ⊢
  unfold csrEvent
  simp only [State.who_strand ha, State.cur_strand ha, hv, hr, csr_goes hd, csrWrite_eq s hne, Bool.false_eq_true, if_false]
  cases csrLeaves (s.strand c k) a v <;> rfl

end

/-- A Zicsr instruction that writes nothing, or writes what the CSR's map takes, retires with the old value in rd, after which the strand
is `t1` apart from that. -/
theorem retires_csr {s s0 : State} {c k : Nat} (ha : s.agent = .strand c k) (h0 : OnlyStrand c k s s0) (ha0 : s0.agent = s.agent)
    (hs0 : s0.stop = none) (hpc : (s0.strand c k).pc = s.cur.pc) (rd : BitVec 5) (old : Word) :
    ∃ t, finish (scalar rd old s0) = .next t ∧ OnlyStrand c k s t ∧ Retired (s.cur.pc + 4) rd old (s0.strand c k) t.cur := by
  have ha' : s0.agent = .strand c k := ha0.trans ha
  refine ⟨_, finish_scalar hs0, onlyStrand_trans h0 (onlyStrand_scalar ha' rd old), ?_⟩
  have h := retired_scalar rd old s0
  rwa [State.cur_strand ha', hpc] at h

/-- Settles O8: each Zicsr instruction and each row of a CSR write alone is one shared operation, whose checks and writes are those of the
map. -/
theorem csrInstructions : Obligations.CsrInstructions := by
  unfold Obligations.CsrInstructions
  refine ⟨fun i s c k w rd a f ha hi hne hs => ?zicsr, fun i s c k a v ha hi hne hs hv => ?alone⟩
  case zicsr =>
    obtain ⟨csr, rfl, he⟩ := exec_csr hi
    refine ⟨fun e hd => ?_, fun h1 h2 hd => ?_, fun old hd hv hw => ?_⟩
    · rw [← csrRefusal_eq] at hd
      rw [Raises, he, csrInstr_refused ha hd]
      exact finish_raise s e hs
    · rw [Waits, he, csrInstr_waits ha ⟨h1, h2⟩ hd]
      exact finish_eq s hs
    · rw [← csrRefusal_eq] at hd
      intro t0
      have ht0 : (afterRead s c k csr.toNat).strand c k = t0 := by rw [afterRead_strand, ← State.cur_strand ha]
      have hpc : t0.pc = s.cur.pc := by
        simp only [t0]
        split <;> rfl
      refine ⟨?_, fun g t1 hf hl => ?_, fun g hf hn hl => ?_⟩
      · rintro rfl
        rw [he, csrInstr_reads ha hv hd hw, ← ht0]
        exact retires_csr ha afterRead_only afterRead_agent (afterRead_stop.trans hs) (ht0 ▸ hpc) rd old
      · subst hf
        rw [he, csrInstr_writes ha hv hd hw hne]
        simp only [ht0, hl]
        have h := retires_csr (s0 := (afterRead s c k csr.toNat).setStrand c k t1) ha
          (onlyStrand_trans afterRead_only (onlyStrand_setStrand _ c k t1)) afterRead_agent (afterRead_stop.trans hs)
          (by rw [State.strand_setStrand_same, csrLeaves_pc hl, hpc]) rd old
        rwa [State.strand_setStrand_same] at h
      · subst hf
        have h0 : afterRead s c k csr.toNat = s := if_neg hn
        rw [Raises, he, csrInstr_writes ha hv hd hw hne]
        simp only [ht0, hl]
        rw [h0]
        exact finish_raise s _ hs
  case alone =>
    intro waits
    have he := exec_csrWrite (s := s) hi
    refine ⟨fun ⟨h1, h2, h3⟩ => ?_, fun hw hd => ?_⟩
    · rw [Waits, he, csrEvent_waits ha v ⟨h1, h2⟩ h3]
      exact finish_eq s hs
    · rw [← csrRefusal_eq] at hd
      have hgo : a < 0x806 ∨ 0x808 < a ∨ Drained s := by
        by_cases hdr : Drained s
        · exact .inr (.inr hdr)
        · have : ¬ (0x806 ≤ a ∧ a ≤ 0x808) := fun h => hw ⟨h.1, h.2, hdr⟩
          omega
      have hx := csrEvent_writes ha v hv hd hgo hne
      refine ⟨fun t1 hl => ?_, fun hl => ?_⟩
      · rw [he, hx, hl]
        exact finish_eq _ hs
      · rw [Raises, he, hx, hl]
        exact finish_raise s _ hs

end Sys2Proof.Machine

/-! ## Errors, watchdogs, DRAM and Titania's tables and tiles (R39, R129 to R168, R256 to R278) -/

namespace Sys2Proof.Machine

open Sys2Proof.Claims

/-! ### Errors and watchdogs (R129, R168, R277, R278) -/

/-- A line of DRAM with an uncorrectable error is poisoned and counted at its channel (R168, R277). -/
theorem exec_dramError (t : Tier) {l : Nat} (s : State) (h : l < tierLines t) :
    exec (.dramUncorrectableError t l) s = .next (errs (s.setTierPoison t (64 * l) true) 3 (channelOf t (64 * l))) :=
  congrArg Host.Outcome.next (if_neg (Nat.not_le.2 h))

theorem exec_dramError_none (t : Tier) {l : Nat} (s : State) (h : tierLines t ≤ l) : exec (.dramUncorrectableError t l) s = .next s :=
  congrArg Host.Outcome.next (if_pos h)

theorem setTierPoison_fast (s : State) (l : Nat) (p : Bool) :
    s.setTierPoison .fast (64 * l) p = { s with poisonFast := SMap.set false s.poisonFast l p } := by
  simp [State.setTierPoison]

theorem setTierPoison_capacity (s : State) (l : Nat) (p : Bool) :
    s.setTierPoison .capacity (64 * l) p = { s with poisonCap := SMap.set false s.poisonCap l p } := by
  simp [State.setTierPoison]

/-- A unit or a line that the device does not have meets no error (R2). -/
theorem exec_tileError_none (v : Level) {u l : Nat} (s : State) (h : levelUnits v ≤ u ∨ levelLines v ≤ l) :
    exec (.tileUncorrectableError v u l) s = .next s :=
  congrArg Host.Outcome.next (if_pos (by simpa using h))

theorem exec_tileError_l0 {c l : Nat} (s : State) (hc : c < 256) (hl : l < lineCount false) :
    exec (.tileUncorrectableError .l0 c l) s =
      .next (errs (s.onCore c fun r => { r with l0poison := r.l0poison.put l true }) 1 (256 * c + l % 31)) :=
  congrArg Host.Outcome.next (if_neg (by simp [levelUnits, levelLines, Nat.not_le.2 hc, Nat.not_le.2 hl]))

theorem exec_tileError_l1 {d l : Nat} (s : State) (hd : d < 4) (hl : l < lineCount true) :
    exec (.tileUncorrectableError .l1 d l) s =
      .next (errs (s.setDie d { s.die d with l1poison := (s.die d).l1poison.put l true }) 1 (65536 + 256 * d + l % 127)) :=
  congrArg Host.Outcome.next (if_neg (by simp [levelUnits, levelLines, Nat.not_le.2 hd, Nat.not_le.2 hl]))

/-- A soft error of a bank that the device has is counted there (R277). -/
theorem exec_eccTile (v : Level) {u b : Nat} (s : State) (hu : u < levelUnits v) (hb : b < levelBanks v) :
    exec (.eccCorrected (.tileBank v u b)) s = .next (errs s 0 (bankUnit v u b)) :=
  congrArg Host.Outcome.next (if_neg (by simp [hu, hb]))

theorem exec_eccDram (t : Tier) {c : Nat} (s : State) (h : c < tierChannels t) :
    exec (.eccCorrected (.dramChannel t c)) s = .next (errs s 2 (if t = .fast then c else 256 + c)) := by
  cases t <;> exact congrArg Host.Outcome.next (if_neg (Nat.not_le.2 h))

/-! ### Refresh (R160, R276) -/

theorem SMap.get_mapVal {α : Type} (d : α) {f : α → α} (hf : f d = d) (m : SMap α) (n : Nat) :
    SMap.get d (m.map fun e => (e.1, f e.2)) n = f (SMap.get d m n) := by
  induction m with
  | nil => exact hf.symm
  | cons e m ih =>
    rw [List.map_cons, SMap.get, SMap.get, ih]
    split <;> rfl

/-- The held rows of a strand that are row `b`. -/
def rowsAt (s : State) (b : Nat) (t : Strand) : Nat := (t.held.filter fun r => s.rowOf (.dev r.phys) = some b).length

/-- What a refresh does to a strand that holds row `b`. -/
def breakCount (s : State) (b : Nat) (t : Strand) : Strand := if rowsAt s b t = 0 then t else t.count 0x0B (rowsAt s b t)

theorem countBreak_eq (s : State) (b : Nat) : countBreak s b = s.strands.map fun e => (e.1, breakCount s b e.2) := by
  refine List.map_congr_left fun e _ => ?_
  unfold breakCount
  change (if rowsAt s b e.2 = 0 then e else (e.1, e.2.count 0x0B (rowsAt s b e.2))) = _
  split <;> rfl

theorem get_countBreak (s : State) (b n : Nat) :
    SMap.get Strand.reset (countBreak s b) n = breakCount s b (SMap.get Strand.reset s.strands n) := by
  rw [countBreak_eq]
  exact SMap.get_mapVal _ rfl _ _

theorem breakCount_frame (s : State) (b : Nat) (t : Strand) : breakCount s b t = { t with events := (breakCount s b t).events } := by
  unfold breakCount
  split <;> rfl

theorem breakCount_events (s : State) (b : Nat) (t : Strand) (e : Nat) :
    SMap.get 0 (breakCount s b t).events e = SMap.get 0 t.events e + if e = 0x0B then BitVec.ofNat 64 (rowsAt s b t) else 0 := by
  unfold breakCount
  split
  · next h => simp [h]
  · by_cases he : e = 0x0B
    · simp [Strand.count, SMap.get_set, he]
    · simp [Strand.count, SMap.get_set, he, Ne.symm he]

/-- A row slot after a refresh of its bank: one that holds a row counts the break, saturating (R276). -/
def brokenSlot (x : RowSlot) : RowSlot :=
  if x.block = none then x else { x with breaks := if x.breaks = BitVec.allOnes 16 then x.breaks else x.breaks + 1 }

/-- The row `r` of slot `i` of a bank is written back and opened again. -/
def breakRow (bank i r : Nat) (u : State) : State :=
  { u with rowSlots := u.rowSlots.put (4 * bank + i) (brokenSlot (u.rowSlot bank i)), strands := countBreak u r }

/-- A refresh of one slot of a bank. -/
def refreshSlot (bank : Nat) (u : State) (i : Nat) : State :=
  match (u.rowSlot bank i).block with
  | none => u
  | some r => breakRow bank i r u

theorem refreshSlot_none {u : State} {b i : Nat} (h : (u.rowSlot b i).block = none) : refreshSlot b u i = u := by
  unfold refreshSlot
  rw [h]

theorem refreshSlot_some {u : State} {b i r : Nat} (h : (u.rowSlot b i).block = some r) : refreshSlot b u i = breakRow b i r u := by
  unfold refreshSlot
  rw [h]

theorem exec_refreshBreak (bank : Nat) (s : State) : exec (.refreshBreak bank) s = .next ((List.range 4).foldl (refreshSlot bank) s) := by
  refine congrArg (fun f => Host.Outcome.next ((List.range 4).foldl f s)) (funext fun u => funext fun i => ?_)
  dsimp only
  split
  · next h => exact (refreshSlot_none h).symm
  · next r h => simp [refreshSlot_some h, breakRow, brokenSlot, h]

theorem breakRow_rowSlot (b i r j : Nat) (u : State) :
    (breakRow b i r u).rowSlot b j = if i = j then brokenSlot (u.rowSlot b i) else u.rowSlot b j := by
  simp only [breakRow, State.rowSlot, SMap.get_put, Nat.add_left_cancel_iff]

theorem breakRow_strand (b i r c k : Nat) (u : State) : (breakRow b i r u).strand c k = breakCount u r (u.strand c k) := get_countBreak u r _

/-- What the refresh of the first `n` slots of bank `b` leaves: their breaks counted, and event 0x0B at the strands that hold their rows. -/
structure Refreshed (s : State) (b n : Nat) (u : State) : Prop where
  frame : u = { s with rowSlots := u.rowSlots, strands := u.strands }
  slots : ∀ j, j < 4 → u.rowSlot b j = if j < n then brokenSlot (s.rowSlot b j) else s.rowSlot b j
  strand : ∀ c k, u.strand c k = { s.strand c k with events := (u.strand c k).events }
  events : ∀ c k e, SMap.get 0 (u.strand c k).events e = SMap.get 0 (s.strand c k).events e +
    if e = 0x0B then BitVec.ofNat 64 (((List.range n).map fun i => rowsHeldIn s b i (s.strand c k)).sum) else 0

/-- The rows of slot `i` that a strand of `u` holds, for a `u` that has come from `s` by a refresh of other slots. -/
theorem Refreshed.rowsAt {s u : State} {b n : Nat} (h : Refreshed s b n u) {r : Nat} (hr : (s.rowSlot b n).block = some r)
    (c k : Nat) : rowsAt u r (u.strand c k) = rowsHeldIn s b n (s.strand c k) := by
  have hrow : u.rowOf = s.rowOf := by rw [h.frame]; rfl
  have hheld : (u.strand c k).held = (s.strand c k).held := by rw [h.strand]; rfl
  unfold rowsHeldIn Machine.rowsAt
  rw [hr, hrow, hheld]

theorem Refreshed.step {s u : State} {b n : Nat} (h : Refreshed s b n u) (hn : n < 4) : Refreshed s b (n + 1) (refreshSlot b u n) := by
  have hslot : u.rowSlot b n = s.rowSlot b n := by rw [h.slots n hn, if_neg (Nat.lt_irrefl n)]
  cases hb : (s.rowSlot b n).block with
  | none =>
    rw [refreshSlot_none (by rw [hslot, hb])]
    refine ⟨h.frame, fun j hj => ?_, h.strand, fun c k e => ?_⟩
    · rw [h.slots j hj]
      rcases Nat.lt_trichotomy j n with hjn | rfl | hjn
      · simp [hjn, Nat.lt_succ_of_lt hjn]
      · simp [brokenSlot, hb]
      · simp [Nat.not_lt.2 (Nat.le_of_lt hjn), show ¬ j < n + 1 by omega]
    · rw [h.events, List.range_succ, List.map_append, List.sum_append]
      simp [rowsHeldIn, hb]
  | some r =>
    rw [refreshSlot_some (by rw [hslot, hb])]
    refine ⟨?_, fun j hj => ?_, fun c k => ?_, fun c k e => ?_⟩
    · exact congrArg (fun v : State => { v with rowSlots := (breakRow b n r u).rowSlots, strands := (breakRow b n r u).strands }) h.frame
    · rw [breakRow_rowSlot, h.slots j hj, hslot]
      rcases Nat.lt_trichotomy j n with hjn | rfl | hjn
      · simp [hjn, Nat.lt_succ_of_lt hjn, Nat.ne_of_gt hjn]
      · simp
      · simp [Nat.not_lt.2 (Nat.le_of_lt hjn), show ¬ j < n + 1 by omega, Nat.ne_of_lt hjn]
    · rw [breakRow_strand, breakCount_frame, h.strand]
    · rw [breakRow_strand, breakCount_events, h.events, h.rowsAt hb, List.range_succ, List.map_append, List.sum_append]
      by_cases he : e = 0x0B
      · simp [he, BitVec.ofNat_add, BitVec.add_assoc]
      · simp [he]

theorem refreshed_fold (s : State) (b : Nat) : ∀ n, n ≤ 4 → Refreshed s b n ((List.range n).foldl (refreshSlot b) s) := by
  intro n
  induction n with
  | zero => exact fun _ => ⟨rfl, fun _ _ => rfl, fun _ _ => rfl, fun c k e => by simp⟩
  | succ n ih =>
    intro hn
    rw [List.range_succ, List.foldl_append]
    exact (ih (by omega)).step (by omega)

/-! ### What no window covers (R468) -/

theorem inRing_iff (o : Nat) : inRing o = true ↔ ∃ d, d < 4 ∧ ringSlot d 0 ≤ o ∧ o < ringSlot d 0 + 64 * 4096 := by
  simp [inRing]

theorem guarded_iff (s : State) (n : Nat) : s.guarded n = true ↔ Guarded s n := by
  have hring : ((List.range 64).any fun i => match s.place (4096 * n + 64 * i) with
      | some (.fast, o) => inRing o
      | _ => false) = true ↔
      ∃ i o d, i < 64 ∧ d < 4 ∧ s.place (4096 * n + 64 * i) = some (.fast, o) ∧ ringSlot d 0 ≤ o ∧ o < ringSlot d 0 + 64 * 4096 := by
    rw [List.any_eq_true]
    constructor
    · rintro ⟨i, hi, h⟩
      split at h
      · next o ho =>
        obtain ⟨d, hd, h1, h2⟩ := (inRing_iff o).1 h
        exact ⟨i, o, d, List.mem_range.1 hi, hd, ho, h1, h2⟩
      · cases h
    · rintro ⟨i, o, d, hi, hd, ho, h1, h2⟩
      refine ⟨i, List.mem_range.2 hi, ?_⟩
      rw [ho]
      exact (inRing_iff o).2 ⟨d, hd, h1, h2⟩
  unfold State.guarded Guarded
  rw [Bool.or_eq_true, Bool.or_eq_true, Bool.or_eq_true, decide_eq_true_eq, List.contains_iff_mem, or_assoc, or_assoc]
  exact or_congr_right (or_congr_right (or_congr_right hring))

theorem guardedIn_iff (s : State) (page pages : Nat) : s.guardedIn page pages = true ↔ GuardedIn s page pages := by
  simp [State.guardedIn, GuardedIn, guarded_iff]

theorem exposed_iff (s : State) : s.exposed = true ↔ Exposed s := by
  simp [State.exposed, Exposed, guardedIn_iff, Option.any_eq_true]

/-- An act of Titania that leads from `s` to `u` leaves `s` where it would put a page table under a window (R468). -/
theorem hides_of_exec {i : Instr} {s u : State} (h : exec i s = .next (s.hiding u)) : Hides i s u := by
  have hx := exposed_iff s
  have hy := exposed_iff u
  unfold State.hiding at h
  refine ⟨fun h1 h2 => ?_, fun h1 => ?_, fun h1 h2 => ?_⟩
  · rw [h, if_neg (by simp [hx.2 h2])]
  · rw [h, if_neg (by simp [mt hy.1 h1])]
  · rw [h, if_pos (by simp [hy.2 h1, mt hx.1 h2])]

/-! ### Titania's tables (R39, R151, R163, R256) -/

/-- The cores of a set on one die pass the model's check where they form a rectangle (R39). -/
theorem rectangle_iff {cs : List Nat} {d : Nat} (h : ∀ x ∈ cs, dieOf x = d) : rectangle cs = true ↔ Rect cs := by
  cases cs with
  | nil => simp [rectangle, Rect]
  | cons c cs =>
    have hd : (c :: cs).all (fun x => dieOf x = dieOf c) = true := by
      rw [List.all_eq_true]
      intro x hx
      rw [decide_eq_true_eq, h x hx, h c (List.mem_cons_self ..)]
    simp only [rectangle, Rect, hd, Bool.and_true, decide_eq_true_eq]
    exact ⟨.inr, fun h => h.resolve_left (List.cons_ne_nil c cs)⟩

/-- The checks of REGION_CREATE: the identifier, the cores, a rectangle on each die, and a free context there (R39, log 79). -/
def RegionFits (s : State) (id : Nat) (cs : List Nat) : Prop :=
  let onDie (d : Nat) : Nat := (s.regions.filter fun e => e.2.any fun r => r.cores.any fun x => dieOf x = d).length
  id < 64 ∧ s.region id = none ∧ cs ≠ [] ∧ (∀ c ∈ cs, c < 256 ∧ (s.core c).region = none) ∧
    ∀ d, d < 4 → Rect (cs.filter fun c => dieOf c = d) ∧ ((∃ c ∈ cs, dieOf c = d) → onDie d < 16)

theorem exec_regionCreate (id tenant : Nat) (cores : List Nat) (satp : Word) (s : State) :
    let cs := cores.eraseDups.mergeSort fun a b => a ≤ b
    (¬ RegionFits s id cs → exec (.regionCreate id tenant cores satp) s = .next s) ∧
    (RegionFits s id cs → exec (.regionCreate id tenant cores satp) s = .next (s.hiding
      ((cs.foldl (fun (u : State) c => u.onCore c fun r => { r with region := some id }) s).setRegion id
        { cores := cs, tenant := tenant, satp := satp, running := none, limit := none, frozen := false, resets := [] }))) := by
  intro cs
  have hfits : (64 ≤ id || (s.region id).isSome || cs = [] || cs.any (fun c => 256 ≤ c || (s.core c).region.isSome) ||
      !(List.range 4).all (fun d => rectangle (cs.filter fun c => dieOf c = d)) ||
      (List.range 4).any (fun d => cs.any (fun c => dieOf c = d) && dieContexts ≤ s.contexts d)) = false ↔ RegionFits s id cs := by
    have hrect : ∀ d, rectangle (cs.filter fun c => dieOf c = d) = true ↔ Rect (cs.filter fun c => dieOf c = d) := fun d =>
      rectangle_iff fun x hx => by simpa using (List.mem_filter.1 hx).2
    simp only [Bool.or_eq_false_iff, decide_eq_false_iff_not, Bool.not_eq_false', List.all_eq_true, List.any_eq_false, List.mem_range, hrect,
      Nat.not_le, Bool.or_eq_true, Bool.and_eq_true, List.any_eq_true, decide_eq_true_eq, not_or, not_and, Option.not_isSome_iff_eq_none,
      Option.isSome_eq_false_iff, Option.isNone_iff_eq_none]
    exact ⟨fun ⟨⟨⟨⟨⟨h1, h2⟩, h3⟩, h4⟩, h5⟩, h6⟩ => ⟨h1, h2, h3, h4, fun d hd => ⟨h5 d hd, h6 d hd⟩⟩,
      fun ⟨h1, h2, h3, h4, h5⟩ => ⟨⟨⟨⟨⟨h1, h2⟩, h3⟩, h4⟩, fun d hd => (h5 d hd).1⟩, fun d hd => (h5 d hd).2⟩⟩
  refine ⟨fun h => congrArg Host.Outcome.next (if_pos ?_), fun h => congrArg Host.Outcome.next (if_neg ?_)⟩
  · rwa [← hfits, Bool.not_eq_false] at h
  · rwa [← hfits, ← Bool.not_eq_true] at h

theorem foldl_onCore_regions (l : List Nat) (f : Core → Core) (s : State) :
    (l.foldl (fun (u : State) c => u.onCore c f) s).regions = s.regions := by
  induction l generalizing s with
  | nil => rfl
  | cons c l ih => exact ih _

theorem exec_regionDestroy {id : Nat} {r : Region} {s : State} (hr : s.region id = some r) :
    exec (.regionDestroy id) s = .next (if s.jobsOf id ≠ [] then s
      else { r.cores.foldl (fun (u : State) c => u.onCore c fun x => { x with region := none }) s with regions := s.regions.del id }) := by
  change execRegionDestroy id s = _
  unfold execRegionDestroy
  rw [hr]
  simp only [foldl_onCore_regions]

/-- A tag of a reserved circuit, one of a stopped or frozen job included (R256, R293). -/
theorem liveTags_iff (s : State) (t : Nat) :
    s.liveTags.contains t = true ↔ (∃ c ∈ s.cores, ∃ y ∈ c.2.slots, ∃ x ∈ y.2.rec_.routes, x.tag = t) ∨ t ∈ s.keptTags := by
  simp only [State.liveTags, List.contains_iff_mem, List.mem_append, List.mem_flatMap, List.mem_map]

/-- A table write is refused for a tag in use, for an entry that no router has, for a reserved field, and for a port group's mask that names
a reserved port under another tag than the checkpoint engine's (R256, R472). -/
theorem exec_tagWrite (r t f : Nat) (w : Word) (s : State) :
    exec (.routerTagTableWrite r t f w) s = .next
      (if ((∃ c ∈ s.cores, ∃ y ∈ c.2.slots, ∃ x ∈ y.2.rec_.routes, x.tag = t) ∨ t ∈ s.keptTags) ∨
          (256 ≤ r ∧ part w 17 15 ≠ 0 ∧ t ≠ Config.checkpointTag) ∨ 264 ≤ r ∨ 256 ≤ t ∨ 8 ≤ f ∨ part w 60 45 ≠ 0 ∨ part w 39 32 ≠ 0 then s
        else { s with tags := SMap.set 0 s.tags (2048 * r + 8 * t + f) w }) := by
  refine congrArg Host.Outcome.next (ite_congr (propext ?_) (fun _ => rfl) (fun _ => rfl))
  refine Iff.trans ?_ (or_congr_right or_comm)
  rw [← liveTags_iff]
  simp only [Bool.or_eq_true, Bool.and_eq_true, decide_eq_true_eq, or_assoc, and_assoc]
  rfl

/-- A table write is refused for an entry that the table does not have, for a reserved field, and for a valid entry that the device
refuses (R151, log 81). -/
theorem exec_interleaveWrite (n : Nat) (w0 w1 : Word) (s : State) :
    exec (.interleaveTableWrite n w0 w1) s = .next
      (if 32 ≤ n ∨ (part w0 62 54 ≠ 0 ∨ part w0 43 22 ≠ 0) ∨ (w0.getLsbD 63 = true ∧ s.badInterleave n w0 w1 = true) then s
        else { s with interleave := s.interleave.put n (w0, w1) }) := by
  refine congrArg Host.Outcome.next (ite_congr (propext ?_) (fun _ => rfl) (fun _ => rfl))
  simp only [interleaveReserved, Bool.or_eq_true, Bool.and_eq_true, decide_eq_true_eq, or_assoc]
  rfl

/-! ### Lending (R153, R154) -/

/-- A channel lends its lanes where neither it nor its partner is in a handshake and it holds no row. -/
theorem exec_channelLend {ch : Nat} (h : ch < 256) (s : State) :
    exec (.channelLend ch) s = .next
      (if (SMap.get 0 s.lend ch).toNat % 4 ≠ 0 ∨ (SMap.get 0 s.lend (neighbour ch)).toNat % 4 ≠ 0 ∨ s.holdsRow ch = true then s
        else { s with
          lend := (s.lend.put ch (lend (SMap.get 0 s.lend ch) 1 1)).put (neighbour ch) (lend (SMap.get 0 s.lend (neighbour ch)) 2 0) }) := by
  refine congrArg Host.Outcome.next (ite_congr (propext ?_) (fun _ => rfl) (fun _ => rfl))
  simp only [Bool.or_eq_true, decide_eq_true_eq, or_assoc, Nat.not_le.2 h, false_or]
  rfl

/-- A channel that lends its lanes owns them again, and any other stays as it is. -/
theorem exec_channelReclaim (ch : Nat) (s : State) :
    exec (.channelReclaim ch) s = .next
      (if (SMap.get 0 s.lend ch).toNat % 4 ≠ 1 then s
        else { s with
          lend := (s.lend.put ch (lend (SMap.get 0 s.lend ch) 0 1)).put (neighbour ch) (lend (SMap.get 0 s.lend (neighbour ch)) 0 0) }) := rfl

/-! ### Page tables (R163, R259) -/

theorem hiding_stop {s u : State} (hs : s.stop = none) (hu : u.stop = none) : (s.hiding u).stop = none := by
  unfold State.hiding
  split
  · exact hs
  · exact hu

/-! ### Titania's tiles (R133, R140, R241) -/

theorem movable_iff (t : Tile) : t.movable = true ↔ t.allocated = true ∧ (t.state = .empty ∨ t.state = .full) := by
  simp [Tile.movable]

theorem not_movable {t : Tile} (h : t.allocated = false ∨ t.state = .filling ∨ t.state = .draining) : t.movable = false := by
  rcases h with h | h | h <;> simp [Tile.movable, h]

/-- A tile of an L0 moves to a free run of its die's L1. -/
theorem exec_tileDemote (c n b : Nat) (s : State) :
    let t := s.tile c n
    exec (.tileDemote c n b) s = .next
      (if 2048 ≤ n ∨ t.movable = false ∨ t.res ≠ 0 ∨ freeRun (s.levelRuns true c) b t.lines = false ∨ lineCount true < b + t.lines then s
        else (s.setRun true c b (s.runLines false c t.base t.lines)).setTile c n { t with res := 1, base := b }) := by
  refine congrArg Host.Outcome.next (ite_congr (propext ?_) (fun _ => rfl) (fun _ => rfl))
  simp only [Bool.or_eq_true, decide_eq_true_eq, Bool.not_eq_true', or_assoc]

/-- A tile moves to its DRAM backing, unless it is there. -/
theorem exec_tileEvict (c n : Nat) (s : State) :
    let t := s.tile c n
    exec (.tileEvict c n) s = .next
      (if t.movable = false ∨ t.res = 2 then s
        else { s with backing := s.backing.put (backingKey t.job c n) (s.runLines (decide (2048 ≤ n ∨ t.res = 1)) c t.base t.lines) }.setTile c n
          { t with res := 2 }) := by
  refine congrArg Host.Outcome.next (ite_congr (propext ?_) (fun _ => rfl) (fun _ => ?_))
  · simp only [Bool.or_eq_true, decide_eq_true_eq, Bool.not_eq_true']
  · simp only [inL1, Bool.decide_or]

/-- An evicted tile comes back to a free run of its own level. -/
theorem exec_tileRestore (c n b : Nat) (s : State) (hr : (s.tile c n).res ≠ 1) :
    let t := s.tile c n
    exec (.tileRestore c n b) s = .next
      (if t.allocated = false ∨ t.res = 0 ∨ freeRun (s.levelRuns (decide (2048 ≤ n)) c) b t.lines = false ∨
          lineCount (decide (2048 ≤ n)) < b + t.lines then s
        else
          let u := s.setRun (decide (2048 ≤ n)) c b (SMap.get [] s.backing (backingKey t.job c n))
          { u with backing := u.backing.del (backingKey t.job c n) }.setTile c n { t with res := 0, base := b }) := by
  refine congrArg Host.Outcome.next (ite_congr (propext ?_) (fun _ => rfl) (fun _ => ?_))
  · simp only [Bool.or_eq_true, decide_eq_true_eq, Bool.not_eq_true', or_assoc]
  · simp only [if_neg hr]

/-- Settles O53: each event by its own lemma; a refresh by what it leaves after each slot of its bank. -/
theorem memoryAndTableEvents : Obligations.MemoryAndTableEvents := by
  unfold Obligations.MemoryAndTableEvents
  intro s hs
  refine ⟨fun l => exec_dramError_none .fast s, fun l => exec_dramError_none .capacity s, fun l h => ?dramFast, fun l h => ?dramCap,
    fun c l => exec_tileError_none .l0 s, fun d l => exec_tileError_none .l1 s, fun c l => exec_tileError_l0 s, fun d l => exec_tileError_l1 s,
    fun ch => exec_eccDram .fast s, fun ch => exec_eccDram .capacity s, fun l u b h => ?eccTile,
    fun c k => ⟨fun h => congrArg Host.Outcome.next (if_pos h), fun h => congrArg Host.Outcome.next (if_neg (Nat.not_lt.2 h))⟩,
    fun c q => ⟨fun h => congrArg Host.Outcome.next (if_pos h), fun h => congrArg Host.Outcome.next (if_neg (Nat.not_lt.2 h))⟩,
    fun c q => ⟨fun h => congrArg Host.Outcome.next (if_pos h), fun h => congrArg Host.Outcome.next (if_neg (Nat.not_lt.2 h))⟩,
    fun b h => ?refreshNone, fun b => ?refresh, fun ch h => ?lend, fun id tenant cores satp => ?create, fun id r hr => ?destroy,
    fun n w0 w1 => ?interleave, fun r t f w => ?tag, fun ws denied => ?invalidate, fun c n b => ?tiles, fun c n => ?revoke⟩
  case dramFast =>
    rw [exec_dramError .fast s h, setTierPoison_fast]
    rfl
  case dramCap =>
    rw [exec_dramError .capacity s h, setTierPoison_capacity]
    rfl
  case eccTile =>
    cases l with
    | l0 =>
      rw [exec_eccTile .l0 s h.1 h.2]
      simp only [bankUnit, Nat.mod_eq_of_lt h.2]
    | l1 =>
      rw [exec_eccTile .l1 s h.1 h.2]
      simp only [bankUnit, Nat.mod_eq_of_lt h.2]
  case refreshNone =>
    rw [exec_refreshBreak]
    change Host.Outcome.next (refreshSlot b (refreshSlot b (refreshSlot b (refreshSlot b s 0) 1) 2) 3) = _
    rw [refreshSlot_none (h 0 (by omega)), refreshSlot_none (h 1 (by omega)), refreshSlot_none (h 2 (by omega)),
      refreshSlot_none (h 3 (by omega))]
  case refresh =>
    obtain ⟨hframe, hslots, hstrand, hevents⟩ := refreshed_fold s b 4 (Nat.le_refl 4)
    refine ⟨_, exec_refreshBreak b s, hframe, fun i hi => ?_, fun c k => ⟨hstrand c k, fun e => ?_⟩⟩
    · rw [hslots i hi, if_pos hi]
      rfl
    · rw [hevents]
      simp [List.range_succ, Nat.add_assoc]
  case lend =>
    rw [exec_channelLend h, exec_channelReclaim]
    exact ⟨fun h => congrArg Host.Outcome.next (if_pos h),
      fun ha hb hr => congrArg Host.Outcome.next
        (if_neg (not_or.2 ⟨Classical.not_not.2 ha, not_or.2 ⟨Classical.not_not.2 hb, by simp [hr]⟩⟩)),
      fun h => congrArg Host.Outcome.next (if_pos h), fun h => congrArg Host.Outcome.next (if_neg (Classical.not_not.2 h))⟩
  case create =>
    intro cs onDie fits
    obtain ⟨h1, h2⟩ := exec_regionCreate id tenant cores satp s
    exact ⟨h1, fun h => hides_of_exec (h2 h)⟩
  case destroy =>
    rw [exec_regionDestroy hr]
    exact ⟨fun h => congrArg Host.Outcome.next (if_pos h), fun h => congrArg Host.Outcome.next (if_neg (Classical.not_not.2 h))⟩
  case interleave =>
    rw [exec_interleaveWrite]
    refine ⟨fun hn hw hb => congrArg Host.Outcome.next (if_neg ?_), fun h => congrArg Host.Outcome.next (if_pos h)⟩
    rintro (h | h | ⟨h1, h2⟩)
    · exact Nat.not_le.2 hn h
    · exact hw h
    · rw [h1, h2] at hb
      simp at hb
  case tag =>
    rw [exec_tagWrite]
    refine ⟨fun hu hr h1 h2 h3 h4 h5 => congrArg Host.Outcome.next (if_neg ?_), fun h => congrArg Host.Outcome.next (if_pos h)⟩
    rintro (h | h | h | h | h | h | h)
    · exact hu h
    · exact hr h
    · exact Nat.not_le.2 h1 h
    · exact Nat.not_le.2 h2 h
    · exact Nat.not_le.2 h3 h
    · exact h h4
    · exact h h5
  case invalidate =>
    intro ps u hu
    exact hides_of_exec (finish_eq _ (hiding_stop hs hu))
  case tiles =>
    dsimp only
    refine ⟨fun hn ha hst hr hf hl => ?_, fun h => ⟨?_, ?_⟩, fun ha hst hr => ?_, fun ha hr hf hl => ?_, fun h => ?_⟩
    · rw [exec_tileDemote]
      exact congrArg Host.Outcome.next (if_neg (by simp [(movable_iff _).2 ⟨ha, hst⟩, hn, hr, hf, hl]))
    · rw [exec_tileDemote]
      exact congrArg Host.Outcome.next (if_pos (.inr (.inl (not_movable h))))
    · rw [exec_tileEvict]
      exact congrArg Host.Outcome.next (if_pos (.inl (not_movable h)))
    · rw [exec_tileEvict]
      exact congrArg Host.Outcome.next (if_neg (not_or.2 ⟨by simp [(movable_iff _).2 ⟨ha, hst⟩], hr⟩))
    · rw [exec_tileRestore c n b s (by simp [hr])]
      exact congrArg Host.Outcome.next (if_neg (by simp [ha, hr, hf, hl]))
    · exact congrArg Host.Outcome.next (if_pos (by rcases h with h | h <;> simp [h]))
  case revoke =>
    intro t
    exact ⟨fun h => congrArg Host.Outcome.next (if_pos (by simp [t, ← h])), fun h => congrArg Host.Outcome.next (if_neg (by simp [t, ← h]))⟩

end Sys2Proof.Machine

/-! ## Hosts, client channels and checkpoints (R466 to R471, R482, R486) -/

namespace Sys2Proof.Machine

open Sys2Proof.Claims

/-! ### Requests of the host ports (R467, R468, R478) -/

section
variable {s : State} {p : Nat}

/-- A third host port does not exist. -/
theorem fromHost_absent (go : State) (h : 2 ≤ p) : s.fromHost p go = s := if_pos h

theorem fromHost_retry (go : State) (h : p < 2) (hb : s.booted = false) : s.fromHost p go = emits s (.requestRetry p) := by
  unfold State.fromHost
  rw [if_neg (Nat.not_le.2 h), hb]
  rfl

theorem fromHost_goes (go : State) (h : p < 2) (hb : s.booted = true) : s.fromHost p go = go := by
  unfold State.fromHost
  rw [if_neg (Nat.not_le.2 h), hb]
  rfl

/-- Outside every window, or with the windows closed by a checkpoint, a write completes with Unsupported Request (log 75). -/
theorem exec_hostWrite_closed (hs : s.stop = none) (hb : s.booted = true) (h : p < 2) {a st : Nat} {bs : List Byte}
    (hw : s.checkpoint ≠ .none ∨ s.windowFor p a bs.length st = none) :
    exec (.hostWindowWrite p a st bs) s = .next (emits s (.unsupportedRequest p)) := by
  change finish (s.fromHost p _) = _
  rw [fromHost_goes _ h hb]
  have hclosed : (if s.checkpoint ≠ .none then none else s.windowFor p a bs.length st) = none := by
    split
    · rfl
    · next hc => exact hw.resolve_left hc
  rw [hclosed]
  exact finish_eq _ hs

theorem exec_hostWrite_open (hb : s.booted = true) (h : p < 2) {a st : Nat} {bs : List Byte} {w : DevWindow}
    (hc : s.checkpoint = .none) (hw : s.windowFor p a bs.length st = some w) :
    exec (.hostWindowWrite p a st bs) s = finish (s.peerWrite (4096 * w.page + (a - w.base)) bs) := by
  change finish (s.fromHost p _) = _
  rw [fromHost_goes _ h hb, if_neg (Classical.not_not.2 hc), hw]

theorem exec_hostRead_closed (hs : s.stop = none) (hb : s.booted = true) (h : p < 2) {a st n : Nat} (hw : s.windowFor p a n st = none) :
    exec (.hostWindowRead p a st n) s = .next (emits s (.unsupportedRequest p)) := by
  change finish (s.fromHost p _) = _
  rw [fromHost_goes _ h hb, hw]
  exact finish_eq _ hs

theorem exec_hostRead_open (hb : s.booted = true) (h : p < 2) {a st n : Nat} {w : DevWindow} (hw : s.windowFor p a n st = some w) :
    exec (.hostWindowRead p a st n) s =
      finish (emits ((List.range n).foldl (fun (u : State) i => u.touch ((Phys.dev (4096 * w.page + (a - w.base))).plus i)) s)
        (.hostCompletion p (s.bytesAt (.dev (4096 * w.page + (a - w.base))) n))) := by
  change finish (s.fromHost p _) = _
  rw [fromHost_goes _ h hb, hw]
  rfl

end

/-! ### Client channels (R470) -/

/-- A reply leaves through a host window, so that it stops nothing. -/
theorem replyTo_stop (s : State) (chan n : Nat) (data : List Byte) : (s.replyTo chan n data).stop = s.stop := by
  have hhost : ∀ (bs : List Byte) (w p o : Nat), ∀ e ∈ piecesOf (.host w p o) bs, s.isPlaced e.1 = true := by
    intro bs
    induction bs with
    | nil => intro w p o e he; cases he
    | cons b bs ih =>
      intro w p o e he
      rcases List.mem_cons.1 he with rfl | he
      · rfl
      · exact ih w p (o + 1) e he
  exact (State.store_keeps (.other 0) (hhost _ _ _ _)).1

/-- A client channel: the tail that its doorbell holds, and the entries that Titania has read. -/
def clientRing (s : State) (ch : Nat) : Channel := SMap.get { tail := 0, head := 0 } s.channels ch

/-- The oldest entry of a channel's request ring. -/
def clientEntry (s : State) (ch : Nat) : List Byte := (s.ringEntry ch (clientRing s ch).head).1

/-- The channel after its oldest entry has been taken. -/
def takesEntry (s : State) (ch : Nat) : State :=
  { s.touch (.dev (Config.ringPlace ch + 64 * (clientRing s ch).head)) with
    channels := s.channels.put ch { clientRing s ch with head := ((clientRing s ch).head + 1) % 4096 } }

/-- What Titania does for an entry, which it rejects where that asks for nothing. -/
def served (s : State) (ch : Nat) : Option ClientService → State
  | some v => (s.serve ch v).1
  | none => s

/-- A request marks the model's fault, or has a channel take its lanes back, and changes nothing else (R152, R153). -/
theorem touch_frame (s : State) (p : Phys) : s.touch p = { s with lend := (s.touch p).lend, stop := (s.touch p).stop } := by
  cases p with
  | dev a =>
    simp only [State.touch]
    split
    · split <;> rfl
    · rw [State.reclaim_frame]
    · rfl
  | host => rfl

theorem touch_channels (s : State) (p : Phys) : (s.touch p).channels = s.channels := by rw [touch_frame]

theorem touch_regions (s : State) (p : Phys) : (s.touch p).regions = s.regions := by rw [touch_frame]

theorem exec_clientRequest (s : State) (ch : Nat) (svc : Option ClientService) :
    ∃ st, exec (.clientRequest ch svc) s = finish
      (if s.booted = false ∨ (clientRing s ch).head = (clientRing s ch).tail ∨ Config.clientService (clientEntry s ch) ≠ svc then s
        else (served (takesEntry s ch) ch svc).replyTo ch (clientRing s ch).head (Config.replyEntry (clientEntry s ch) st)) := by
  refine ⟨match svc with
    | some v => ((takesEntry s ch).serve ch v).2.getD (s.free 150001)
    | none => s.free 150000, congrArg finish (ite_congr (propext ?_) (fun _ => rfl) (fun _ => ?_))⟩
  · simp only [Bool.or_eq_true, Bool.not_eq_true', decide_eq_true_eq, or_assoc]
    rfl
  · cases svc <;> (simp only [served, takesEntry, touch_channels]; rfl)

/-- Where Titania takes an entry, it serves it, or rejects it, and replies with a status that is free. -/
theorem exec_clientRequest_serves {s : State} {ch : Nat} {svc : Option ClientService} {v : State} (hb : s.booted = true)
    (hx : (clientRing s ch).head ≠ (clientRing s ch).tail) (he : Config.clientService (clientEntry s ch) = svc)
    (hv : served (takesEntry s ch) ch svc = v) (hstop : v.stop = none) :
    ∃ st, exec (.clientRequest ch svc) s = .next (v.replyTo ch (clientRing s ch).head (Config.replyEntry (clientEntry s ch) st)) := by
  obtain ⟨st, h⟩ := exec_clientRequest s ch svc
  rw [if_neg (by simp [hb, hx, he]), hv] at h
  exact ⟨st, h.trans (finish_eq _ ((replyTo_stop ..).trans hstop))⟩

theorem admitFor_none {s : State} {va : Word} {g : Nat} (h : va.toNat % 64 ≠ 0 ∨ s.region g = none) : s.admitFor va g = none := by
  unfold State.admitFor
  rcases h with h | h
  · cases s.region g with
    | none => rfl
    | some r => simp [h]
  · simp [h]

/-! ### Links and windows (R466, R468, R469, R476) -/

theorem exec_deviceWindowMap (p i b g n : Nat) (s : State) :
    exec (.deviceWindowMap p i b g n) s = .next
      (if 256 ≤ i ∨ 2 ≤ p ∨ s.guardedIn g n = true then s
        else if n = 0 then { s with devWindows := s.devWindows.del (256 * p + i) }
        else { s with devWindows := s.devWindows.put (256 * p + i) (some { base := b, page := g, pages := n, stream := none }) }) := by
  refine congrArg Host.Outcome.next (ite_congr (propext ?_) (fun _ => rfl) (fun _ => rfl))
  simp only [Bool.or_eq_true, decide_eq_true_eq, or_assoc]

theorem not_guardedIn_zero (s : State) (g : Nat) : ¬ GuardedIn s g 0 := fun ⟨_, h, _⟩ => Nat.not_lt_zero _ h

theorem dropsPinned_iff (s : State) (w : Nat) (new : Option HostWindow) : s.dropsPinned w new = true ↔ DropsPinned s w new := by
  unfold State.dropsPinned DropsPinned
  cases SMap.get none s.hostWindows w with
  | none => simp
  | some old =>
    simp only [List.any_eq_true, Bool.and_eq_true, decide_eq_true_eq, Bool.not_eq_true', Option.some.injEq, exists_eq_left', and_assoc]
    refine exists_congr fun e => and_congr_right fun _ => and_congr_right fun _ => and_congr_right fun _ => and_congr_right fun _ => ?_
    cases new with
    | none => simp
    | some n => simp

/-- A change of a host window that waits alone is performed, unless it still unmaps a pinned page (R469). -/
theorem retryMaps_single (s : State) (w : Nat) (new : Option HostWindow) (hm : s.hostMaps = []) :
    ({ s with hostMaps := [(w, new)] } : State).retryMaps =
      if s.dropsPinned w new = true then { s with hostMaps := [(w, new)] } else s.setHostWindow w new := by
  have herase : ([(w, new)] : List (Nat × Option HostWindow)).erase (w, new) = s.hostMaps := by simp [hm]
  change (if s.dropsPinned w new = true then _ else
    { s.setHostWindow w new with hostMaps := ([(w, new)] : List (Nat × Option HostWindow)).erase (w, new) }) = _
  rw [herase]
  rfl

theorem exec_hostWindowMap {w p n : Nat} {s : State} (hw : w < 2048) (hp : p < 2) (hn : n ≤ 2 ^ 32) (hm : s.hostMaps = []) :
    let new : Option HostWindow := if n = 0 then none else some { port := p, pages := n }
    exec (.hostWindowMap w p n) s = .next
      (if s.dropsPinned w new = true then { s with hostMaps := [(w, new)] } else s.setHostWindow w new) := by
  intro new
  have hcond : ¬ (2048 ≤ w || 2 ≤ p || 2 ^ 32 < n) = true := by
    simp only [Bool.or_eq_true, decide_eq_true_eq]
    omega
  refine congrArg Host.Outcome.next ((if_neg hcond).trans ?_)
  rw [hm]
  exact retryMaps_single s w new hm

theorem exec_fabricWindowExport (w t g n : Nat) (s : State) :
    exec (.fabricWindowExport w t g n) s = .next
      (if n = 0 then { s with fabricWindows := s.fabricWindows.del w }
        else if 256 ≤ t ∨ Config.tagGranted t = false ∨ s.guardedIn g n = true then s
        else { s with fabricWindows := s.fabricWindows.put w (some { tag := t, page := g, pages := n }) }) := by
  refine congrArg Host.Outcome.next (ite_congr rfl (fun _ => rfl) (fun _ => ite_congr (propext ?_) (fun _ => rfl) (fun _ => rfl)))
  simp only [Bool.or_eq_true, decide_eq_true_eq, Bool.not_eq_true', or_assoc]

end Sys2Proof.Machine

/-! ### Checkpoints (R482, R486) -/

namespace Sys2Proof.Machine

open Sys2Proof.Claims

theorem upPort_eq (s : State) (p : Nat) : s.upPort p = decide (p < 144 ∧ (SMap.get Herez.reset s.herez p).link = .up) :=
  (Bool.decide_and _ _).symm

theorem upPort_iff (s : State) (p : Nat) : s.upPort p = true ↔ IsUp s p := by rw [upPort_eq, decide_eq_true_eq]; rfl

theorem enginePorts_eq (s : State) (g : Nat) : s.enginePorts g = enginePorts s g :=
  List.filter_congr fun p _ => upPort_eq s p

/-- A checkpoint starts where none is under way. -/
theorem startCheckpoint_eq (s : State) :
    s.startCheckpoint = if s.checkpoint = .none then { s with checkpoint := .copying, regions := regionsFrozen s true } else s := by
  unfold State.startCheckpoint
  exact ite_not ..

theorem startCheckpoint_stop (s : State) : s.startCheckpoint.stop = s.stop := by
  rw [startCheckpoint_eq]
  split <;> rfl

theorem served_powerCap (s : State) (ch w : Nat) :
    served s ch (some (.powerCap w)) = { s with powerCap := if 600 ≤ w ∧ w ≤ 2400 then w else s.powerCap } := by
  by_cases h : 600 ≤ w ∧ w ≤ 2400 <;> simp [served, State.serve, h]

theorem served_admit_none {s : State} {ch g : Nat} {va : Word} (h : s.admitFor va g = none) : served s ch (some (.admitJob va g)) = s := by
  simp only [served, State.serve, h]

theorem served_admit_some {s v : State} {ch g : Nat} {va : Word} (h : s.admitFor va g = some v) :
    served s ch (some (.admitJob va g)) = v := by
  simp only [served, State.serve, h]

/-- The windows open and the regions run again. -/
def reopened (s : State) : State :=
  { s with checkpoint := .none, regions := s.regions.map fun e => (e.1, e.2.map fun r => { r with frozen := false, resets := [] }) }

/-- Where no containment reset has waited for the end of a checkpoint, the device goes on as it stood. -/
theorem reopenDevice_eq {s : State} (h : ∀ e ∈ s.regions, ∀ r, e.2 = some r → r.resets = []) : s.reopenDevice = reopened s := by
  have hnone : s.waitingResets = [] := by
    refine List.flatMap_eq_nil_iff.2 fun e he => ?_
    split
    · next r hr => exact h e he r hr
    · rfl
  unfold State.reopenDevice
  rw [hnone]
  rfl

/-- The engine is held up by a group whose reserved ports are all down. -/
theorem exec_engineDone (s : State) :
    exec .checkpointEngineDone s = finish (if ∃ g, g < 8 ∧ enginePorts s g = [] then s
      else match s.checkpoint with
        | .none => s
        | .copying => emits { s with images := s.images ++ [imageOf s] }.reopenDevice (.checkpoint ((List.range 8).flatMap (enginePorts s))
            { imageOf s with
              fast := s.fast.map fun (e : Nat × Byte) => (e.1, Config.stored 0 e.1 e.2)
              cap := s.cap.map fun (e : Nat × Byte) => (e.1, Config.stored 1 e.1 e.2) })
        | .restoring => s.reopenDevice) := by
  have hports : s.enginePorts = enginePorts s := funext (enginePorts_eq s)
  refine congrArg finish (ite_congr (propext ?_) (fun _ => rfl) (fun _ => ?_))
  · simp [hports]
  · rw [← hports]
    cases s.checkpoint <;> rfl

/-- Onyx may load key slots exactly where no valid interleave entry names one whose key changes (R480). -/
theorem mayLoadKeys_iff (s : State) (ks : List (Nat × BitVec 512)) : s.mayLoadKeys ks = true ↔ KeysFit s ks := by
  unfold State.mayLoadKeys KeysFit
  rw [List.all_eq_true]
  refine forall_congr' fun i => imp_congr List.mem_range ?_
  rw [Bool.or_eq_true, Bool.not_eq_true', decide_eq_true_eq, ← Bool.not_eq_true, ← Decidable.imp_iff_not_or]
  refine imp_congr ?_ Iff.rfl
  simp only [State.slotNamed, List.any_eq_true, Bool.and_eq_true, decide_eq_true_eq]
  rfl

section
variable {s : State} {f c : List (Nat × Byte)} {pf pc : List (Nat × Bool)} {k : List Byte}

theorem contents_iff (x : Image) :
    (x.fast = f && x.cap = c && x.poisonFast = pf && x.poisonCap = pc && x.keys = k) = true ↔ Contents x f c pf pc k := by
  simp only [Contents, Bool.and_eq_true, decide_eq_true_eq, and_assoc]

/-- No image of the safe tier has the contents that a restore names. -/
theorem safeImage_none (h : ∀ x ∈ s.images, ¬ Contents x f c pf pc k) : s.safeImage f c pf pc k = none := by
  refine List.find?_eq_none.2 fun x hx => ?_
  rw [contents_iff]
  exact h x (List.mem_reverse.1 hx)

/-- Of the images with these contents, the last one written. -/
theorem safeImage_some {x : Image} {older newer : List Image} (h : s.images = older ++ x :: newer) (hx : Contents x f c pf pc k)
    (hn : ∀ y ∈ newer, ¬ Contents y f c pf pc k) : s.safeImage f c pf pc k = some x := by
  have hnew : newer.reverse.find? (fun y => y.fast = f && y.cap = c && y.poisonFast = pf && y.poisonCap = pc && y.keys = k) = none :=
    List.find?_eq_none.2 fun y hy => by
      rw [contents_iff]
      exact hn y (List.mem_reverse.1 hy)
  unfold State.safeImage
  rw [h, List.reverse_append, List.reverse_cons, List.find?_append, List.find?_append, hnew]
  simp [(contents_iff x).2 hx]

theorem exec_restore_none (h : s.safeImage f c pf pc k = none) : exec (.checkpointRestore f c pf pc k) s = .next s := by
  refine congrArg Host.Outcome.next ?_
  rw [h]

theorem exec_restore_locked {x : Image} (h : s.safeImage f c pf pc k = some x) (hu : Config.unwrapKeys x.keys = none) :
    exec (.checkpointRestore f c pf pc k) s = .next s := by
  refine congrArg Host.Outcome.next ?_
  rw [h]
  dsimp only
  rw [hu]

/-- A restore of an image of the safe tier whose keys Onyx unwraps. -/
theorem exec_restore {x : Image} (h : s.safeImage f c pf pc k = some x) {ks : List (Nat × BitVec 512)} (hu : Config.unwrapKeys x.keys = some ks) :
    exec (.checkpointRestore f c pf pc k) s = .next (if s.booted = false ∨ s.checkpoint ≠ .none ∨ s.mayLoadKeys ks = false then s
      else { s.restoreSaved x.saved with
        checkpoint := .restoring, regions := x.saved.regions.map fun e => (e.1, e.2.map fun r => { r with frozen := true }),
        fast := x.fast.foldl (fun m e => SMap.set memoryDefault m e.1 e.2) [], cap := x.cap.foldl (fun m e => SMap.set memoryDefault m e.1 e.2) [],
        poisonFast := x.poisonFast, poisonCap := x.poisonCap,
        keySlots := ks.foldl (fun m e => if e.1 < 64 then SMap.put m e.1 e.2 else m) [] }) := by
  refine congrArg Host.Outcome.next ?_
  rw [h]
  dsimp only
  rw [hu]
  refine ite_congr (propext ?_) (fun _ => rfl) (fun _ => rfl)
  simp only [Bool.or_eq_true, Bool.not_eq_true', decide_eq_true_eq, or_assoc]

end

end Sys2Proof.Machine

/-! ## The Herez fabric (R472 to R476) -/

namespace Sys2Proof.Machine

open Sys2Proof.Claims

/-! ### Flits (R473) -/

theorem corrected_short {bs : List Byte} (h : bs.length ≠ 256) : corrected bs = none := if_pos h

theorem differing_self (a : List Byte) : differing a a = 0 := by
  induction a with
  | nil => rfl
  | cons b a ih => simpa [differing] using ih

/-- A flit whose parity fits is taken as it came. -/
theorem corrected_fits {bs : List Byte} (h : bs.length = 256) (hp : bs.drop 240 = fixed 16 (Config.fecParity (bs.take 240))) :
    corrected bs = some (bs.take 240) := by
  have hok : ((bs.take 240).length = 240 && differing (bs.take 240 ++ fixed 16 (Config.fecParity (bs.take 240))) bs ≤ 8) = true := by
    rw [← hp, List.take_append_drop, differing_self]
    simp [h]
  unfold corrected
  rw [if_neg (Classical.not_not.2 h)]
  exact if_pos hok

/-- A corrected flit differs from the received one in no more than 8 bytes. -/
theorem corrected_near {bs b : List Byte} (h : corrected bs = some b) :
    b.length = 240 ∧ differing (b ++ fixed 16 (Config.fecParity b)) bs ≤ 8 := by
  unfold corrected at h
  simp only at h
  split at h
  · cases h
  · split at h
    · next hok =>
      cases h
      simpa only [Bool.and_eq_true, decide_eq_true_eq] using hok
    · split at h
      · next hok =>
        cases h
        simpa only [Bool.and_eq_true, decide_eq_true_eq] using hok
      · cases h

/-- What an accepted flit does, by the fields of its header. -/
theorem takeFlit_eq (s : State) (p head : Nat) (payload : List Byte) : s.takeFlit p head payload = Claims.accepts s p head payload := by
  have hack : ∀ (x : Herez) (n : Nat), x.acked n =
      { x with retry := if (x.retry.any fun f => f.seq = n) || n = x.sendSeq % 2 ^ 32 then x.retry.dropWhile fun f => f.seq ≠ n else x.retry } := by
    intro x n
    unfold Herez.acked
    split <;> rfl
  unfold State.takeFlit Claims.accepts
  refine ite_congr (propext (by simp only [Bool.or_eq_true, decide_eq_true_eq])) (fun _ => rfl)
    (fun _ => ite_congr rfl (fun _ => ?_) (fun _ => ite_congr (propext ?_) (fun _ => rfl) (fun _ => rfl)))
  · unfold State.control
    simp only [hack]
    rfl
  · rw [Bool.not_eq_true']
    rfl

section
variable {s : State} {p : Nat} {bs b : List Byte}

theorem exec_flit_down (h : ¬ IsUp s p) : exec (.herezFlitReceive p bs) s = .next s :=
  congrArg Host.Outcome.next (if_pos (by rw [Bool.not_eq_true', ← Bool.not_eq_true, upPort_iff]; exact h))

/-- A flit that cannot be corrected, or whose tag fails, is dropped. -/
theorem exec_flit_drop (h : IsUp s p)
    (hb : ((corrected bs).bind fun b => (s.opened p b).map fun y => (areaNum b 0 8, y)) = none) :
    exec (.herezFlitReceive p bs) s = .next { s with herez := s.herez.put p { s.herezPort p with drops := (s.herezPort p).drops + 1 } } := by
  refine congrArg Host.Outcome.next ((if_neg (by rw [Bool.not_eq_true', ← Bool.not_eq_true, upPort_iff]; exact Classical.not_not.2 h)).trans ?_)
  rw [hb]

/-- A flit out of sequence is a repeat, one for the circuit of a stopped or frozen job waits at its sender, and any other is accepted. -/
theorem exec_flit_opened (h : IsUp s p) {head : Nat} {payload : List Byte}
    (hb : ((corrected bs).bind fun b => (s.opened p b).map fun y => (areaNum b 0 8, y)) = some (head, payload)) :
    exec (.herezFlitReceive p bs) s = .next
      (if head / 2 ^ 16 % 2 ^ 32 ≠ (s.herezPort p).nextSeq % 2 ^ 32 ∨ (head % 8 = 1 ∧ head / 2 ^ 8 % 256 ∈ s.keptTags) then s
        else Claims.accepts { s with herez := s.herez.put p { s.herezPort p with nextSeq := (s.herezPort p).nextSeq + 1 } } p head payload) := by
  refine congrArg Host.Outcome.next ((if_neg (by rw [Bool.not_eq_true', ← Bool.not_eq_true, upPort_iff]; exact Classical.not_not.2 h)).trans ?_)
  rw [hb]
  refine ite_congr (propext ?_) (fun _ => rfl) (fun _ => takeFlit_eq ..)
  simp only [Bool.or_eq_true, Bool.and_eq_true, decide_eq_true_eq, List.contains_iff_mem]

end

/-! ### Ports that change state (R473, R475) -/

/-- A port in another state, with its count of dropped flits starting again. -/
def toLink (s : State) (p : Nat) (l : PortLink) : State := { s with herez := s.herez.put p { s.herezPort p with link := l, drops := 0 } }

theorem setLink_down (s : State) (p : Nat) :
    s.setLink p .down = (((toLink s p .down).rebind s.liveTags).moveFlits p).emit (.telemetry 3 p s.time [0]) := rfl

theorem setLink_up (s : State) (p : Nat) :
    s.setLink p .up =
      (((List.range 144).filter fun d => (((toLink s p .up).rebind s.liveTags).herezPort d).link = .down).foldl State.moveFlits
        (((toLink s p .up).rebind s.liveTags).replay p)).emit (.telemetry 3 p s.time [1]) := rfl

/-- A port that is UP and has dropped 16 flits retrains. -/
theorem exec_portRetrain (p : Nat) (s : State) :
    exec (.herezPortRetrain p) s = .next
      (if p < 144 ∧ (s.herezPort p).link = .up ∧ 16 ≤ (s.herezPort p).drops then toLink s p .retrain else s) :=
  congrArg Host.Outcome.next (ite_congr (propext (by simp only [Bool.and_eq_true, decide_eq_true_eq, and_assoc])) (fun _ => rfl) (fun _ => rfl))

theorem exec_portDown (p : Nat) (s : State) :
    exec (.herezPortDown p) s = .next (if p < 144 ∧ (s.herezPort p).link = .retrain then s.setLink p .down else s) :=
  congrArg Host.Outcome.next (ite_congr (propext (by simp only [Bool.and_eq_true, decide_eq_true_eq])) (fun _ => rfl) (fun _ => rfl))

theorem exec_portUp (p : Nat) (s : State) :
    exec (.herezPortUp p) s = .next (if (s.herezPort p).link = .up ∨ 144 ≤ p then s else s.setLink p .up) :=
  congrArg Host.Outcome.next (ite_congr (propext (by simp only [Bool.or_eq_true, decide_eq_true_eq])) (fun _ => rfl) (fun _ => rfl))

/-- No link retry buffer holds a flit. -/
def NoRetry (s : State) : Prop := ∀ p, (s.herezPort p).retry = []

theorem noRetry_of_listed {s : State} (h : ∀ e ∈ s.herez, e.2.retry = []) : NoRetry s := by
  intro p
  unfold State.herezPort
  generalize s.herez = m at h
  induction m with
  | nil => rfl
  | cons e m ih =>
    rw [SMap.get]
    split
    · exact h e (List.mem_cons_self ..)
    · exact ih fun x hx => h x (List.mem_cons_of_mem _ hx)

theorem noRetry_toLink {s : State} (h : NoRetry s) (p : Nat) (l : PortLink) : NoRetry (toLink s p l) := by
  intro d
  simp only [State.herezPort, toLink, SMap.get_put]
  split
  · exact h p
  · exact h d

/-- With an empty retry buffer a port has no flit to move or to send again. -/
theorem moveFlits_none {s : State} (h : NoRetry s) (p : Nat) : s.moveFlits p = s := by
  unfold State.moveFlits
  rw [h p]
  rfl

theorem replay_none {s : State} (h : NoRetry s) (p : Nat) : s.replay p = s := by
  unfold State.replay
  rw [h p]
  rfl

theorem foldl_moveFlits_none {s : State} (h : NoRetry s) (l : List Nat) : l.foldl State.moveFlits s = s := by
  induction l with
  | nil => rfl
  | cons p l ih => rw [List.foldl_cons, moveFlits_none h, ih]

/-- Without a reserved circuit and with nothing unacknowledged, a port that goes DOWN is told to Titania, and nothing moves. -/
theorem setLink_down_plain {s : State} (ht : s.liveTags = []) (h : NoRetry s) (p : Nat) :
    s.setLink p .down = emits (toLink s p .down) (.telemetry 3 p s.time [0]) := by
  rw [setLink_down, ht]
  change ((toLink s p .down).moveFlits p).emit _ = _
  rw [moveFlits_none (noRetry_toLink h p .down)]
  rfl

theorem setLink_up_plain {s : State} (ht : s.liveTags = []) (h : NoRetry s) (p : Nat) :
    s.setLink p .up = emits (toLink s p .up) (.telemetry 3 p s.time [1]) := by
  rw [setLink_up, ht]
  change (List.foldl State.moveFlits ((toLink s p .up).replay p) _).emit _ = _
  rw [replay_none (noRetry_toLink h p .up), foldl_moveFlits_none (noRetry_toLink h p .up)]
  rfl

end Sys2Proof.Machine

/-! ### Circuits of a port that goes DOWN (R475) -/

namespace Sys2Proof.Machine

open Sys2Proof.Claims

/-- A flit sent changes its port's link and what leaves the device. -/
theorem sendFlit_frame (s : State) (p cls tag phase : Nat) (data : List Byte) :
    s.sendFlit p cls tag phase data =
      { s with herez := (s.sendFlit p cls tag phase data).herez, out := (s.sendFlit p cls tag phase data).out } := by
  unfold State.sendFlit State.transmit
  dsimp only
  split <;> rfl

theorem sendFlit_stop (s : State) (p cls tag phase : Nat) (data : List Byte) : (s.sendFlit p cls tag phase data).stop = s.stop := by
  rw [sendFlit_frame]

theorem sendFlit_bound (s : State) (p cls tag phase : Nat) (data : List Byte) : (s.sendFlit p cls tag phase data).bound = s.bound := by
  rw [sendFlit_frame]

/-- What every step of a fold keeps, the fold keeps. -/
theorem foldl_keeps {α β γ : Type} (f : α → β) {g : α → γ → α} (h : ∀ a x, f (g a x) = f a) (l : List γ) (a : α) :
    f (l.foldl g a) = f a := by
  induction l generalizing a with
  | nil => rfl
  | cons x l ih => exact (ih _).trans (h a x)

/-- Where every step of a fold keeps `I`, keeps `Q` under `I`, and a step of the list brings `Q` about, the fold ends in `Q`. -/
theorem foldl_reaches {α γ : Type} {I Q : α → Prop} {g : α → γ → α} {x : γ} : ∀ {l : List γ} {a : α},
    (∀ a, ∀ y ∈ l, I a → I (g a y)) → (∀ a, ∀ y ∈ l, I a → Q a → Q (g a y)) → (∀ a, I a → Q (g a x)) → I a → x ∈ l ∨ Q a → Q (l.foldl g a)
  | [], _, _, _, _, _, hx => hx.resolve_left List.not_mem_nil
  | y :: l, a, hI, hQ, hr, ha, hx => by
    have hstep : x ∈ l ∨ Q (g a y) := by
      rcases hx with hx | hx
      · rcases List.mem_cons.1 hx with rfl | hx
        · exact .inr (hr a ha)
        · exact .inl hx
      · exact .inr (hQ a y (List.mem_cons_self ..) ha hx)
    exact foldl_reaches (l := l) (a := g a y) (fun a z hz => hI a z (List.mem_cons_of_mem _ hz)) (fun a z hz => hQ a z (List.mem_cons_of_mem _ hz)) hr
      (hI a y (List.mem_cons_self ..) ha) hstep

theorem moveFlits_bound (s : State) (p : Nat) : (s.moveFlits p).bound = s.bound := by
  refine foldl_keeps State.bound (fun u f => ?_) _ s
  dsimp only
  split
  · rfl
  · rw [sendFlit_bound]

theorem find_put {α : Type} (m : SMap α) (n k : Nat) (v : α) :
    (m.put n v).find? (fun e => e.1 = k) = if n = k then some (n, v) else m.find? fun e => e.1 = k := by
  induction m with
  | nil => by_cases h : n = k <;> simp [SMap.put, h]
  | cons e m ih =>
    obtain ⟨i, w⟩ := e
    unfold SMap.put
    split
    · by_cases h : n = k <;> simp [h]
    · split
      · next h1 =>
        subst h1
        by_cases h : n = k <;> simp [h]
      · next h1 =>
        rw [List.find?_cons, ih]
        by_cases h : n = k
        · subst h
          simp [Ne.symm h1]
        · simp [h, List.find?_cons]

/-- One tag under one phase: bound anew where its port is DOWN, or where it has none. -/
def rebindPhase (v : State) (x : Nat × Nat) : State :=
  match v.bound.find? fun e => e.1 = 8 * x.1 + x.2 with
  | some e => if (v.herezPort e.2).link = .down then v.bindPhase x.1 x.2 else v
  | none => v.bindPhase x.1 x.2

/-- The tags with each of their phases. -/
def phasesOf (ts : List Nat) : List (Nat × Nat) := ts.flatMap fun t => (List.range 8).map fun f => (t, f)

theorem rebind_eq (s : State) (ts : List Nat) : s.rebind ts = (phasesOf ts).foldl rebindPhase s := by
  unfold phasesOf
  rw [List.foldl_flatMap]
  simp only [List.foldl_map]
  rfl

theorem mem_phasesOf {ts : List Nat} {x : Nat × Nat} : x ∈ phasesOf ts ↔ x.1 ∈ ts ∧ x.2 < 8 := by
  obtain ⟨t, f⟩ := x
  simp only [phasesOf, List.mem_flatMap, List.mem_map, List.mem_range, Prod.mk.injEq]
  exact ⟨fun ⟨_, h1, _, h2, h3, h4⟩ => h3 ▸ h4 ▸ ⟨h1, h2⟩, fun ⟨h1, h2⟩ => ⟨t, h1, f, h2, rfl, rfl⟩⟩

/-- The ports of a mask in rising order: the first that is UP is the lowest. -/
theorem find_maskPorts {g q : Nat} {w : Word} {up : Nat → Bool} (hq : q ∈ maskPorts g w) (hu : up q = true)
    (hlow : ∀ r, r < q → r ∈ maskPorts g w → up r = false) : (maskPorts g w).find? up = some q := by
  have hsorted : (maskPorts g w).Pairwise (· < ·) := by
    unfold maskPorts
    rw [List.pairwise_map]
    exact (List.pairwise_lt_range.filter _).imp fun h => Nat.add_lt_add_left h _
  obtain ⟨as, bs, hl⟩ := List.append_of_mem hq
  refine List.find?_eq_some_iff_append.2 ⟨hu, as, bs, hl, fun a ha => ?_⟩
  rw [hl, List.pairwise_append] at hsorted
  have hlt : a < q := hsorted.2.2 a ha q (List.mem_cons_self ..)
  simp [hlow a hlt (hl ▸ List.mem_append_left _ ha)]

/-- A state of a rebinding that has started in `s`: the links and the tag tables as they were, and the circuit of key `n` still on port `p`
or on port `q`. -/
structure Moving (s : State) (n p q : Nat) (v : State) : Prop where
  herez : v.herez = s.herez
  tags : v.tags = s.tags
  bound : v.bound.find? (fun e => e.1 = n) = some (n, p) ∨ v.bound.find? (fun e => e.1 = n) = some (n, q)

section
variable {s v : State} {t f p q : Nat}

theorem bindPhase_frame (v : State) (t f : Nat) : v.bindPhase t f = { v with bound := (v.bindPhase t f).bound } := by
  unfold State.bindPhase
  split <;> rfl

theorem rebindPhase_frame (v : State) (x : Nat × Nat) : rebindPhase v x = { v with bound := (rebindPhase v x).bound } := by
  unfold rebindPhase
  split
  · split
    · exact bindPhase_frame ..
    · rfl
  · exact bindPhase_frame ..

theorem bindPhase_find_other (v : State) {x : Nat × Nat} {n : Nat} (h : 8 * x.1 + x.2 ≠ n) :
    (v.bindPhase x.1 x.2).bound.find? (fun e => e.1 = n) = v.bound.find? fun e => e.1 = n := by
  unfold State.bindPhase
  split
  · exact (find_put ..).trans (if_neg h)
  · rfl

/-- The phases of other tags, and other phases of the tag, leave a circuit on its port. -/
theorem rebindPhase_find_other (v : State) {x : Nat × Nat} {n : Nat} (h : 8 * x.1 + x.2 ≠ n) :
    (rebindPhase v x).bound.find? (fun e => e.1 = n) = v.bound.find? fun e => e.1 = n := by
  unfold rebindPhase
  split
  · split
    · exact bindPhase_find_other v h
    · rfl
  · exact bindPhase_find_other v h

variable (hp : (s.herezPort p).link = .down) (hq : (s.herezPort q).link = .up) (hlow : s.lowestUp t f = some q)
include hq

/-- A circuit on a port that is UP stays there. -/
theorem rebindPhase_settled (h : Moving s (8 * t + f) p q v) (hb : v.bound.find? (fun e => e.1 = 8 * t + f) = some (8 * t + f, q)) :
    rebindPhase v (t, f) = v := by
  have hport : (v.herezPort q).link = .up := by
    rw [State.herezPort, h.herez]
    exact hq
  unfold rebindPhase
  simp only [hb, hport]
  rfl

include hp hlow

/-- A circuit on the port that is DOWN moves to the lowest-numbered port of its mask that is UP. -/
theorem rebindPhase_moves (h : Moving s (8 * t + f) p q v) :
    (rebindPhase v (t, f)).bound.find? (fun e => e.1 = 8 * t + f) = some (8 * t + f, q) := by
  rcases h.bound with hb | hb
  · have hport : (v.herezPort p).link = .down := by
      rw [State.herezPort, h.herez]
      exact hp
    have hlow' : v.lowestUp t f = some q := by
      have hup : v.upPort = s.upPort := funext fun r => by rw [upPort_eq, upPort_eq, h.herez]
      rw [State.lowestUp, h.tags, hup]
      exact hlow
    unfold rebindPhase
    simp only [hb, hport, if_true, State.bindPhase, hlow', find_put]
  · rw [rebindPhase_settled hq h hb, hb]

theorem rebindPhase_keeps (h : Moving s (8 * t + f) p q v) (x : Nat × Nat) (hx : x.2 < 8) (hf : f < 8) :
    Moving s (8 * t + f) p q (rebindPhase v x) := by
  refine ⟨?_, ?_, ?_⟩
  · rw [rebindPhase_frame]
    exact h.herez
  · rw [rebindPhase_frame]
    exact h.tags
  · by_cases hk : 8 * x.1 + x.2 = 8 * t + f
    · obtain rfl : x = (t, f) := Prod.ext (by omega) (by omega)
      exact .inr (rebindPhase_moves hp hq hlow h)
    · rw [rebindPhase_find_other v hk]
      exact h.bound

/-- After a rebinding of tags, a circuit of one of them that was on a port that is DOWN is on the lowest-numbered port of its mask that is
UP. -/
theorem rebind_moves {ts : List Nat} (ht : t ∈ ts) (hf : f < 8) (hb : s.bound.find? (fun e => e.1 = 8 * t + f) = some (8 * t + f, p)) :
    (s.rebind ts).bound.find? (fun e => e.1 = 8 * t + f) = some (8 * t + f, q) := by
  rw [rebind_eq]
  refine foldl_reaches (I := Moving s (8 * t + f) p q) (Q := fun v => v.bound.find? (fun e => e.1 = 8 * t + f) = some (8 * t + f, q))
    (x := (t, f)) (fun v x hx h => rebindPhase_keeps hp hq hlow h x (mem_phasesOf.1 hx).2 hf) (fun v x hx h hv => ?_)
    (fun v h => rebindPhase_moves hp hq hlow h) ⟨rfl, rfl, .inl hb⟩ (.inl (mem_phasesOf.2 ⟨ht, hf⟩))
  by_cases hk : 8 * x.1 + x.2 = 8 * t + f
  · obtain rfl : x = (t, f) := Prod.ext (by have := (mem_phasesOf.1 hx).2; omega) (by have := (mem_phasesOf.1 hx).2; omega)
    exact rebindPhase_moves hp hq hlow h
  · rw [rebindPhase_find_other v hk]
    exact hv

end

theorem toLink_herezPort (s : State) (p r : Nat) (l : PortLink) :
    (toLink s p l).herezPort r = if p = r then { s.herezPort p with link := l, drops := 0 } else s.herezPort r := SMap.get_put ..

/-- A port that goes DOWN hands its circuits on to the lowest-numbered port of their masks that is UP (R475). -/
theorem setLink_down_moves {s : State} {p t f q : Nat} (ht : t ∈ s.liveTags) (hf : f < 8)
    (hb : s.bound.find? (fun e => e.1 = 8 * t + f) = some (8 * t + f, p))
    (hq : q ∈ maskPorts (exitGroup t) (SMap.get 0 s.tags (2048 * (256 + exitGroup t) + 8 * t + f))) (hqp : q ≠ p) (hup : IsUp s q)
    (hlow : ∀ r, r < q → r ∈ maskPorts (exitGroup t) (SMap.get 0 s.tags (2048 * (256 + exitGroup t) + 8 * t + f)) → r = p ∨ ¬ IsUp s r) :
    (s.setLink p .down).bound.find? (fun e => e.1 = 8 * t + f) = some (8 * t + f, q) := by
  have hports : ∀ r, (toLink s p .down).upPort r = true ↔ r ≠ p ∧ IsUp s r := by
    intro r
    rw [State.upPort, toLink_herezPort]
    by_cases hr : p = r
    · simp [hr]
    · rw [if_neg hr, ← upPort_iff]
      exact ⟨fun h => ⟨Ne.symm hr, h⟩, fun h => h.2⟩
  have hlowest : (toLink s p .down).lowestUp t f = some q :=
    find_maskPorts hq ((hports q).2 ⟨hqp, hup⟩) fun r hr hm => by
      rw [← Bool.not_eq_true, hports]
      rintro ⟨h1, h2⟩
      exact (hlow r hr hm).elim h1 fun h => h h2
  rw [setLink_down, State.emit_bound, moveFlits_bound]
  refine rebind_moves (s := toLink s p .down) ?_ ?_ hlowest ht hf hb
  · rw [toLink_herezPort, if_pos rfl]
  · rw [toLink_herezPort, if_neg (Ne.symm hqp)]
    exact hup.2

/-! ### Answers to peers (R476) -/

theorem ite_stop {p : Prop} [Decidable p] {s u : State} (h : u.stop = s.stop) : (if p then s else u).stop = s.stop := by
  by_cases hp : p
  · rw [if_pos hp]
  · rw [if_neg hp, h]

/-- A response, sent by the ports of the tag's mask or dropped, stops nothing. -/
theorem respond_stop (s : State) (t addr : Nat) (data : List Byte) : (s.respond t addr data).stop = s.stop := by
  unfold State.respond State.routed
  split
  · dsimp only
    exact ite_stop (foldl_keeps State.stop (fun u i => sendFlit_stop ..) _ s)
  · rfl

/-- The responses under a tag whose entry is invalid are dropped and counted (R256). -/
theorem respond_invalid {s : State} {t : Nat} (h : (s.groupEntry (exitGroup t) t).getLsbD 63 = false) (addr : Nat) (data : List Byte) :
    s.respond t addr data = errs s errFlitTag (256 + exitGroup t) :=
  if_neg (by rw [Bool.not_eq_true]; exact h)

/-- A peer writes inside the window of its tag, and not while a checkpoint closes the windows. -/
theorem exec_remoteWrite {s : State} {w : Nat} {x : FabricWindow} (hx : SMap.get none s.fabricWindows w = some x) (t a n : Nat)
    (bs : List Byte) :
    exec (.remoteFabricAccess w t a n (some bs)) s = finish
      (if x.tag ≠ t ∨ 4096 * x.pages < a + bs.length ∨ s.checkpoint ≠ .none then s else s.peerWrite (4096 * x.page + a) bs) := by
  refine congrArg finish ?_
  rw [hx]
  by_cases h : x.tag ≠ t ∨ 4096 * x.pages < a + bs.length
  · exact (if_pos (by simpa only [Bool.or_eq_true, decide_eq_true_eq] using h)).trans (if_pos (or_assoc.1 (.inl h))).symm
  · refine (if_neg (by simpa only [Bool.or_eq_true, decide_eq_true_eq] using h)).trans (ite_congr (propext ?_) (fun _ => rfl) (fun _ => rfl))
    rw [← or_assoc]
    exact ⟨.inr, fun hc => hc.resolve_left h⟩

/-- A peer reads inside the window of its tag, and the bytes leave under the tag. -/
theorem exec_remoteRead {s : State} {w : Nat} {x : FabricWindow} (hx : SMap.get none s.fabricWindows w = some x) (t a n : Nat) :
    exec (.remoteFabricAccess w t a n none) s = finish (if x.tag ≠ t ∨ 4096 * x.pages < a + n then s
      else ((List.range n).foldl (fun (u : State) i => u.touch ((Phys.dev (4096 * x.page + a)).plus i)) s).respond t a
        (s.bytesAt (.dev (4096 * x.page + a)) n)) := by
  refine congrArg finish ?_
  rw [hx]
  exact ite_congr (propext (by simp only [Bool.or_eq_true, decide_eq_true_eq])) (fun _ => rfl) (fun _ => rfl)

end Sys2Proof.Machine

namespace Sys2Proof.Machine

open Sys2Proof.Claims

/-- Settles O54: hosts, channels, windows, checkpoints, flits and ports each by the lemmas of their events. -/
theorem hostAndFabricEvents : Obligations.HostAndFabricEvents := by
  unfold Obligations.HostAndFabricEvents
  intro s hs
  refine ⟨fun p a st bs n h => ?absent, fun p a st bs n ch t hb h => ?retry, fun p a st bs hb h hw => exec_hostWrite_closed hs hb h hw,
    fun p a st bs w hb h hc hw => ?write, fun p a st n hb h hw => exec_hostRead_closed hs hb h hw, fun p a st n w hb h hw => ?read,
    fun ch t hb => ?doorbell, fun ch svc => ?client,
    fun p h => ⟨congrArg Host.Outcome.next (if_pos h), congrArg Host.Outcome.next (if_pos h)⟩,
    fun p h => ⟨congrArg Host.Outcome.next (if_neg (Nat.not_le.2 h)), congrArg Host.Outcome.next (if_neg (Nat.not_le.2 h))⟩,
    fun p i b g n => ?deviceWindow, fun p i st w hw => ?tdisp, fun w p n => ?hostWindow, fun hb hc => ?ckRequest, fun h => ?ckBusy,
    ?engine, fun f c pf pc k => ?restore, fun bs => ⟨corrected_short, corrected_fits, fun b => corrected_near⟩, fun p bs => ?flit,
    fun g c => rfl, fun p => ?ports, fun w t g n => ?fabricWindow, fun w x t a n hx => ?remote⟩
  case absent =>
    exact ⟨(congrArg finish (fromHost_absent _ h)).trans (finish_eq s hs), (congrArg finish (fromHost_absent _ h)).trans (finish_eq s hs)⟩
  case retry =>
    refine ⟨(congrArg finish (fromHost_retry _ h hb)).trans (finish_eq _ hs), (congrArg finish (fromHost_retry _ h hb)).trans (finish_eq _ hs),
      fun hch => ?_⟩
    subst hch
    exact congrArg Host.Outcome.next (fromHost_retry _ h hb)
  case write =>
    intro ps u hu
    rw [exec_hostWrite_open hb h hc hw]
    exact finish_eq _ hu
  case read =>
    intro at0 u hu
    rw [exec_hostRead_open hb h hw]
    exact finish_eq _ hu
  case doorbell =>
    have hgo : ∀ go, s.fromHost (channelHost ch) go = go := fun go => fromHost_goes go (Nat.mod_lt _ (by omega)) hb
    exact ⟨fun h => congrArg Host.Outcome.next ((hgo _).trans (if_neg (Nat.not_le.2 h))),
      fun h => congrArg Host.Outcome.next ((hgo _).trans (if_pos h))⟩
  case client =>
    intro x at0 entry
    refine ⟨fun h => ?_, fun hb hx he => ?_⟩
    · obtain ⟨st, hexec⟩ := exec_clientRequest s ch svc
      exact hexec.trans ((congrArg finish (if_pos h)).trans (finish_eq s hs))
    · intro place replied u answers hu
      have hserve : ∀ {v : State}, served u ch svc = v → v.stop = none → answers v := fun hv hstop =>
        exec_clientRequest_serves hb hx he hv hstop
      refine ⟨?_, ?_, ?_, ?_, ?_⟩
      · rintro rfl
        exact hserve rfl hu
      · rintro w rfl
        exact hserve (served_powerCap u ch w) hu
      · rintro q rfl
        exact hserve rfl hu
      · rintro rfl
        exact hserve (startCheckpoint_eq u) (startCheckpoint_eq u ▸ (startCheckpoint_stop u).trans hu)
      · rintro va g rfl
        refine ⟨fun h => hserve (served_admit_none h) hu, fun v h hv => hserve (served_admit_some h) hv, fun h => admitFor_none ?_⟩
        exact h.imp_right fun h => (congrArg (SMap.get none · g) (touch_regions s at0)).trans h
  case deviceWindow =>
    have hg : s.guardedIn g n = true ↔ GuardedIn s g n := guardedIn_iff s g n
    refine ⟨fun hi hp hn hw => ?_, fun hi hp => ?_, fun h => ?_⟩
    · rw [exec_deviceWindowMap, if_neg (by simp [hg, hw, Nat.not_le.2 hi, Nat.not_le.2 hp]), if_neg hn]
    · rw [exec_deviceWindowMap, if_neg (by simp [guardedIn_iff, not_guardedIn_zero, Nat.not_le.2 hi, Nat.not_le.2 hp]), if_pos rfl]
    · rw [exec_deviceWindowMap, if_pos (by rw [hg]; exact h)]
  case tdisp =>
    refine congrArg Host.Outcome.next ?_
    rw [hw]
  case hostWindow =>
    intro new
    refine ⟨fun h => congrArg Host.Outcome.next (if_pos ?_), fun hw hp hn hm => ?_⟩
    · simpa only [Bool.or_eq_true, decide_eq_true_eq, or_assoc] using h
    · have hx := exec_hostWindowMap hw hp hn hm
      refine ⟨fun hd => ?_, fun hd => ?_⟩
      · exact hx.trans (congrArg Host.Outcome.next (if_pos ((dropsPinned_iff s w new).2 hd)))
      · exact hx.trans (congrArg Host.Outcome.next (if_neg (mt (dropsPinned_iff s w new).1 hd)))
  case ckRequest =>
    refine congrArg Host.Outcome.next ((if_pos hb).trans ?_)
    rw [startCheckpoint_eq, if_pos hc]
  case ckBusy =>
    refine congrArg Host.Outcome.next ?_
    rw [startCheckpoint_eq]
    rcases h with h | h <;> simp [h]
  case engine =>
    intro held done
    rw [exec_engineDone]
    refine ⟨fun h => ?_, fun hheld hc hr => ?_⟩
    · by_cases hheld : held
      · exact (congrArg finish (if_pos hheld)).trans (finish_eq s hs)
      · rw [if_neg hheld, h.resolve_left hheld]
        exact finish_eq s hs
    · rw [if_neg hheld]
      cases hck : s.checkpoint with
      | none => exact absurd hck hc
      | copying =>
        have hre := reopenDevice_eq (s := { s with images := s.images ++ [imageOf s] }) hr
        exact (congrArg (fun v => finish (emits v _)) hre).trans (finish_eq _ hs)
      | restoring =>
        simp only [reopenDevice_eq hr]
        exact finish_eq _ hs
  case restore =>
    refine ⟨fun h => exec_restore_none (safeImage_none h), fun x older newer himg hx hn => ?_⟩
    have hsafe := safeImage_some himg hx hn
    obtain ⟨rfl, rfl, rfl, rfl, rfl⟩ := hx
    refine ⟨exec_restore_locked hsafe, fun ks hk => ⟨fun h => ?_, fun hb hc hfit => ?_⟩⟩
    · rw [exec_restore hsafe hk, if_pos]
      rwa [← Bool.not_eq_true (s.mayLoadKeys ks), mayLoadKeys_iff]
    · rw [exec_restore hsafe hk, if_neg]
      rw [← Bool.not_eq_true (s.mayLoadKeys ks), mayLoadKeys_iff]
      simp [hb, hc, hfit]
  case flit =>
    intro x
    refine ⟨exec_flit_down, fun hup => ?_⟩
    intro drop
    refine ⟨fun hc => exec_flit_drop hup (by rw [hc]; rfl), fun b hc => ?_⟩
    intro head key
    refine ⟨fun ho => exec_flit_drop hup ?_, fun payload ho => ?_⟩
    · rw [hc, Option.bind_some, State.opened, ho]
      rfl
    · have hx := exec_flit_opened hup (bs := bs) (head := head) (payload := payload)
        (by rw [hc, Option.bind_some, State.opened, ho]; rfl)
      exact ⟨fun hw => hx.trans (congrArg Host.Outcome.next (if_pos hw)), fun hw => hx.trans (congrArg Host.Outcome.next (if_neg hw))⟩
  case ports =>
    intro x toLink' plain
    have hplain : plain → s.liveTags = [] ∧ NoRetry s := fun h => ⟨h.1, noRetry_of_listed h.2⟩
    rw [exec_portRetrain, exec_portDown, exec_portUp]
    refine ⟨fun h1 h2 h3 => congrArg Host.Outcome.next (if_pos ⟨h2, h1, h3⟩), fun h => congrArg Host.Outcome.next (if_neg ?_),
      fun h1 h2 => ⟨congrArg Host.Outcome.next (if_pos ⟨h2, h1⟩), fun h => setLink_down_plain (hplain h).1 (hplain h).2 p,
        fun t f q ht hf hb hq hqp hup hlow => setLink_down_moves ht hf hb hq hqp hup hlow⟩,
      fun h => congrArg Host.Outcome.next (if_neg ?_),
      fun h1 h2 => ⟨congrArg Host.Outcome.next (if_neg ?_), fun h => setLink_up_plain (hplain h).1 (hplain h).2 p⟩,
      fun h => congrArg Host.Outcome.next (if_pos h)⟩
    · rintro ⟨h1, h2, h3⟩
      rcases h with h | h | h
      · exact h h2
      · exact Nat.not_le.2 h1 h
      · exact Nat.not_le.2 h h3
    · rintro ⟨h1, h2⟩
      exact h.elim (fun h => h h2) (Nat.not_le.2 h1)
    · exact fun h => h.elim h1 (Nat.not_le.2 h2)
  case fabricWindow =>
    have hg : s.guardedIn g n = true ↔ GuardedIn s g n := guardedIn_iff s g n
    refine ⟨fun hn ht ho hw => ?_, fun hn h => ?_, congrArg Host.Outcome.next (if_pos rfl)⟩
    · rw [exec_fabricWindowExport, if_neg hn, if_neg (by simp [hg, hw, ho, Nat.not_le.2 ht])]
    · rw [exec_fabricWindowExport, if_neg hn, if_pos (by rw [hg]; exact h)]
  case remote =>
    intro at0
    refine ⟨fun bs h => ?_, fun bs ht hl hc => ?_, fun h => ?_, fun ht hl => ?_⟩
    · exact (exec_remoteWrite hx t a n bs).trans ((congrArg finish (if_pos h)).trans (finish_eq s hs))
    · intro ps u hu
      rw [exec_remoteWrite hx, if_neg (by simp [ht, hc, Nat.not_lt.2 hl])]
      exact finish_eq u hu
    · exact (exec_remoteRead hx t a n).trans ((congrArg finish (if_pos h)).trans (finish_eq s hs))
    · intro u hu
      refine ⟨?_, fun h => respond_invalid h a _⟩
      rw [exec_remoteRead hx, if_neg (by simp [ht, Nat.not_lt.2 hl])]
      exact finish_eq _ ((respond_stop ..).trans hu)

end Sys2Proof.Machine
